-- ==== Sys2Proof/Word.lean ====
section
/-! DEFINITION. The widths the datasheet gives its numbers: bytes of frames, positions of the belt, counts and destination sets. -/

namespace Sys2Proof

/-- A byte of a frame or of the configuration image; also a station number, a handoff id or an epoch (00, sections 3.3 to 3.5). -/
abbrev Byte := BitVec 8

/-- A value of the distance counter D, in micrometres modulo 2^32 (R1). -/
abbrev Pos := BitVec 32

/-- A 32-bit count that wraps (R39, R77, R117, R178). -/
abbrev Count := BitVec 32

/-- A destination set: bit i stands for destination i (00, section 3.3). -/
abbrev DestSet := BitVec 48

end Sys2Proof
end

