-- ==== Sys2Proof/Config.lean ====
section
/-! DEFINITION. What is fixed in the part (the parameter tables of chapters 1 to 10) and the one value the datasheet leaves free. -/

namespace Sys2Proof

/-- 1.1: belt travel of the chatter watch, 20 mm. -/
def Config.chatter : Int := 20000
/-- R5: the highest measured speed in mm/s. -/
def Config.maxSpeed : Nat := 4000
/-- R5: where the overspeed count holds. -/
def Config.maxOverspeed : Nat := 65535
/-- R13: halt quiet time in ms. -/
def Config.quietTime : Nat := 100
/-- R14: speed windows of low speed that make a stall. -/
def Config.stallWindows : Nat := 200
/-- R17: records of the segment queue. -/
def Config.segmentSlots : Nat := 32
/-- R24: the shortest recorded length in mm. -/
def Config.minLength : Nat := 20
/-- R30: entries of the departure history. -/
def Config.historySize : Nat := 32
/-- 3.1: read timeout in ms. -/
def Config.readTimeout : Nat := 80
/-- 3.1: health poll idle time in ms. -/
def Config.idleTime : Nat := 500
/-- R47: misses that set READER_DOWN. -/
def Config.missLimit : Nat := 3
/-- R40: reader request queue. -/
def Config.readQueue : Nat := 4
/-- R58: sets of the route cache. -/
def Config.cacheSets : Nat := 64
/-- R64: entries of the Query Table. -/
def Config.queryEntries : Nat := 8
/-- R61: waiters of one query. -/
def Config.queryWaiters : Nat := 4
/-- R64: query deadline in ms. -/
def Config.queryDeadline : Nat := 200
/-- R97: bags of one window. -/
def Config.windowBags : Nat := 4
/-- R119: answer wait in ms. -/
def Config.answerWait : Nat := 50
/-- R120: retry delay in ms. -/
def Config.retryDelay : Nat := 20
/-- R120: attempts of one handoff. -/
def Config.attempts : Nat := 5
/-- R122: give-ups in a row that mark a peer DOWN. -/
def Config.giveUpLimit : Nat := 3
/-- R129: entries of the expected list. -/
def Config.expectedEntries : Nat := 16
/-- R133: pairs of the recent-missing ring. -/
def Config.recentMissing : Nat := 16
/-- R136: chute-full close time in ms. -/
def Config.closeRun : Nat := 500
/-- R136: chute-full reopen time in ms. -/
def Config.reopenRun : Nat := 2000
/-- 8.1: one quantum of a hold in ms. -/
def Config.quantum : Nat := 20
/-- R142: the hold value of a jam. -/
def Config.jamHold : Nat := 255
/-- R152: records of the exception list. -/
def Config.exceptionList : Nat := 32
/-- R153: entries of the watch list. -/
def Config.watchEntries : Nat := 16
/-- R153: lifetime of a watch entry in s. -/
def Config.watchLife : Nat := 600
/-- R167: frames of the transmit queue, the frame in attempt included. -/
def Config.transmitQueue : Nat := 16
/-- R172: collisions after which a frame is abandoned. -/
def Config.maxCollisions : Nat := 13
/-- R181: wait before the memory is addressed again, in ms. -/
def Config.readdressWait : Nat := 5
/-- R181: unacknowledged addresses that end the load. -/
def Config.nackLimit : Nat := 3
/-- R183: listen time in ms. -/
def Config.listenTime : Nat := 300
/-- 3.3 of chapter 0: the largest plate number. -/
def Config.maxPlate : Nat := 9999999999

/-- R4 leaves the order of reports of different owners open ("Positions of different owners need no order among
themselves"): the n-th open choice of a run takes this value, of which nothing is known. DESIGN CHOICE of the form,
log 6; safe: every order is allowed. -/
opaque Config.freePick : Nat → Nat

end Sys2Proof
end

