-- ==== Sys2Proof/Syntax.lean ====
section
/-! DEFINITION. The commands of the J24: one constructor of `Instr` for each row of spec/opcode_table.json, with the
operands the named event carries, and the frame payloads of R179 as they stand on the line (raw widths). -/

namespace Sys2Proof

/-- Outlets 0 to 3 (00, section 3.5); outlet 0 is the straight-through discharge. -/
inductive Outlet where
  | o0 | o1 | o2 | o3
  deriving DecidableEq, Repr

/-- Diverters 1 to 3. -/
inductive Diverter where
  | d1 | d2 | d3
  deriving DecidableEq, Repr

/-- The five photo-eyes (section 1.5). -/
inductive Eye where
  | entry | exit
  | confirm (k : Diverter)
  deriving DecidableEq, Repr

/-- What RESET finds on the field lines, straps and fuses when the part leaves reset (R180, R8: "taken as found and not
as an edge"). The J24 has no operand of its own for them; DESIGN CHOICE, log 4. -/
structure ResetLines where
  /-- STRAP0 to STRAP6, STRAP0 the least significant bit. -/
  straps : BitVec 7
  /-- The factory ID of the fuses. -/
  fuses : BitVec 32
  /-- ESTOP_N asserted. -/
  estop : Bool
  /-- JAMCLR_N active. -/
  jamclr : Bool
  encA : Bool
  encB : Bool
  /-- Eyes blocked: EYE_IN, EYE_X0, CFM1 to CFM3. -/
  eyeIn : Bool
  eyeX0 : Bool
  cfm1 : Bool
  cfm2 : Bool
  cfm3 : Bool
  /-- FULL1 to FULL3 asserted. -/
  full1 : Bool
  full2 : Bool
  full3 : Bool
  deriving DecidableEq, Repr

/-- DEST and SRC of a received frame. -/
structure Header where
  dest : Byte
  src : Byte
  deriving DecidableEq, Repr

/-- The 7 bytes of a manifest part as carried in a frame (R179). -/
structure RawPart where
  ship : Byte
  cabin : BitVec 16
  destination : Byte
  cls : Byte
  revision : BitVec 16
  deriving DecidableEq, Repr

/-- HANDOFF payload (R179). -/
structure HandoffPayload where
  id : Byte
  plate : BitVec 40
  present : Byte
  part : RawPart
  passCount : Byte
  flags : Byte
  length : BitVec 16
  reason : Byte
  deriving DecidableEq, Repr

/-- ANSWER payload. -/
structure AnswerPayload where
  plate : BitVec 40
  found : Byte
  part : RawPart
  epoch : Byte
  deriving DecidableEq, Repr

/-- UPDATE payload. -/
structure UpdatePayload where
  plate : BitVec 40
  part : RawPart
  epoch : Byte
  deriving DecidableEq, Repr

/-- ANNOUNCE payload. -/
structure AnnouncePayload where
  factoryId : BitVec 32
  station : Byte
  node : Byte
  checksum : BitVec 16
  deriving DecidableEq, Repr

/-- STRAY payload. -/
structure StrayPayload where
  sequence : BitVec 16
  time : BitVec 32
  reason : Byte
  plate : BitVec 40
  destination : Byte
  disposition : Byte
  related : Byte
  slot : Byte
  deriving DecidableEq, Repr

/-- FOUND payload. -/
structure FoundPayload where
  plate : BitVec 40
  kind : Byte
  place : Byte
  outlet : Byte
  destination : Byte
  time : BitVec 32
  peer : Byte
  handoffState : Byte
  attempts : Byte
  reporter : Byte
  deriving DecidableEq, Repr

/-- ALERT payload. -/
structure AlertPayload where
  counter : Byte
  event : Byte
  limit : BitVec 16
  deriving DecidableEq, Repr

/-- The payloads of the eighteen kinds (R179), as they stand in a frame. -/
inductive Payload where
  | announce (p : AnnouncePayload)
  | handoff (p : HandoffPayload)
  | accept (id : Byte)
  | retry (id : Byte)
  | path (reach : DestSet)
  | hold (quanta : Byte)
  | query (plate : BitVec 40)
  | answer (p : AnswerPayload)
  | update (p : UpdatePayload)
  | epoch (e : Byte)
  | destClose (destinations : DestSet) (action : Byte)
  | stray (p : StrayPayload)
  | missing (plate : BitVec 40) (reporter : Byte)
  | found (p : FoundPayload)
  | statusReq (item page : Byte)
  | statusReply (item page : Byte) (data : List Byte)
  | alert (p : AlertPayload)
  | counterClear
  deriving DecidableEq, Repr

/-- The bytes of a frame that has ended on the line, and whether every stop bit read 1 (R174). -/
structure RawFrame where
  bytes : List Byte
  stopBits : Bool
  deriving DecidableEq, Repr

/-- The commands: one constructor per row of spec/opcode_table.json. -/
inductive Instr where
  /-- RESET (R180) -/
  | reset (lines : ResetLines)
  /-- CONFIG_ADDRESS_NACK (R181) -/
  | configAddressNack
  /-- CONFIG_READDRESS (R181) -/
  | configReaddress
  /-- CONFIG_READ_COMPLETE (R182): the bytes the memory gives from word address 0 on -/
  | configReadComplete (bytes : List Byte)
  /-- LISTEN_TIMEOUT (R183) -/
  | listenTimeout
  /-- ENCODER_COUNT (R1): the levels of ENC_A and ENC_B at this sample -/
  | encoderCount (a b : Bool)
  /-- SPEED_WINDOW_END (R5) -/
  | speedWindowEnd
  /-- STALL_DETECTED (R14) -/
  | stallDetected
  /-- RAMP_STEP (R12) -/
  | rampStep
  /-- HALT_QUIET_TIMEOUT (R13) -/
  | haltQuietTimeout
  /-- ESTOP_ASSERTED (R15) -/
  | estopAsserted
  /-- ESTOP_DEASSERTED (R15) -/
  | estopDeasserted
  /-- JAMCLR_ACTIVATION (R9) -/
  | jamclrActivation
  /-- EYE_LEADING_EDGE (R6) -/
  | eyeLeadingEdge (eye : Eye)
  /-- EYE_TRAILING_EDGE (R7) -/
  | eyeTrailingEdge (eye : Eye)
  /-- CHUTE_FULL_CLOSE (R136) -/
  | chuteFullClose (k : Diverter)
  /-- CHUTE_FULL_REOPEN (R136) -/
  | chuteFullReopen (k : Diverter)
  /-- READ_REPLY (R44): whether the message is whole (R41), its request number and its plate values -/
  | readReply (whole : Bool) (number : Byte) (plates : List Nat)
  /-- POLL_REPLY (R46) -/
  | pollReply (whole : Bool) (number : Byte)
  /-- READ_TIMEOUT (R45) -/
  | readTimeout
  /-- POLL_TIMEOUT (R46) -/
  | pollTimeout
  /-- IDLE_TIMEOUT (R46) -/
  | idleTimeout
  /-- QUERY_DEADLINE (R68), of the entry for a plate -/
  | queryDeadline (plate : Nat)
  /-- EPOCH_WALK_STEP (R76) -/
  | epochWalkStep
  /-- CONFIRM_TIMEOUT (R112), of the record in a slot -/
  | confirmTimeout (slot : Nat)
  /-- ANSWER_WAIT_TIMEOUT (R120), of the handoff to a peer under an id -/
  | answerWaitTimeout (peer id : Byte)
  /-- RETRY_DELAY_TIMEOUT (R120) -/
  | retryDelayTimeout (peer id : Byte)
  /-- HOLD_EXPIRY (R144), of an outlet -/
  | holdExpiry (outlet : Outlet)
  /-- HOLD_REFRESH_TIMEOUT (R143) -/
  | holdRefreshTimeout
  /-- WATCH_LAPSE (R153) -/
  | watchLapse
  /-- TRANSMIT_START (R170) -/
  | transmitStart
  /-- COLLISION (R171) -/
  | collision
  /-- JAM_COMPLETE (R172) -/
  | jamComplete
  /-- BACKOFF_EXPIRY (R172) -/
  | backoffExpiry
  /-- FRAME_SENT (R173) -/
  | frameSent
  /-- HANDOFF_RECEIVED (R124) -/
  | handoffReceived (h : Header) (p : HandoffPayload)
  /-- ACCEPT_RECEIVED (R121) -/
  | acceptReceived (h : Header) (id : Byte)
  /-- RETRY_RECEIVED (R120) -/
  | retryReceived (h : Header) (id : Byte)
  /-- PATH_RECEIVED (R140) -/
  | pathReceived (h : Header) (reach : DestSet)
  /-- HOLD_RECEIVED (R144) -/
  | holdReceived (h : Header) (quanta : Byte)
  /-- ANSWER_RECEIVED (R70) -/
  | answerReceived (h : Header) (p : AnswerPayload)
  /-- UPDATE_RECEIVED (R72) -/
  | updateReceived (h : Header) (p : UpdatePayload)
  /-- EPOCH_RECEIVED (R75) -/
  | epochReceived (h : Header) (epoch : Byte)
  /-- DEST_CLOSE_RECEIVED (R80) -/
  | destCloseReceived (h : Header) (destinations : DestSet) (action : Byte)
  /-- MISSING_RECEIVED (R155) -/
  | missingReceived (h : Header) (plate : BitVec 40) (reporter : Byte)
  /-- FOUND_RECEIVED (R158) -/
  | foundReceived (h : Header) (p : FoundPayload)
  /-- STATUS_REQ_RECEIVED (R164) -/
  | statusReqReceived (h : Header) (item page : Byte)
  /-- COUNTER_CLEAR_RECEIVED (R163) -/
  | counterClearReceived (h : Header)
  /-- ANNOUNCE_RECEIVED (R175) -/
  | announceReceived (h : Header) (p : AnnouncePayload)
  /-- QUERY_RECEIVED (R175) -/
  | queryReceived (h : Header) (plate : BitVec 40)
  /-- STRAY_RECEIVED (R175) -/
  | strayReceived (h : Header) (p : StrayPayload)
  /-- STATUS_REPLY_RECEIVED (R175) -/
  | statusReplyReceived (h : Header) (item page : Byte) (data : List Byte)
  /-- ALERT_RECEIVED (R175) -/
  | alertReceived (h : Header) (p : AlertPayload)
  /-- OWN_NUMBER_FRAME (R184): DEST, KIND and payload of a frame whose SRC is this station's number -/
  | ownNumberFrame (dest kind : Byte) (payload : List Byte)
  /-- FRAME_DISCARDED (R174): a frame that ends on the line -/
  | frameDiscarded (frame : RawFrame)
  /-- RESET_N_ASSERTED (R180) -/
  | resetNAsserted
  deriving DecidableEq, Repr

/-- The command by which a frame that passes every receive check reaches its owner (R175). -/
def Instr.ofPayload (h : Header) : Payload → Instr
  | .announce p => .announceReceived h p
  | .handoff p => .handoffReceived h p
  | .accept id => .acceptReceived h id
  | .retry id => .retryReceived h id
  | .path reach => .pathReceived h reach
  | .hold quanta => .holdReceived h quanta
  | .query plate => .queryReceived h plate
  | .answer p => .answerReceived h p
  | .update p => .updateReceived h p
  | .epoch e => .epochReceived h e
  | .destClose d a => .destCloseReceived h d a
  | .stray p => .strayReceived h p
  | .missing plate r => .missingReceived h plate r
  | .found p => .foundReceived h p
  | .statusReq i p => .statusReqReceived h i p
  | .statusReply i p d => .statusReplyReceived h i p d
  | .alert p => .alertReceived h p
  | .counterClear => .counterClearReceived h

end Sys2Proof
end

