-- ==== Sys2Proof/Decode.lean ====
section
/-! DEFINITION. The J24 is a block: no row of spec/opcode_table.json gives bits, so no word spells a command (log 25). -/

namespace Sys2Proof

/-- The command that a word spells by the table's bits: the table gives bits to no row, so there is none. -/
def decodeTableWord (_nbits _w : Nat) : Option Instr := none

end Sys2Proof
end

