-- ==== Sys2Proof/Machine/State.lean ====
section
/-! DEFINITION. Everything the datasheet gives the J24 to hold, block by block (00, section 2.2), and its value after
reset. Each field's docstring names the rule. INVENTORY.md lists the same pieces with their reset values. -/

namespace Sys2Proof.Machine

/-- The J24 has no rule by which it stops: a configuration fault, a jam or a duplicate station is a state of the part
and not an end of its run, so no step ends in a fault (safe). -/
inductive Fault where
  deriving DecidableEq, Repr

/-- Raised by `exec` alone. -/
inductive Refusal where
  /-- Raised by an arm of `exec` whose command has no meaning yet; no arm raises it (safe). -/
  | notModelled (mnemonic : String)
  deriving DecidableEq, Repr

/-- One value for each outlet 0 to 3. -/
structure PerOutlet (α : Type) where
  o0 : α
  o1 : α
  o2 : α
  o3 : α
  deriving DecidableEq, Repr

/-- One value for each diverter 1 to 3. -/
structure PerDiverter (α : Type) where
  d1 : α
  d2 : α
  d3 : α
  deriving DecidableEq, Repr

/-- The value of an outlet. -/
def PerOutlet.get {α : Type} (p : PerOutlet α) : Outlet → α
  | .o0 => p.o0
  | .o1 => p.o1
  | .o2 => p.o2
  | .o3 => p.o3

/-- Writes the value of one outlet. -/
def PerOutlet.set {α : Type} (p : PerOutlet α) (o : Outlet) (x : α) : PerOutlet α :=
  match o with
  | .o0 => { p with o0 := x }
  | .o1 => { p with o1 := x }
  | .o2 => { p with o2 := x }
  | .o3 => { p with o3 := x }

/-- The value of a diverter. -/
def PerDiverter.get {α : Type} (p : PerDiverter α) : Diverter → α
  | .d1 => p.d1
  | .d2 => p.d2
  | .d3 => p.d3

/-- Writes the value of one diverter. -/
def PerDiverter.set {α : Type} (p : PerDiverter α) (k : Diverter) (x : α) : PerDiverter α :=
  match k with
  | .d1 => { p with d1 := x }
  | .d2 => { p with d2 := x }
  | .d3 => { p with d3 := x }

/-! ## Names of values -/

/-- Node states (section 11.1). -/
inductive NodeState where
  | loading | joining | running | configFault | duplicate
  deriving DecidableEq, Repr

/-- Drive states (R10). -/
inductive DriveState where
  | stopped | accel | run | decel | halted
  deriving DecidableEq, Repr

/-- Reasons of the stop-reason set (R8). -/
inductive StopReason where
  | estop | jam | stall | hold | blocked | notRunning
  deriving DecidableEq, Repr

/-- Outlet kinds (R78). -/
inductive OutletKind where
  | terminal | peer
  deriving DecidableEq, Repr

/-- Handling classes (section 3.3 of chapter 0). -/
inductive BagClass where
  | standard | oversize | inspect | cancelled
  deriving DecidableEq, Repr

/-- Identity of a record (section 2.2). -/
inductive Identity where
  | announced | read | confirmed | unidentified
  deriving DecidableEq, Repr

/-- Route status (R57). -/
inductive RouteStatus where
  | pending | awaitingAnswer | resolved | unresolved
  deriving DecidableEq, Repr

/-- Tracking states (R18). -/
inductive Tracking where
  | entering | onBelt | decided | diverting | diverted | releasedUnconfirmed
  deriving DecidableEq, Repr

/-- Stray reasons, in the order of the table of section 9.2. -/
inductive StrayReason where
  | noRead | noManifest | unannounced | mismatch | ambiguous | duplicate | wrongShip | cancelled | inspect | late
  | recircLimit | noRoute | missing | lost | unknownAtOutlet | overrun | misrouted | uncertain
  deriving DecidableEq, Repr

/-- Dispositions of a stray record (section 9.2). -/
inductive Disposition where
  | exceptionOutlet | forwardedFlagged | notPresent | unknownObject | uncertain
  deriving DecidableEq, Repr

/-- Events an event counter can count, in the order of the table of R159. -/
inductive CounterEvent where
  | entries | strays | noReadResults | queryFailures | overrideLate | gapConflict | diverterBusy | holdOverruns
  | handoffGiveUps | jamsAndStalls | excessCollisions | crcErrors
  deriving DecidableEq, Repr

/-- Handoff state of a departure (R29). -/
inductive HandoffState where
  | none | awaitingAccept | accepted | gaveUp
  deriving DecidableEq, Repr

/-- The flags of a record (section 2.2). -/
structure BagFlags where
  duplicate : Bool := false
  mismatch : Bool := false
  ambiguous : Bool := false
  stray : Bool := false
  atRisk : Bool := false
  uncertain : Bool := false
  overrideLate : Bool := false
  claimable : Bool := false
  deriving DecidableEq, Repr

/-- A manifest part (R55). -/
structure ManifestPart where
  ship : Nat
  cabin : Nat
  destination : Nat
  cls : BagClass
  revision : BitVec 16
  deriving DecidableEq, Repr

/-- A read result (R44); a slot's held result is NONE when absent (R40). -/
inductive ReadResult where
  | noRead
  | one (plate : Nat)
  | several (plates : List Nat)
  deriving DecidableEq, Repr

/-! ## The configuration in force (section 11.3, Configuration image) -/

/-- A diverter block. -/
structure DiverterConfig where
  /-- Lk in mm. -/
  position : Nat
  /-- Tk in ms. -/
  travel : Nat
  /-- Uk in ms. -/
  close : Nat
  /-- Rk in mm. -/
  release : Nat
  /-- Zk in mm. -/
  approach : Nat
  /-- Qk in ms. -/
  confirm : Nat
  deriving DecidableEq, Repr

/-- An outlet route block. -/
structure OutletConfig where
  kind : OutletKind
  peer : Byte
  reach : DestSet
  narrow : Bool
  deriving DecidableEq, Repr

/-- A source block. -/
structure SourceConfig where
  station : Byte
  /-- lead-in in mm -/
  leadIn : Nat
  /-- tolerance in mm -/
  tolerance : Nat
  loopReturn : Bool
  deriving DecidableEq, Repr

/-- The event, limit and chained flag of one event counter. -/
structure CounterConfig where
  event : Option CounterEvent
  limit : Nat
  chained : Bool
  deriving DecidableEq, Repr

/-- The configuration of the junction, as the image gives it. -/
structure JunctionConfig where
  exceptionOutlet : Outlet
  preferred : List Outlet
  loopHead : Bool
  readerPresent : Bool
  ships : BitVec 16
  highMark : Nat
  lowMark : Nat
  holdQuanta : Nat
  passLimit : Nat
  holdMargin : Nat
  counter1 : CounterConfig
  counter2 : CounterConfig
  /-- S in micrometres per count -/
  scale : Nat
  vMax : Nat
  rRun : Nat
  aUp : Nat
  aDn : Nat
  lMax : Nat
  lJam : Nat
  /-- L0 in mm -/
  exitPosition : Nat
  exitTolerance : Nat
  /-- Lr in mm -/
  readerPosition : Nat
  /-- Pdec in mm -/
  decisionPosition : Nat
  /-- Kc in mm -/
  claimDistance : Nat
  diverters : PerDiverter (Option DiverterConfig)
  outlets : PerOutlet (Option OutletConfig)
  sources : List SourceConfig
  deriving DecidableEq, Repr

/-- What is read where no configuration is in force (LOADING and CONFIG_FAULT): no part of it is configured. No rule
reads it in those node states. -/
def JunctionConfig.absent : JunctionConfig :=
  { exceptionOutlet := .o0, preferred := [], loopHead := false, readerPresent := false, ships := 0, highMark := 0,
    lowMark := 0, holdQuanta := 0, passLimit := 0, holdMargin := 0, counter1 := ⟨none, 0, false⟩,
    counter2 := ⟨none, 0, false⟩, scale := 0, vMax := 0, rRun := 0, aUp := 0, aDn := 0, lMax := 0, lJam := 0,
    exitPosition := 0, exitTolerance := 0, readerPosition := 0, decisionPosition := 0, claimDistance := 0,
    diverters := ⟨none, none, none⟩, outlets := ⟨none, none, none, none⟩, sources := [] }

/-! ## Field lines and pins -/

/-- The input lines as the part last found them. The environment may set the sampled levels between steps. -/
structure Lines where
  straps : BitVec 7 := 1
  fuses : BitVec 32 := 0
  encA : Bool := false
  encB : Bool := false
  /-- ESTOP_N asserted, and its last sample on the 1 ms time base (R9). -/
  estop : Bool := false
  estopSample : Bool := false
  /-- JAMCLR_N active, its last sample, and the level last taken (R9). -/
  jamclr : Bool := false
  jamclrSample : Bool := false
  jamclrTaken : Bool := false
  /-- FULL1 to FULL3 asserted (R136). -/
  full : PerDiverter Bool := ⟨false, false, false⟩
  deriving DecidableEq, Repr

/-- The output lines (section 2.3 of chapter 0, R186). -/
structure Pins where
  div : PerDiverter Bool := ⟨false, false, false⟩
  /-- Duty of DRV_REF in permille. -/
  drvRef : Nat := 0
  drvRun : Bool := false
  /-- ALERT_N asserted. -/
  alert : Bool := false
  busEn : Bool := false
  /-- What BUS_TX puts on the line for the frame in attempt: the bits of the frame or of its jam, the first to be sent first;
  empty while the line is left at 1 (R166, R171; log 11). -/
  busTx : List Bool := []
  deriving DecidableEq, Repr

/-! ## Configuration Loader (chapter 11) -/

structure Loader where
  node : NodeState := .loading
  station : Byte := 1
  factoryId : BitVec 32 := 0
  /-- The image copy. -/
  image : Option (List Byte) := none
  /-- The checked values in force. -/
  config : Option JunctionConfig := none
  nacks : Nat := 0
  /-- A read of the configuration memory is in progress. -/
  reading : Bool := true
  /-- ms left of the wait before the memory is addressed again. -/
  readdress : Option Nat := none
  /-- ms left of the listen time. -/
  listen : Option Nat := none
  duplicates : Count := 0
  deriving DecidableEq, Repr

/-! ## Belt Distance Unit (chapter 1) -/

/-- The items of registered positions (section 1.3). Windows are named by diverter and window number, expected entries
by source and handoff id. -/
inductive Item where
  | readerPosition (slot : Nat)
  | decisionPosition (slot : Nat)
  | jamPoint
  | lostPoint (slot : Nat)
  | claimEnd (slot : Nat)
  | windowEnd (source id : Byte)
  | firePoint (k : Diverter) (window : Nat)
  | releasePoint (k : Diverter) (window : Nat)
  | passPosition (k : Diverter) (slot : Nat)
  | stopPosition (outlet : Outlet)
  deriving DecidableEq, Repr

/-- The blocks that own registered positions (section 1.3). -/
inductive Owner where
  | readerLink | routeSelector | segmentTracker | handoffController | divertScheduler | flowController
  deriving DecidableEq, Repr

structure Registration where
  item : Item
  position : Pos
  deriving DecidableEq, Repr

/-- A photo-eye (R6, R7). -/
structure EyeState where
  /-- The level of the eye itself: blocked. -/
  present : Bool := false
  /-- The level last delivered: blocked. -/
  delivered : Bool := false
  /-- The pending trailing position T. -/
  trailing : Option Pos := none
  deriving DecidableEq, Repr

structure Eyes where
  entry : EyeState := {}
  exit : EyeState := {}
  confirm : PerDiverter EyeState := ⟨{}, {}, {}⟩
  deriving DecidableEq, Repr

structure Belt where
  d : Pos := 0
  register : List Registration := []
  /-- Net count of the speed window in progress. -/
  n : Int := 0
  /-- Measured speed in mm/s. -/
  v : Nat := 0
  overspeed : Nat := 0
  eyes : Eyes := {}
  /-- The restart report is armed (R15). -/
  restartArmed : Bool := false
  /-- The eye whose leading edge, waiting next, is taken before the reports of the same count that R134 or R37 lets come after
  it (the model's own, log 40). -/
  awaited : Option Eye := none
  deriving DecidableEq, Repr

/-! ## Drive Controller (chapter 1) -/

/-- The stop-reason set (R8). -/
structure Reasons where
  estop : Bool := false
  jam : Bool := false
  stall : Bool := false
  hold : Bool := false
  blocked : Bool := false
  notRunning : Bool := true
  deriving DecidableEq, Repr

structure Drive where
  reasons : Reasons := {}
  state : DriveState := .stopped
  /-- The speed reference in permille. -/
  r : Nat := 0
  /-- ms left of the halt quiet time. -/
  quiet : Option Nat := none
  /-- Stall window count. -/
  stall : Nat := 0
  deriving DecidableEq, Repr

/-! ## Segment Tracker (chapter 2) -/

/-- Decision state of a record (R91). -/
structure DecisionState where
  outlet : Option Outlet := none
  assigned : Option StrayReason := none
  straySet : Bool := false
  deriving DecidableEq, Repr

/-- A bag record (section 2.2), with what the blocks keep per slot for the record that occupies it (log 18). -/
structure BagRecord where
  slot : Nat
  /-- Creation order (log 19). -/
  created : Nat
  /-- E -/
  entry : Pos
  length : Option Nat := none
  gapAhead : Option Int := none
  overLength : Bool := false
  lostPointPassed : Bool := false
  plate : Nat := 0
  identity : Identity := .unidentified
  source : Byte := 0
  sourceId : Option Byte := none
  part : Option ManifestPart := none
  status : RouteStatus := .pending
  passCount : Nat := 0
  flags : BagFlags := {}
  reason : Option StrayReason := none
  chosen : Option Outlet := none
  tracking : Tracking := .entering
  /-- Held read result of the slot (R40); `none` is NONE. -/
  held : Option ReadResult := none
  /-- Decision state of the slot (R91). -/
  decision : DecisionState := {}
  /-- Announced length of the slot (R118). -/
  announced : Option Nat := none
  /-- Gate-passed outlet of the slot (R145). -/
  gatePassed : Option Outlet := none
  /-- ms left of the confirm timer, while it runs (R112). -/
  confirm : Option Nat := none
  /-- A late stray record has been made for the record (R52, R53; log 29). -/
  lateStrayMade : Bool := false
  deriving DecidableEq, Repr

/-- An outgoing handoff's running wait (R118). -/
inductive HandoffWait where
  | answer (ms : Nat)
  | retry (ms : Nat)
  deriving DecidableEq, Repr

/-- The stored HANDOFF payload and the running wait of a handoff in AWAITING_ACCEPT (R118). -/
structure Outgoing where
  payload : HandoffPayload
  wait : HandoffWait
  deriving DecidableEq, Repr

/-- A departure (R29). -/
structure Departure where
  plate : Nat
  outlet : Outlet
  destination : Option Nat
  time : BitVec 32
  peer : Byte
  id : Option Byte
  state : HandoffState
  attempts : Nat
  outgoing : Option Outgoing
  deriving DecidableEq, Repr

structure Tracker where
  /-- The segment queue, oldest record first. -/
  segment : List BagRecord := []
  /-- Entry floor. -/
  floor : Option Pos := none
  /-- Departure history, newest first. -/
  history : List Departure := []
  entered : Count := 0
  departed : Count := 0
  lost : Count := 0
  unknown : Count := 0
  overrun : Count := 0
  deriving DecidableEq, Repr

/-! ## Reader Link (chapter 3) -/

/-- What the outstanding request asks (R40); a READ whose record has left keeps no slot (R48). -/
inductive Asked where
  | read (slot : Option Nat)
  | poll
  deriving DecidableEq, Repr

structure Outstanding where
  number : Byte
  asked : Asked
  /-- ms left of the read timer. -/
  timer : Nat
  deriving DecidableEq, Repr

structure ReaderLink where
  outstanding : Option Outstanding := none
  /-- Slots with a queued READ request, oldest first. -/
  queue : List Nat := []
  number : Byte := 0
  misses : Nat := 0
  down : Bool := false
  /-- ms left of the idle time. -/
  idle : Option Nat := none
  deriving DecidableEq, Repr

/-! ## Route Cache and Query Table (chapter 4) -/

structure CacheEntry where
  plate : Nat
  part : ManifestPart
  epoch : Byte
  deriving DecidableEq, Repr

structure Way where
  rank : Nat
  entry : Option CacheEntry
  deriving DecidableEq, Repr

/-- A set of the route cache after reset: way w empty with rank w (R58). -/
def emptySet : List Way := [⟨0, none⟩, ⟨1, none⟩, ⟨2, none⟩, ⟨3, none⟩]

structure RouteCache where
  sets : List (List Way) := List.replicate Config.cacheSets emptySet
  epoch : Byte := 0
  /-- The walk position while a walk is in progress. -/
  walk : Option Nat := none
  hits : Count := 0
  misses : Count := 0
  deriving DecidableEq, Repr

/-- A live record (section 3.6 of chapter 0): a bag record by slot, or an expected entry by its pair. -/
inductive Live where
  | bag (slot : Nat)
  | entry (source id : Byte)
  deriving DecidableEq, Repr

structure QueryEntry where
  plate : Nat
  attempts : Nat
  /-- In ms since reset. -/
  deadline : Nat
  waiters : List Live
  deriving DecidableEq, Repr

/-! ## Route Selector (chapter 5) -/

/-- A row of the route table (R78). The peer state of a PEER row is that of its station (R118). -/
structure RouteRow where
  kind : OutletKind
  peer : Byte
  reach : DestSet
  narrow : Bool
  learned : DestSet
  closed : Bool
  /-- In ms since reset. -/
  holdExpiry : Option Nat
  deriving DecidableEq, Repr

structure Routes where
  rows : PerOutlet (Option RouteRow) := ⟨none, none, none, none⟩
  late : DestSet := 0
  advertised : DestSet := 0
  deriving DecidableEq, Repr

/-! ## Divert Scheduler (chapter 6) -/

/-- A bag entry of a window (R97). -/
structure WindowBag where
  slot : Nat
  entry : Pos
  length : Option Nat
  /-- The record has left the segment queue after the window fired. -/
  departed : Bool
  deriving DecidableEq, Repr

structure Window where
  /-- Names the window in the register of positions. -/
  number : Nat
  bags : List WindowBag
  fire : Pos
  release : Option Pos
  fired : Bool
  deriving DecidableEq, Repr

structure DiverterWindows where
  active : Option Window := none
  next : Option Window := none
  deriving DecidableEq, Repr

structure Divert where
  windows : PerDiverter DiverterWindows := ⟨{}, {}, {}⟩
  gapConflict : Count := 0
  busy : Count := 0
  lateDivert : Count := 0
  atRisk : Count := 0
  deriving DecidableEq, Repr

/-! ## Handoff Controller (chapter 7) -/

/-- Peer state and give-up count of a peer station (R118). -/
structure PeerState where
  station : Byte
  down : Bool
  giveUps : Nat
  deriving DecidableEq, Repr

/-- An expected entry (R128). -/
structure ExpectedEntry where
  source : Byte
  id : Byte
  created : Nat
  plate : Nat
  part : Option ManifestPart
  status : RouteStatus
  passCount : Nat
  flags : BagFlags
  reason : Option StrayReason
  announced : Option Nat
  /-- X -/
  x : Pos
  /-- Window half-width in micrometres. -/
  halfWidth : Nat
  deriving DecidableEq, Repr

structure Handoff where
  nextId : Byte := 0
  peers : List PeerState := []
  giveUps : Count := 0
  expected : List ExpectedEntry := []
  /-- Newest first. -/
  recentMissing : List (Byte × Byte) := []
  deriving DecidableEq, Repr

/-! ## Flow Controller (chapter 8) -/

structure Gate where
  stoppingBag : Option Nat
  stop : Option Pos
  latched : Bool
  deriving DecidableEq, Repr

structure Flow where
  runs : PerDiverter Nat := ⟨0, 0, 0⟩
  /-- Remembered advertised reach. -/
  reach : DestSet := 0
  occupancy : Nat := 0
  /-- Occupancy demand. -/
  demand : Bool := false
  holdValue : Nat := 0
  /-- ms left of the refresh timer. -/
  refresh : Option Nat := none
  gates : PerOutlet (Option Gate) := ⟨none, none, none, none⟩
  overruns : Count := 0
  deriving DecidableEq, Repr

/-! ## Exception Unit (chapter 9) -/

/-- A stray record (section 9.2). -/
structure StrayRecord where
  sequence : BitVec 16
  time : BitVec 32
  reason : StrayReason
  plate : Option Nat
  destination : Option Nat
  disposition : Disposition
  related : Option Byte
  slot : Option Nat
  deriving DecidableEq, Repr

structure WatchEntry where
  plate : Nat
  /-- Seconds since reset. -/
  added : BitVec 32
  reporter : Byte
  deriving DecidableEq, Repr

/-- R159. The limit is as configured from the end of LOADING; before it R159 gives none and the model holds 0 (DESIGN CHOICE,
log 37). -/
structure EventCounter where
  event : Option CounterEvent := none
  limit : Nat := 0
  chained : Bool := false
  value : Nat := 0
  frozen : Bool := false
  deriving DecidableEq, Repr

structure ExceptionUnit where
  /-- Newest first. -/
  strays : List StrayRecord := []
  nextSeq : BitVec 16 := 0
  /-- Oldest first. -/
  watch : List WatchEntry := []
  counter1 : EventCounter := {}
  counter2 : EventCounter := {}
  deriving DecidableEq, Repr

/-! ## Hall Bus Interface (chapter 10) -/

/-- A frame of the transmit queue (R167); the tag is the attempt number of a HANDOFF (R119) and 0 else. -/
structure Queued where
  dest : Byte
  payload : Payload
  tag : Nat
  deriving DecidableEq, Repr

/-- Where the frame in attempt stands (R170 to R172). -/
inductive BusPhase where
  /-- On the line. -/
  | sending
  /-- Its jam is on the line. -/
  | jamming
  /-- In backoff for r slots of 64 us. -/
  | backoff (slots : Nat)
  /-- Waiting for an idle line. -/
  | waiting
  deriving DecidableEq, Repr

structure Attempt where
  frame : Queued
  collisions : Nat
  phase : BusPhase
  deriving DecidableEq, Repr

/-- A report of an unsent frame to its owner (R176). -/
inductive Report where
  | handoff (peer id : Byte) (attempt : Nat)
  | query (plate : BitVec 40)
  | hold (station : Byte)
  | path (station : Byte)
  deriving DecidableEq, Repr

structure Bus where
  /-- Queued frames but the one in attempt, in order of acceptance, oldest first. -/
  waiting : List Queued := []
  attempt : Option Attempt := none
  /-- Pending reports of refused HOLD and PATH frames, oldest first (R177). -/
  reports : List Report := []
  /-- Of these, the ones that the event in progress still has to deliver, oldest first; none between two events (the model's own
  buffer, log 7). -/
  due : List Report := []
  lfsr : BitVec 16 := 1
  sent : Count := 0
  received : Count := 0
  collisions : Count := 0
  excess : Count := 0
  crc : Count := 0
  format : Count := 0
  unknownKind : Count := 0
  queueDrop : Count := 0
  deriving DecidableEq, Repr

/-- Numbers the model gives out: creation order, window numbers and open choices (logs 6, 19). -/
structure Serial where
  creation : Nat := 0
  window : Nat := 0
  choice : Nat := 0
  deriving DecidableEq, Repr

/-! ## The state -/

/-- Everything the J24 holds. Defaults are the values after reset. -/
structure State where
  /-- Milliseconds since the part left reset. -/
  time : Nat := 0
  /-- RESET_N is asserted and the part is held in reset (R180). -/
  inReset : Bool := false
  lines : Lines := {}
  loader : Loader := {}
  belt : Belt := {}
  drive : Drive := {}
  tracker : Tracker := {}
  reader : ReaderLink := {}
  cache : RouteCache := {}
  queries : List QueryEntry := []
  routes : Routes := {}
  divert : Divert := {}
  /-- Output hold-off (R97, R115). -/
  holdOff : Bool := false
  handoff : Handoff := {}
  flow : Flow := {}
  exc : ExceptionUnit := {}
  bus : Bus := {}
  /-- Reports of unsent frames their owners have yet to take in this event (R177, log 7); empty between commands. -/
  owed : List Report := []
  serial : Serial := {}
  pins : Pins := {}
  /-- The commands that wait, the first to be taken first. -/
  pending : List Instr := []
  deriving DecidableEq, Repr

/-- The J24 right after reset (R180), every field at the value its block's reset table gives; straps read 1, fuses 0
and every line inactive or clear: DESIGN CHOICE, log 4 (unsafe). -/
def State.reset : State := {}

end Sys2Proof.Machine
end

