-- ==== Sys2Proof/Machine/Layout.lean ====
section
/-! DEFINITION. Layouts in bytes: the codes of R179, the payload of each kind, the frame with its CRC, the receive checks
of R174 that read them, and the configuration image of section 11.3 with its checks (R182). -/

namespace Sys2Proof.Machine

/-! ## Numbers of outlets and diverters (section 3.5 of chapter 0) -/

def outletNumber : Outlet → Nat
  | .o0 => 0
  | .o1 => 1
  | .o2 => 2
  | .o3 => 3

def outletOfNumber : Nat → Option Outlet
  | 0 => some .o0
  | 1 => some .o1
  | 2 => some .o2
  | 3 => some .o3
  | _ => none

def diverterNumber : Diverter → Nat
  | .d1 => 1
  | .d2 => 2
  | .d3 => 3

/-- The outlet a diverter serves. -/
def outletOfDiverter : Diverter → Outlet
  | .d1 => .o1
  | .d2 => .o2
  | .d3 => .o3

/-- The diverter of an outlet; outlet 0 has none. -/
def diverterOfOutlet : Outlet → Option Diverter
  | .o0 => none
  | .o1 => some .d1
  | .o2 => some .d2
  | .o3 => some .d3

def allDiverters : List Diverter := [.d1, .d2, .d3]

def allOutlets : List Outlet := [.o0, .o1, .o2, .o3]

/-! ## Codes (R179, Common encodings) -/

def nodeCode : NodeState → Byte
  | .loading => 0
  | .joining => 1
  | .running => 2
  | .configFault => 3
  | .duplicate => 4

def driveCode : DriveState → Byte
  | .stopped => 0
  | .accel => 1
  | .run => 2
  | .decel => 3
  | .halted => 4

def classCode : BagClass → Byte
  | .standard => 0
  | .oversize => 1
  | .inspect => 2
  | .cancelled => 3

def classOfCode : Nat → Option BagClass
  | 0 => some .standard
  | 1 => some .oversize
  | 2 => some .inspect
  | 3 => some .cancelled
  | _ => none

def reasonCode : StrayReason → Byte
  | .noRead => 1
  | .noManifest => 2
  | .unannounced => 3
  | .mismatch => 4
  | .ambiguous => 5
  | .duplicate => 6
  | .wrongShip => 7
  | .cancelled => 8
  | .inspect => 9
  | .late => 10
  | .recircLimit => 11
  | .noRoute => 12
  | .missing => 13
  | .lost => 14
  | .unknownAtOutlet => 15
  | .overrun => 16
  | .misrouted => 17
  | .uncertain => 18

/-- R124: a stray reason outside the list is taken as absent. -/
def reasonOfCode : Nat → Option StrayReason
  | 1 => some .noRead
  | 2 => some .noManifest
  | 3 => some .unannounced
  | 4 => some .mismatch
  | 5 => some .ambiguous
  | 6 => some .duplicate
  | 7 => some .wrongShip
  | 8 => some .cancelled
  | 9 => some .inspect
  | 10 => some .late
  | 11 => some .recircLimit
  | 12 => some .noRoute
  | 13 => some .missing
  | 14 => some .lost
  | 15 => some .unknownAtOutlet
  | 16 => some .overrun
  | 17 => some .misrouted
  | 18 => some .uncertain
  | _ => none

/-- The reason field of a frame; 0 when absent. -/
def reasonByte : Option StrayReason → Byte
  | none => 0
  | some r => reasonCode r

def dispositionCode : Disposition → Byte
  | .exceptionOutlet => 1
  | .forwardedFlagged => 2
  | .notPresent => 3
  | .unknownObject => 4
  | .uncertain => 5

def handoffStateCode : HandoffState → Byte
  | .none => 0
  | .awaitingAccept => 1
  | .accepted => 2
  | .gaveUp => 3

def eventCode : CounterEvent → Byte
  | .entries => 1
  | .strays => 2
  | .noReadResults => 3
  | .queryFailures => 4
  | .overrideLate => 5
  | .gapConflict => 6
  | .diverterBusy => 7
  | .holdOverruns => 8
  | .handoffGiveUps => 9
  | .jamsAndStalls => 10
  | .excessCollisions => 11
  | .crcErrors => 12

def eventOfCode : Nat → Option CounterEvent
  | 1 => some .entries
  | 2 => some .strays
  | 3 => some .noReadResults
  | 4 => some .queryFailures
  | 5 => some .overrideLate
  | 6 => some .gapConflict
  | 7 => some .diverterBusy
  | 8 => some .holdOverruns
  | 9 => some .handoffGiveUps
  | 10 => some .jamsAndStalls
  | 11 => some .excessCollisions
  | 12 => some .crcErrors
  | _ => none

/-- The event field of a frame; 0 for none. -/
def eventByte : Option CounterEvent → Byte
  | none => 0
  | some e => eventCode e

/-! ## Numbers as bytes (R179: most significant byte first; a destination set least significant byte first) -/

def bytes2 (x : BitVec 16) : List Byte := [x.extractLsb' 8 8, x.extractLsb' 0 8]

def bytes4 (x : BitVec 32) : List Byte :=
  [x.extractLsb' 24 8, x.extractLsb' 16 8, x.extractLsb' 8 8, x.extractLsb' 0 8]

def bytes5 (x : BitVec 40) : List Byte :=
  [x.extractLsb' 32 8, x.extractLsb' 24 8, x.extractLsb' 16 8, x.extractLsb' 8 8, x.extractLsb' 0 8]

def bytesSet (x : DestSet) : List Byte :=
  [x.extractLsb' 0 8, x.extractLsb' 8 8, x.extractLsb' 16 8, x.extractLsb' 24 8, x.extractLsb' 32 8, x.extractLsb' 40 8]

def of2 (a b : Byte) : BitVec 16 := a ++ b

def of4 (a b c d : Byte) : BitVec 32 := (of2 a b) ++ (of2 c d)

def of5 (a b c d e : Byte) : BitVec 40 := a ++ (of4 b c d e)

def ofSet (a b c d e f : Byte) : DestSet := (of2 f e) ++ (of4 d c b a)

def partBytes (p : RawPart) : List Byte :=
  [p.ship] ++ bytes2 p.cabin ++ [p.destination, p.cls] ++ bytes2 p.revision

/-- A byte as one element, of a Nat the layout says fits. -/
def byteOf (n : Nat) : Byte := BitVec.ofNat 8 n

/-! ## Payloads by kind (R179, Kinds and payloads) -/

/-- The KIND code. -/
def payloadKind : Payload → Byte
  | .announce _ => 0x01
  | .handoff _ => 0x10
  | .accept _ => 0x11
  | .retry _ => 0x12
  | .path _ => 0x18
  | .hold _ => 0x19
  | .query _ => 0x20
  | .answer _ => 0x21
  | .update _ => 0x22
  | .epoch _ => 0x23
  | .destClose _ _ => 0x24
  | .stray _ => 0x30
  | .missing _ _ => 0x31
  | .found _ => 0x32
  | .statusReq _ _ => 0x40
  | .statusReply _ _ _ => 0x41
  | .alert _ => 0x42
  | .counterClear => 0x43

/-- The payload bytes, in order. -/
def payloadBytes : Payload → List Byte
  | .announce p => bytes4 p.factoryId ++ [p.station, p.node] ++ bytes2 p.checksum
  | .handoff p =>
    [p.id] ++ bytes5 p.plate ++ [p.present] ++ partBytes p.part ++ [p.passCount, p.flags] ++ bytes2 p.length ++ [p.reason]
  | .accept id => [id]
  | .retry id => [id]
  | .path reach => bytesSet reach
  | .hold quanta => [quanta]
  | .query plate => bytes5 plate
  | .answer p => bytes5 p.plate ++ [p.found] ++ partBytes p.part ++ [p.epoch]
  | .update p => bytes5 p.plate ++ partBytes p.part ++ [p.epoch]
  | .epoch e => [e]
  | .destClose d a => bytesSet d ++ [a]
  | .stray p =>
    bytes2 p.sequence ++ bytes4 p.time ++ [p.reason] ++ bytes5 p.plate ++ [p.destination, p.disposition, p.related, p.slot]
  | .missing plate r => bytes5 plate ++ [r]
  | .found p =>
    bytes5 p.plate ++ [p.kind, p.place, p.outlet, p.destination] ++ bytes4 p.time ++
      [p.peer, p.handoffState, p.attempts, p.reporter]
  | .statusReq i p => [i, p]
  | .statusReply i p d => [i, p] ++ d
  | .alert p => [p.counter, p.event] ++ bytes2 p.limit
  | .counterClear => []

/-- The eighteen kinds and the payload lengths a received frame of each may have (R179). -/
def kindLength (kind : Byte) (len : Nat) : Option Bool :=
  match kind.toNat with
  | 0x01 => some (len == 8)
  | 0x10 => some (len == 19)
  | 0x11 => some (len == 1)
  | 0x12 => some (len == 1)
  | 0x18 => some (len == 6)
  | 0x19 => some (len == 1)
  | 0x20 => some (len == 5)
  | 0x21 => some (len == 14)
  | 0x22 => some (len == 13)
  | 0x23 => some (len == 1)
  | 0x24 => some (len == 7)
  | 0x30 => some (len == 16)
  | 0x31 => some (len == 6)
  | 0x32 => some (len == 17)
  | 0x40 => some (len == 2)
  | 0x41 => some (decide (2 ≤ len ∧ len ≤ 48))
  | 0x42 => some (len == 4)
  | 0x43 => some (len == 0)
  | _ => none

def readPart : List Byte → Option RawPart
  | [s, c1, c0, d, k, r1, r0] => some ⟨s, of2 c1 c0, d, k, of2 r1 r0⟩
  | _ => none

/-- Reads a payload of a kind from its bytes; `none` when the kind is unknown or the length is not the kind's. -/
def readPayload (kind : Byte) (bytes : List Byte) : Option Payload :=
  match kind.toNat, bytes with
  | 0x01, [a, b, c, d, st, nd, k1, k0] => some (.announce ⟨of4 a b c d, st, nd, of2 k1 k0⟩)
  | 0x10, [id, p4, p3, p2, p1, p0, pr, s, c1, c0, de, k, r1, r0, pc, fl, l1, l0, re] =>
    some (.handoff ⟨id, of5 p4 p3 p2 p1 p0, pr, ⟨s, of2 c1 c0, de, k, of2 r1 r0⟩, pc, fl, of2 l1 l0, re⟩)
  | 0x11, [id] => some (.accept id)
  | 0x12, [id] => some (.retry id)
  | 0x18, [a, b, c, d, e, f] => some (.path (ofSet a b c d e f))
  | 0x19, [q] => some (.hold q)
  | 0x20, [p4, p3, p2, p1, p0] => some (.query (of5 p4 p3 p2 p1 p0))
  | 0x21, [p4, p3, p2, p1, p0, fo, s, c1, c0, de, k, r1, r0, ep] =>
    some (.answer ⟨of5 p4 p3 p2 p1 p0, fo, ⟨s, of2 c1 c0, de, k, of2 r1 r0⟩, ep⟩)
  | 0x22, [p4, p3, p2, p1, p0, s, c1, c0, de, k, r1, r0, ep] =>
    some (.update ⟨of5 p4 p3 p2 p1 p0, ⟨s, of2 c1 c0, de, k, of2 r1 r0⟩, ep⟩)
  | 0x23, [e] => some (.epoch e)
  | 0x24, [a, b, c, d, e, f, act] => some (.destClose (ofSet a b c d e f) act)
  | 0x30, [s1, s0, t3, t2, t1, t0, re, p4, p3, p2, p1, p0, de, di, rl, sl] =>
    some (.stray ⟨of2 s1 s0, of4 t3 t2 t1 t0, re, of5 p4 p3 p2 p1 p0, de, di, rl, sl⟩)
  | 0x31, [p4, p3, p2, p1, p0, r] => some (.missing (of5 p4 p3 p2 p1 p0) r)
  | 0x32, [p4, p3, p2, p1, p0, k, pl, o, de, t3, t2, t1, t0, pe, hs, att, r] =>
    some (.found ⟨of5 p4 p3 p2 p1 p0, k, pl, o, de, of4 t3 t2 t1 t0, pe, hs, att, r⟩)
  | 0x40, [i, p] => some (.statusReq i p)
  | 0x41, i :: p :: data => some (.statusReply i p data)
  | 0x42, [c, e, l1, l0] => some (.alert ⟨c, e, of2 l1 l0⟩)
  | 0x43, [] => some .counterClear
  | _, _ => none

/-! ## The frame and its CRC (R179) -/

/-- One bit of the CRC: polynomial x^16 + x^12 + x^5 + 1, most significant bit first. -/
def crcBit (crc : BitVec 16) : BitVec 16 :=
  if crc.getLsbD 15 then (crc <<< 1) ^^^ 0x1021#16 else crc <<< 1

def crcByte (crc : BitVec 16) (b : Byte) : BitVec 16 :=
  crcBit (crcBit (crcBit (crcBit (crcBit (crcBit (crcBit (crcBit (crc ^^^ (b ++ 0#8)))))))))

/-- The CRC over the bytes from DEST to the last payload byte, initial value 0xFFFF. -/
def crcOf (bytes : List Byte) : BitVec 16 := bytes.foldl crcByte 0xFFFF#16

/-- The bytes of a frame on the line. -/
def frameBytes (src dest : Byte) (p : Payload) : List Byte :=
  let body := [dest, src, payloadKind p, byteOf (payloadBytes p).length] ++ payloadBytes p
  [0x5A#8] ++ body ++ bytes2 (crcOf body)

/-! ## The bits on the line (R166, R171) -/

/-- R166: a byte as ten bit times: the start bit 0, the eight data bits with the least significant first, the stop bit 1. -/
def lineByte (b : Byte) : List Bool := false :: (List.range 8).map b.getLsbD ++ [true]

/-- R166: the bytes of a frame follow one another without a pause. -/
def lineBits (bytes : List Byte) : List Bool := bytes.flatMap lineByte

/-- R171: the jam is 16 bit times of 0. -/
def jamBits : List Bool := List.replicate 16 false

/-- What the receive checks of R174 make of a frame that has ended. -/
inductive Received where
  /-- Fewer than 7 bytes: discarded, not counted. -/
  | runt
  | format
  | crc
  /-- Bearing this station's number. -/
  | own (dest kind : Byte) (payload : List Byte)
  /-- Addressed elsewhere: discarded, not counted. -/
  | elsewhere
  | unknownKind
  | delivered (h : Header) (p : Payload)
  deriving DecidableEq, Repr

/-- R174: a SRC that a delivered frame may bear. -/
def stationNumber (b : Byte) : Bool := decide (1 ≤ b.toNat ∧ b.toNat ≤ 125)

/-- R174: DEST is this station's number or 127; with a number of 0, 126 or 127 from the straps only 127 passes. -/
def addressedHere (station dest : Byte) : Bool :=
  decide (dest = 127) || (stationNumber station && decide (dest = station))

/-- R174: the checks on a frame that ends, in order. -/
def classify (station : Byte) (f : RawFrame) : Received :=
  let byte := fun i => f.bytes.getD i 0
  let len := (byte 4).toNat
  let body := (f.bytes.drop 1).take (4 + len)
  let payload := (f.bytes.drop 5).take len
  if f.bytes.length < 7 then .runt
  else if byte 0 ≠ 0x5A#8 ∨ f.stopBits = false ∨ 55 < f.bytes.length then .format
  else if f.bytes.length ≠ 7 + len then .format
  else if crcOf body ≠ of2 (byte (5 + len)) (byte (6 + len)) then .crc
  else if stationNumber (byte 2) = false then .format
  else if byte 2 = station then .own (byte 1) (byte 3) payload
  else if addressedHere station (byte 1) = false then .elsewhere
  else
    match kindLength (byte 3) len with
    | none => .unknownKind
    | some false => .format
    | some true =>
      match readPayload (byte 3) payload with
      | some p => .delivered ⟨byte 1, byte 2⟩ p
      | none => .format

/-! ## The configuration image (section 11.3) -/

/-- One byte of an image as a number. -/
def imageByte (img : List Byte) (i : Nat) : Nat := (img.getD i 0).toNat

/-- Two bytes of an image, most significant first. -/
def imageWord (img : List Byte) (i : Nat) : Nat := imageByte img i * 256 + imageByte img (i + 1)

/-- The header's total length. -/
def imageLength (img : List Byte) : Nat := imageWord img 1

def imageHasDiverter (img : List Byte) (k : Diverter) : Bool := (img.getD 3 0).getLsbD (diverterNumber k - 1)

/-- The configured diverters, in order. -/
def imageDiverters (img : List Byte) : List Diverter := allDiverters.filter (imageHasDiverter img)

/-- d, the number of configured diverters. -/
def imageD (img : List Byte) : Nat := (imageDiverters img).length

/-- The source count. -/
def imageS (img : List Byte) : Nat := imageByte img 4

/-- R181: the bytes the Loader reads from a memory: the header, and on to the length the header gives when it lies in 61
to 142. -/
def bytesRead (memory : List Byte) : List Byte :=
  if 61 ≤ imageLength memory ∧ imageLength memory ≤ 142 then memory.take (imageLength memory) else memory.take 5

/-- Where a diverter's block starts. -/
def diverterOffset (img : List Byte) (k : Diverter) : Nat := 50 + 12 * (imageDiverters img).idxOf k

/-- Where an outlet's route block starts: outlet 0 first, then one per configured diverter. -/
def outletOffset (img : List Byte) (o : Outlet) : Nat :=
  50 + 12 * imageD img +
    match diverterOfOutlet o with
    | none => 0
    | some k => 9 * (1 + (imageDiverters img).idxOf k)

/-- Where a source block starts, counted from 0. -/
def sourceOffset (img : List Byte) (i : Nat) : Nat := 50 + 12 * imageD img + 9 * (1 + imageD img) + 6 * i

/-- The outlets with a route block. -/
def imageOutlets (img : List Byte) : List Outlet := .o0 :: (imageDiverters img).map outletOfDiverter

def readDiverter (img : List Byte) (k : Diverter) : DiverterConfig :=
  let at_ := diverterOffset img k
  { position := imageWord img at_, travel := imageWord img (at_ + 2), close := imageWord img (at_ + 4),
    release := imageWord img (at_ + 6), approach := imageWord img (at_ + 8), confirm := imageWord img (at_ + 10) }

def readOutlet (img : List Byte) (o : Outlet) : OutletConfig :=
  let at_ := outletOffset img o
  { kind := if imageByte img at_ = 2 then .peer else .terminal, peer := img.getD (at_ + 1) 0,
    reach := ofSet (img.getD (at_ + 2) 0) (img.getD (at_ + 3) 0) (img.getD (at_ + 4) 0) (img.getD (at_ + 5) 0)
      (img.getD (at_ + 6) 0) (img.getD (at_ + 7) 0),
    narrow := imageByte img (at_ + 8) == 1 }

def readSource (img : List Byte) (i : Nat) : SourceConfig :=
  let at_ := sourceOffset img i
  { station := img.getD at_ 0, leadIn := imageWord img (at_ + 1), tolerance := imageWord img (at_ + 3),
    loopReturn := imageByte img (at_ + 5) == 1 }

def ifDiverter (img : List Byte) (k : Diverter) : Option DiverterConfig :=
  if imageHasDiverter img k then some (readDiverter img k) else none

def ifOutlet (img : List Byte) (k : Diverter) : Option OutletConfig :=
  if imageHasDiverter img k then some (readOutlet img (outletOfDiverter k)) else none

/-- The configuration an image gives; meant for an image that passes the checks of R182. -/
def readConfig (img : List Byte) : JunctionConfig :=
  { exceptionOutlet := (outletOfNumber (imageByte img 5)).getD .o0,
    preferred := [6, 7, 8, 9].filterMap (fun i => outletOfNumber (imageByte img i)),
    loopHead := (img.getD 10 0).getLsbD 0, readerPresent := (img.getD 10 0).getLsbD 1,
    ships := of2 (img.getD 11 0) (img.getD 12 0), highMark := imageByte img 13, lowMark := imageByte img 14,
    holdQuanta := imageByte img 15, passLimit := imageByte img 16, holdMargin := imageWord img 17,
    counter1 := ⟨eventOfCode (imageByte img 19), imageWord img 20, false⟩,
    counter2 := ⟨eventOfCode (imageByte img 22), imageWord img 23, imageByte img 25 == 1⟩,
    scale := imageWord img 26, vMax := imageWord img 28, rRun := imageWord img 30, aUp := imageWord img 32,
    aDn := imageWord img 34, lMax := imageWord img 36, lJam := imageWord img 38, exitPosition := imageWord img 40,
    exitTolerance := imageWord img 42, readerPosition := imageWord img 44, decisionPosition := imageWord img 46,
    claimDistance := imageWord img 48,
    diverters := ⟨ifDiverter img .d1, ifDiverter img .d2, ifDiverter img .d3⟩,
    outlets := ⟨some (readOutlet img .o0), ifOutlet img .d1, ifOutlet img .d2, ifOutlet img .d3⟩,
    sources := (List.range (imageS img)).map (readSource img) }

/-- The 16-bit sum of the bytes before the checksum field. -/
def imageSum (img : List Byte) : Nat := ((img.dropLast.dropLast).foldl (fun a b => a + b.toNat) 0) % 65536

/-- The checksum field: the last two bytes of a whole image. -/
def imageChecksum (img : List Byte) : BitVec 16 :=
  of2 (img.getD (img.length - 2) 0) (img.getD (img.length - 1) 0)

def within (lo hi n : Nat) : Bool := decide (lo ≤ n ∧ n ≤ hi)

/-- R182, check 4 on one diverter block (section 6.1). -/
def diverterInRange (c : DiverterConfig) : Bool :=
  within 1 29999 c.position && within 0 500 c.travel && within 0 1000 c.close && within 0 1000 c.release &&
    within 0 1000 c.approach && within 100 5000 c.confirm

/-- R182, check 4: every field within the range its parameter table gives. -/
def fieldsInRange (img : List Byte) : Bool :=
  let w := imageWord img
  let b := imageByte img
  within 0 3 (b 5) && (outletOfNumber (b 6)).isSome && (outletOfNumber (b 7)).isSome &&
    (outletOfNumber (b 8)).isSome && (outletOfNumber (b 9)).isSome && decide ([b 6, b 7, b 8, b 9].Nodup) &&
    within 1 48 (b 13) && within 0 47 (b 14) && within 2 255 (b 15) && within 1 7 (b 16) && within 0 1000 (w 17) &&
    within 0 12 (b 19) && within 1 65535 (w 20) && within 0 12 (b 22) && within 1 65535 (w 23) && within 0 1 (b 25) &&
    within 50 4000 (w 26) && within 100 4000 (w 28) && within 1 1000 (w 30) && within 100 5000 (w 32) &&
    within 100 5000 (w 34) && within 100 4000 (w 36) && within 200 5000 (w 38) && within 1000 30000 (w 40) &&
    within 20 1000 (w 42) && within 0 29999 (w 44) && within 1 29999 (w 46) && within 0 30000 (w 48) &&
    (imageDiverters img).all (fun k => diverterInRange (readDiverter img k)) &&
    (imageOutlets img).all (fun o => within 1 2 (b (outletOffset img o)) && within 0 1 (b (outletOffset img o + 8))) &&
    (List.range (imageS img)).all (fun i =>
      within 0 30000 (w (sourceOffset img i + 1)) && within 20 5000 (w (sourceOffset img i + 3)) &&
        within 0 1 (b (sourceOffset img i + 5)))

/-- R182, check 6: stations of PEER outlets and of sources. -/
def stationsInRange (station : Byte) (c : JunctionConfig) : Bool :=
  allOutlets.all (fun o =>
      match c.outlets.get o with
      | some r => r.kind != .peer || (stationNumber r.peer && r.peer != station)
      | none => true) &&
    c.sources.all (fun x => stationNumber x.station && x.station != station) &&
    decide ((c.sources.map SourceConfig.station).Nodup)

/-- The configured diverters of a configuration, in order. -/
def configuredDiverters (c : JunctionConfig) : List (Diverter × DiverterConfig) :=
  allDiverters.filterMap (fun k => (c.diverters.get k).map (fun x => (k, x)))

/-- R182, check 7: L1 < L2 < L3 < L0 among the configured diverters, and L0 at most 30,000 mm. -/
def positionsInOrder (c : JunctionConfig) : Bool :=
  decide (((configuredDiverters c).map (fun x => x.2.position) ++ [c.exitPosition]).Pairwise (· < ·)) &&
    decide (c.exitPosition ≤ 30000)

/-- Λmax of a diverter (R182, check 9). -/
def maxLead (c : JunctionConfig) (x : DiverterConfig) : Nat := c.vMax * x.travel + c.aUp * x.travel ^ 2 / 2000

/-- R182, check 9: room for the lead of every diverter. -/
def leadsFit (c : JunctionConfig) : Bool :=
  (configuredDiverters c).all (fun x =>
    decide (c.decisionPosition * 1000 + maxLead c x.2 + 100000 ≤ x.2.position * 1000))

/-- R182: the ten checks, in order. -/
def imagePasses (station : Byte) (img : List Byte) : Bool :=
  let c := readConfig img
  (imageByte img 0 == 1) &&
    (within 0 3 (imageS img) && imageLength img == 61 + 21 * imageD img + 6 * imageS img &&
      img.length == imageLength img) &&
    ((imageChecksum img).toNat == imageSum img) &&
    fieldsInRange img &&
    (imageOutlets img).contains c.exceptionOutlet &&
    stationsInRange station c &&
    positionsInOrder c &&
    decide (c.lMax < c.lJam ∧ c.lJam < c.decisionPosition ∧ c.readerPosition < c.decisionPosition ∧
      c.decisionPosition + c.exitTolerance < c.exitPosition) &&
    leadsFit c &&
    decide (c.lowMark < c.highMark)

end Sys2Proof.Machine
end

