-- ==== Sys2Proof/Machine/Ops.lean ====
section
/-! DEFINITION. Named operations every block uses: the configuration in force, node states, belt positions and their
register (R2, R3), bag records and live records, the time base. -/

namespace Sys2Proof.Machine

/-! ## Node state, configuration, time -/

/-- The configuration in force. -/
def cfg (s : State) : JunctionConfig := s.loader.config.getD .absent

/-- The node states in which the blocks act (R19, R40, R58, R97, R118, R145, R159): JOINING, RUNNING, DUPLICATE. -/
def acting (s : State) : Bool :=
  match s.loader.node with
  | .joining | .running | .duplicate => true
  | .loading | .configFault => false

/-- The node states in which the Exception Unit sends (R152, R155, R161): JOINING and RUNNING. -/
def speaks (s : State) : Bool :=
  match s.loader.node with
  | .joining | .running => true
  | .loading | .configFault | .duplicate => false

/-- Whole seconds since reset, 32 bits wide (section 3.2 of chapter 0). -/
def seconds (s : State) : BitVec 32 := BitVec.ofNat 32 (s.time / 1000)

/-! ## Positions (R2) -/

/-- The difference of two positions modulo 2^32, read as a signed 32-bit number. -/
def posDiff (a b : Pos) : Int := (a - b).toInt

/-- R2: a position P is reached when D − P, read this way, is zero or positive. -/
def reached (d p : Pos) : Bool := decide (0 ≤ posDiff d p)

/-- A length in mm as a distance in micrometres (section 3.1 of chapter 0). -/
def mm (n : Nat) : Pos := BitVec.ofNat 32 (n * 1000)

/-- A distance in micrometres. -/
def um (n : Nat) : Pos := BitVec.ofNat 32 n

/-! ## The register of positions (R3) -/

/-- The block that owns a registered position (section 1.3). -/
def itemOwner : Item → Owner
  | .readerPosition _ => .readerLink
  | .decisionPosition _ => .routeSelector
  | .jamPoint => .segmentTracker
  | .lostPoint _ => .segmentTracker
  | .claimEnd _ => .handoffController
  | .windowEnd _ _ => .handoffController
  | .firePoint _ _ => .divertScheduler
  | .releasePoint _ _ => .divertScheduler
  | .passPosition _ _ => .divertScheduler
  | .stopPosition _ => .flowController

/-- Holds a registration until D reaches it. -/
def holdPosition (i : Item) (p : Pos) (s : State) : State :=
  { s with belt := { s.belt with register := s.belt.register ++ [⟨i, p⟩] } }

/-- R3: an owner withdraws a registration; the position is never reported. -/
def withdraw (i : Item) (s : State) : State :=
  { s with belt := { s.belt with register := s.belt.register.filter (fun r => decide (r.item ≠ i)) } }

/-- A registration for the item is held. -/
def isHeld (i : Item) (s : State) : Bool := s.belt.register.any (fun r => decide (r.item = i))

/-- R3: an owner offers a position, withdrawing an earlier registration of the item. A position already reached is
reported at once and not held. -/
def offerPosition (i : Item) (p : Pos) (report : State → State) (s : State) : State :=
  if reached s.belt.d p then report (withdraw i s) else holdPosition i p (withdraw i s)

/-! ## Bag records and live records -/

/-- The record that occupies a slot. -/
def findBag (s : State) (slot : Nat) : Option BagRecord := s.tracker.segment.find? (fun b => decide (b.slot = slot))

/-- Changes the record in a slot. -/
def updateBag (slot : Nat) (f : BagRecord → BagRecord) (s : State) : State :=
  { s with tracker := { s.tracker with
      segment := s.tracker.segment.map (fun b => if b.slot = slot then f b else b) } }

/-- The slots of the queue, in queue order. -/
def segmentSlots (s : State) : List Nat := s.tracker.segment.map BagRecord.slot

/-- The lowest-numbered free slot (R17). -/
def freeSlot (s : State) : Nat :=
  ((List.range Config.segmentSlots).find? (fun i => !(segmentSlots s).contains i)).getD 0

/-- A record that has been decided and is still on the belt (R49, step 2). -/
def isDecided (b : BagRecord) : Bool :=
  match b.tracking with
  | .decided | .diverting | .releasedUnconfirmed => true
  | .entering | .onBelt | .diverted => false

/-- The trailing end E + length × 1,000, when the length is known. -/
def trailingEnd (b : BagRecord) : Option Pos := b.length.map (fun l => b.entry + mm l)

/-- The open record (R24): the last record, when its length is absent. -/
def openRecord (s : State) : Option BagRecord := s.tracker.segment.getLast?.filter (fun b => b.length.isNone)

/-- The expected entry that holds a pair. -/
def findEntry (s : State) (source id : Byte) : Option ExpectedEntry :=
  s.handoff.expected.find? (fun e => decide (e.source = source ∧ e.id = id))

/-- Changes the expected entry that holds a pair. -/
def updateEntry (source id : Byte) (f : ExpectedEntry → ExpectedEntry) (s : State) : State :=
  { s with handoff := { s.handoff with
      expected := s.handoff.expected.map (fun e => if e.source = source ∧ e.id = id then f e else e) } }

/-- A plate as a stray record or a frame carries it: absent when 0. -/
def heldPlate (p : Nat) : Option Nat := if p = 0 then none else some p

/-- A station as a stray record carries it: absent when 0. -/
def heldStation (b : Byte) : Option Byte := if b = 0 then none else some b

/-- The destination of a record's manifest part, when it has one. -/
def bagDestination (b : BagRecord) : Option Nat := b.part.map ManifestPart.destination

/-- A live record's plate, manifest part, route status and creation order. -/
structure LiveView where
  plate : Nat
  part : Option ManifestPart
  status : RouteStatus
  created : Nat
  deriving DecidableEq, Repr

/-- What a live record holds. -/
def viewLive (s : State) : Live → Option LiveView
  | .bag slot => (findBag s slot).map (fun b => ⟨b.plate, b.part, b.status, b.created⟩)
  | .entry source id => (findEntry s source id).map (fun e => ⟨e.plate, e.part, e.status, e.created⟩)

/-- Writes the route status of a live record. -/
def setStatus (l : Live) (st : RouteStatus) (s : State) : State :=
  match l with
  | .bag slot => updateBag slot (fun b => { b with status := st }) s
  | .entry source id => updateEntry source id (fun e => { e with status := st }) s

/-- R23: a class STANDARD copied into an over-length record is held as OVERSIZE. -/
def holdClass (overLength : Bool) (p : ManifestPart) : ManifestPart :=
  if overLength = true ∧ p.cls = .standard then { p with cls := .oversize } else p

/-- Copies a manifest part into a live record, which becomes RESOLVED (R60, R66), with the over-length rule of R23. -/
def copyPart (l : Live) (p : ManifestPart) (s : State) : State :=
  match l with
  | .bag slot => updateBag slot (fun b => { b with part := some (holdClass b.overLength p), status := .resolved }) s
  | .entry source id => updateEntry source id (fun e => { e with part := some p, status := .resolved }) s

/-- Writes the chosen outlet of a record; a change clears its gate-passed outlet (R145). -/
def setChosen (o : Outlet) (b : BagRecord) : BagRecord :=
  { b with chosen := some o, gatePassed := if b.chosen = some o then b.gatePassed else none }

end Sys2Proof.Machine
end

