-- ==== Sys2Proof/Machine/Flags.lean ====
section
/-! DEFINITION. Flags of a record: how frames carry them (R119, R179), how they are joined (R125, R128, R132), and the
stop reasons as bits (R179). -/

namespace Sys2Proof.Machine

/-- A bit of a byte. -/
def bit (b : Bool) (i : Nat) : Byte := if b then 1#8 <<< i else 0

/-- The flags byte of a HANDOFF (R179); CLAIMABLE is not sent (R119). -/
def flagsByte (f : BagFlags) : Byte :=
  bit f.duplicate 0 ||| bit f.mismatch 1 ||| bit f.ambiguous 2 ||| bit f.stray 3 ||| bit f.atRisk 4 |||
    bit f.uncertain 5 ||| bit f.overrideLate 6

/-- R128: of a received flags byte an entry takes DUPLICATE, MISMATCH, AMBIGUOUS and STRAY. -/
def takenFlags (b : Byte) : BagFlags :=
  { duplicate := b.getLsbD 0, mismatch := b.getLsbD 1, ambiguous := b.getLsbD 2, stray := b.getLsbD 3 }

/-- The union of two sets of flags. -/
def joinFlags (a b : BagFlags) : BagFlags :=
  { duplicate := a.duplicate || b.duplicate, mismatch := a.mismatch || b.mismatch, ambiguous := a.ambiguous || b.ambiguous,
    stray := a.stray || b.stray, atRisk := a.atRisk || b.atRisk, uncertain := a.uncertain || b.uncertain,
    overrideLate := a.overrideLate || b.overrideLate, claimable := a.claimable || b.claimable }

/-- Sets DUPLICATE. -/
def withDuplicate (f : BagFlags) : BagFlags := { f with duplicate := true }

/-- The stop-reason byte of the SUMMARY item (R179). -/
def reasonsByte (r : Reasons) : Byte :=
  bit r.estop 0 ||| bit r.jam 1 ||| bit r.stall 2 ||| bit r.hold 3 ||| bit r.blocked 4 ||| bit r.notRunning 5

/-- Membership in the stop-reason set. -/
def hasReason (r : Reasons) : StopReason → Bool
  | .estop => r.estop
  | .jam => r.jam
  | .stall => r.stall
  | .hold => r.hold
  | .blocked => r.blocked
  | .notRunning => r.notRunning

/-- The set with a reason added or removed. -/
def setReasonBit (r : Reasons) (x : StopReason) (b : Bool) : Reasons :=
  match x with
  | .estop => { r with estop := b }
  | .jam => { r with jam := b }
  | .stall => { r with stall := b }
  | .hold => { r with hold := b }
  | .blocked => { r with blocked := b }
  | .notRunning => { r with notRunning := b }

/-- R8: the halting reasons. -/
def isHalting : StopReason → Bool
  | .estop | .jam | .stall => true
  | .hold | .blocked | .notRunning => false

/-- A halting reason is in the set. -/
def halting (r : Reasons) : Bool := r.estop || r.jam || r.stall

/-- The set is empty. -/
def noReasons (r : Reasons) : Bool := !(r.estop || r.jam || r.stall || r.hold || r.blocked || r.notRunning)

end Sys2Proof.Machine
end

