-- ==== Sys2Proof/Machine/Operands.lean ====
section
/-! DEFINITION. How the operands of a command are read: manifest entries (R55), revisions (R56), the fields of a HANDOFF
(R124), the values of a READ reply (R41, R44), encoder samples (R1). -/

namespace Sys2Proof.Machine

/-- R55: a plate of a well-formed entry. -/
def plateValid (p : Nat) : Bool := decide (1 ≤ p ∧ p ≤ Config.maxPlate)

/-- R55: the manifest part of a frame, when it is well-formed: the test asks of the ship only that it is not 0. -/
def readManifest (r : RawPart) : Option ManifestPart :=
  match classOfCode r.cls.toNat with
  | none => none
  | some c =>
    if r.ship ≠ 0 ∧ r.cabin ≠ 0 ∧ r.destination.toNat ≤ 47 then
      some ⟨r.ship.toNat, r.cabin.toNat, r.destination.toNat, c, r.revision⟩
    else none

/-- A manifest part as a frame carries it. -/
def rawManifest (p : ManifestPart) : RawPart :=
  ⟨byteOf p.ship, BitVec.ofNat 16 p.cabin, byteOf p.destination, classCode p.cls, p.revision⟩

/-- The manifest part field of a frame that carries none. -/
def noManifestBytes : RawPart := ⟨0, 0, 0, 0, 0⟩

/-- R56: a revision is newer than another. -/
def newer (new old : BitVec 16) : Bool := decide (1 ≤ (new - old).toNat ∧ (new - old).toNat ≤ 32767)

/-- R124: a received plate; above 9,999,999,999 it is taken as 0. -/
def readPlate (p : BitVec 40) : Nat := if p.toNat ≤ Config.maxPlate then p.toNat else 0

/-- A HANDOFF as the Handoff Controller reads it (R124). -/
structure HandoffFields where
  source : Byte
  id : Byte
  plate : Nat
  part : Option ManifestPart
  passCount : Nat
  flags : BagFlags
  reason : Option StrayReason
  announced : Option Nat
  deriving DecidableEq, Repr

/-- R124, R128: the fields of a received HANDOFF. A well-formed part beside plate 0 (or one above the maximum, read as 0) is
taken as R71 and R128 say, though R55 counts the plate in an entry's form and R57 keeps plate 0 PENDING (DESIGN CHOICE, log 43). -/
def readHandoff (source : Byte) (p : HandoffPayload) : HandoffFields :=
  { source := source, id := p.id, plate := readPlate p.plate,
    part := if p.present.getLsbD 0 then readManifest p.part else none,
    passCount := min 7 p.passCount.toNat, flags := takenFlags p.flags, reason := reasonOfCode p.reason.toNat,
    announced := if p.length = 0 then none else some p.length.toNat }

/-- R41: the plates of a READ reply; a value of 0 or above 9,999,999,999 is dropped. -/
def readPlates (values : List Nat) : List Nat := values.filter plateValid

/-- R44: the read result the read plates give; SEVERAL carries the distinct plates. -/
def readResult (values : List Nat) : ReadResult :=
  match (readPlates values).eraseDups with
  | [] => .noRead
  | [p] => .one p
  | ps => .several ps

/-- The distinct read plates of a result (R49, step 4). -/
def resultPlates : ReadResult → List Nat
  | .noRead => []
  | .one p => [p]
  | .several ps => ps

/-- R1: the direction of a sample of ENC_A and ENC_B after the last one: forward when ENC_A leads ENC_B, backward in
the reverse order, none when no line or both lines changed. -/
def quadrature (a b a' b' : Bool) : Option Bool :=
  if a ≠ a' ∧ b ≠ b' then none
  else if a ≠ a' then some (a' != b)
  else if b ≠ b' then some (a == b')
  else none

end Sys2Proof.Machine
end

