-- ==== Sys2Proof/Machine/Bus.lean ====
section
/-! DEFINITION. The transmit queue of the Hall Bus Interface: classes, offers, displacement, replacement and the reports
of unsent frames (R167 to R169, R176, R177). -/

namespace Sys2Proof.Machine

/-- R167: the class of a frame, 1 the highest. -/
def payloadClass : Payload → Nat
  | .hold _ => 1
  | .accept _ => 2
  | .retry _ => 2
  | .handoff _ => 3
  | .path _ => 4
  | .query _ => 5
  | .missing _ _ => 6
  | .found _ => 6
  | .stray _ => 7
  | .announce _ => 8
  | .statusReply _ _ _ => 8
  | .alert _ => 8
  | .answer _ => 8
  | .update _ => 8
  | .epoch _ => 8
  | .destClose _ _ => 8
  | .statusReq _ _ => 8
  | .counterClear => 8

def queuedClass (q : Queued) : Nat := payloadClass q.payload

/-- R169: the queued frame is a HOLD or PATH to the same station as the offered one. -/
def replaces (dest : Byte) (p : Payload) (q : Queued) : Bool :=
  decide (q.dest = dest) &&
    match p, q.payload with
    | .hold _, .hold _ => true
    | .path _, .path _ => true
    | _, _ => false

/-- R176: the report of a frame that leaves the queue unsent; other kinds go without one. -/
def unsentReport (q : Queued) : Option Report :=
  match q.payload with
  | .handoff p => some (.handoff q.dest p.id q.tag)
  | .query plate => some (.query plate)
  | .hold _ => some (.hold q.dest)
  | .path _ => some (.path q.dest)
  | _ => none

/-- R177: a refused HOLD or PATH is reported only later. -/
def reportWaits : Report → Bool
  | .hold _ | .path _ => true
  | .handoff _ _ _ | .query _ => false

/-- Frames in the queue, the frame in attempt included (R167). -/
def queueLength (b : Bus) : Nat := b.waiting.length + (if b.attempt.isSome then 1 else 0)

/-- The lowest class present among the queued frames but the one in attempt: the greatest number (R168). -/
def lowestClass (w : List Queued) : Nat := w.foldl (fun m q => max m (queuedClass q)) 0

/-- The youngest frame of a class. -/
def youngest (c : Nat) (w : List Queued) : Option Queued := w.reverse.find? (fun q => decide (queuedClass q = c))

/-- The queue without the youngest frame of a class. -/
def dropYoungest (c : Nat) (w : List Queued) : List Queued :=
  (w.reverse.eraseP (fun q => decide (queuedClass q = c))).reverse

/-- R177: pending reports left when a frame is accepted or replaces a frame; of those still to be delivered in this event too. -/
def clearReport (q : Queued) (rs : List Report) : List Report := rs.filter (fun r => decide (some r ≠ unsentReport q))

/-- Accepts a frame at the end of the order (R167). -/
def acceptFrame (q : Queued) (s : State) : State :=
  { s with bus := { s.bus with
      waiting := s.bus.waiting ++ [q], reports := clearReport q s.bus.reports, due := clearReport q s.bus.due } }

/-- Replaces the payload of the waiting HOLD or PATH to the same station in place (R169). -/
def replaceFrame (q : Queued) (s : State) : State :=
  { s with bus := { s.bus with
      waiting := s.bus.waiting.map (fun x => if replaces q.dest q.payload x then { x with payload := q.payload } else x),
      reports := clearReport q s.bus.reports, due := clearReport q s.bus.due } }

/-- R177: the report of a displaced or abandoned frame is owed to its owner in this event. -/
def oweReport (q : Queued) (s : State) : State :=
  match unsentReport q with
  | none => s
  | some r => { s with owed := s.owed ++ [r] }

/-- R168: displaces the youngest frame of a class. -/
def displaceFrame (c : Nat) (s : State) : State :=
  let s1 := { s with bus := { s.bus with
      waiting := dropYoungest c s.bus.waiting, queueDrop := s.bus.queueDrop + 1 } }
  match youngest c s.bus.waiting with
  | none => s1
  | some q => oweReport q s1

/-- R177: a report becomes pending; at most one is pending for a kind and a station. -/
def setPending (r : Report) (b : Bus) : Bus :=
  if (b.due ++ b.reports).contains r then b else { b with reports := b.reports ++ [r] }

/-- R168, R177: refuses an offered frame. -/
def refuseFrame (q : Queued) (s : State) : State :=
  let s1 := { s with bus := { s.bus with queueDrop := s.bus.queueDrop + 1 } }
  match unsentReport q with
  | none => s1
  | some r =>
    if reportWaits r then { s1 with bus := setPending r s1.bus } else { s1 with owed := s1.owed ++ [r] }

/-- An offer of a frame to the transmit queue (R167 to R169). -/
def offerFrame (q : Queued) (s : State) : State :=
  if s.loader.node = .duplicate then s
  else if s.bus.waiting.any (replaces q.dest q.payload) then replaceFrame q s
  else if queueLength s.bus < Config.transmitQueue then acceptFrame q s
  else if queuedClass q < lowestClass s.bus.waiting then acceptFrame q (displaceFrame (lowestClass s.bus.waiting) s)
  else refuseFrame q s

/-- An offer of a frame without an owner's tag. -/
def offer (dest : Byte) (p : Payload) (s : State) : State := offerFrame ⟨dest, p, 0⟩ s

/-- A frame addressed to all stations, offered in JOINING and RUNNING only (R152, R154, R155, R161). -/
def broadcast (p : Payload) (s : State) : State := if speaks s then offer 127 p s else s

end Sys2Proof.Machine
end

