-- ==== Sys2Proof/Machine/Exception.lean ====
section
/-! DEFINITION. The Exception Unit: event counters (R159 to R161), stray records (R152), the watch list and the
missing-bag search (R153 to R156). -/

namespace Sys2Proof.Machine

/-! ## Event counters -/

/-- R160: one counter takes an event. `chainOpen` says whether counter 1 was frozen before the event. -/
def countOne (e : CounterEvent) (chainOpen : Bool) (c : EventCounter) : EventCounter :=
  if c.event = some e ∧ c.frozen = false ∧ (c.chained = false ∨ chainOpen = true) then
    { c with value := c.value + 1, frozen := c.value + 1 == c.limit }
  else c

/-- R161: the ALERT frame of a counter that has frozen in this event. -/
def alertFreeze (number : Byte) (before after : EventCounter) (s : State) : State :=
  if after.frozen = true ∧ before.frozen = false then
    broadcast (.alert ⟨number, eventByte after.event, BitVec.ofNat 16 after.limit⟩) s
  else s

/-- R160: an event handed to the event counters. Counter 2 reads the chain as it stood before the event. When both freeze in
it, the ALERT frame of counter 1 is offered first, an order R161 leaves open (DESIGN CHOICE, log 42). -/
def countEvent (e : CounterEvent) (s : State) : State :=
  if acting s then
    let c1 := s.exc.counter1
    let c2 := s.exc.counter2
    let c1' := countOne e true c1
    let c2' := countOne e c1.frozen c2
    alertFreeze 2 c2 c2' (alertFreeze 1 c1 c1' { s with exc := { s.exc with counter1 := c1', counter2 := c2' } })
  else s

/-! ## Stray records -/

/-- What the handing block supplies of a stray record (section 9.2). -/
structure StrayInfo where
  reason : StrayReason
  disposition : Disposition
  plate : Option Nat
  destination : Option Nat
  related : Option Byte
  slot : Option Nat
  deriving DecidableEq, Repr

/-- The STRAY payload of a stray record (R179). -/
def strayPayload (r : StrayRecord) : StrayPayload :=
  { sequence := r.sequence, time := r.time, reason := reasonCode r.reason, plate := BitVec.ofNat 40 (r.plate.getD 0),
    destination := byteOf (r.destination.getD 255), disposition := dispositionCode r.disposition,
    related := r.related.getD 0, slot := byteOf (r.slot.getD 255) }

/-- R152, step 1: the stray record numbered and stamped. -/
def stampStray (i : StrayInfo) (s : State) : StrayRecord :=
  { sequence := s.exc.nextSeq, time := seconds s, reason := i.reason, plate := i.plate, destination := i.destination,
    disposition := i.disposition, related := i.related, slot := i.slot }

/-- R152, step 2: writes a stray record at the head of the exception list, a ring of 32. -/
def enterStray (r : StrayRecord) (s : State) : State :=
  { s with exc := { s.exc with
      strays := (r :: s.exc.strays).take Config.exceptionList, nextSeq := s.exc.nextSeq + 1 } }

/-- R152: a block hands the Exception Unit a stray record. Where it freezes a counter, the ALERT frame is offered before the STRAY
frame, as steps 3 and 4 stand; the example of section 9.7 lists STRAY first (DESIGN CHOICE, log 53). -/
def handStray (i : StrayInfo) (s : State) : State :=
  if acting s then
    let r := stampStray i s
    broadcast (.stray (strayPayload r)) (countEvent .strays (enterStray r s))
  else s

/-- The stray record of a bag record: its plate and destination where held, its source as related station where that is
not 0, its slot. -/
def bagStray (b : BagRecord) (reason : StrayReason) (disposition : Disposition) : StrayInfo :=
  { reason := reason, disposition := disposition, plate := heldPlate b.plate, destination := bagDestination b,
    related := heldStation b.source, slot := some b.slot }

/-! ## Searching for a plate -/

/-- Where a PRESENT_HERE sighting stands (R154). -/
inductive Place where
  | belt | expected
  deriving DecidableEq, Repr

/-- A sighting (R154). -/
inductive Sighting where
  | present (place : Place) (outlet : Option Outlet)
  | departed (d : Departure)
  deriving DecidableEq, Repr

/-- R30: the departure history looked up by plate gives the newest entry; plate 0 is never found. -/
def historyByPlate (p : Nat) (s : State) : Option Departure :=
  if p = 0 then none else s.tracker.history.find? (fun d => decide (d.plate = p))

/-- R154: where the outlet of a record stands in a sighting: its chosen outlet when it has been decided. -/
def sightedOutlet (b : BagRecord) : Option Outlet := if isDecided b then b.chosen else none

/-- R154: the sighting of a plate. -/
def sighting (p : Nat) (s : State) : Option Sighting :=
  match s.tracker.segment.find? (fun b => decide (b.plate = p)) with
  | some b => some (.present .belt (sightedOutlet b))
  | none =>
    match s.handoff.expected.find? (fun e => decide (e.plate = p)) with
    | some _ => some (.present .expected none)
    | none => (historyByPlate p s).map .departed

def placeCode : Place → Byte
  | .belt => 1
  | .expected => 2

/-- The outlet byte of a FOUND; 255 for none (R179). -/
def outletByte : Option Outlet → Byte
  | none => 255
  | some o => byteOf (outletNumber o)

/-- The FOUND payload of a sighting (R154; R179, note 1). -/
def foundPayload (p : Nat) (sg : Sighting) (reporter : Byte) (now : BitVec 32) : FoundPayload :=
  match sg with
  | .present place outlet =>
    { plate := BitVec.ofNat 40 p, kind := 1, place := placeCode place, outlet := outletByte outlet, destination := 255,
      time := now, peer := 0, handoffState := 0, attempts := 0, reporter := reporter }
  | .departed d =>
    { plate := BitVec.ofNat 40 p, kind := 2, place := 0, outlet := outletByte (some d.outlet),
      destination := byteOf (d.destination.getD 255), time := d.time, peer := d.peer,
      handoffState := handoffStateCode d.state, attempts := byteOf d.attempts, reporter := reporter }

/-- The watch entry of a plate. -/
def watched (p : Nat) (s : State) : Option WatchEntry := s.exc.watch.find? (fun w => decide (w.plate = p))

/-- Removes a plate from the watch list. -/
def unwatch (p : Nat) (s : State) : State :=
  { s with exc := { s.exc with watch := s.exc.watch.filter (fun w => decide (w.plate ≠ p)) } }

/-- The FOUND frame of a sighting, for the reporting station of the watch entry it answers. -/
def sendFound (p : Nat) (sg : Sighting) (reporter : Byte) (s : State) : State :=
  broadcast (.found (foundPayload p sg reporter (seconds s))) s

/-- R155, step 1 (R153): enters a plate on the watch list, or writes its entry afresh as the newest; a 17th entry
removes the oldest. -/
def enterWatch (p : Nat) (reporter : Byte) (s : State) : State :=
  let rest := s.exc.watch.filter (fun w => decide (w.plate ≠ p))
  let room := if rest.length < Config.watchEntries then rest else rest.drop (rest.length + 1 - Config.watchEntries)
  { s with exc := { s.exc with watch := room ++ [⟨p, seconds s, reporter⟩] } }

/-- R155, step 3: looks for the plate at once. -/
def lookAtOnce (p : Nat) (reporter : Byte) (s : State) : State :=
  match sighting p s with
  | none => s
  | some (.present place outlet) => unwatch p (sendFound p (.present place outlet) reporter s)
  | some (.departed d) => sendFound p (.departed d) reporter s

/-- R155: a search for a plate; `own` says that it begins here. In DUPLICATE only the entry is made. -/
def beginSearch (p : Nat) (reporter : Byte) (own : Bool) (s : State) : State :=
  let s1 := enterWatch p reporter s
  if speaks s then
    lookAtOnce p reporter (if own then broadcast (.missing (BitVec.ofNat 40 p) reporter) s1 else s1)
  else s1

/-- R156: a plate handed for the watch list check, with the place and outlet of the record it was handed with. -/
def watchCheck (p : Nat) (place : Place) (outlet : Option Outlet) (s : State) : State :=
  match watched p s with
  | none => s
  | some w => if speaks s then unwatch p (sendFound p (.present place outlet) w.reporter s) else s

end Sys2Proof.Machine
end

