-- ==== Sys2Proof/Machine/Drive.lean ====
section
/-! DEFINITION. The Drive Controller: the stop-reason set and the drive states (R8, R10, R11), ramp steps (R12), the halt
(R13), stall judging (R14). -/

namespace Sys2Proof.Machine

/-! ## Drive states -/

/-- R11: entering ACCEL; with r already equal to r_run the state becomes RUN at once. -/
def enterAccel (rRun : Nat) (d : Drive) : Drive :=
  if d.r = rRun then { d with state := .run } else { d with state := .accel }

/-- R14: the stall window count on leaving RUN: 0. A count that has reached 200 stands for the STALL that joins by its own
command, STALL_DETECTED, and stays until that is taken (DESIGN CHOICE, log 30). -/
def leftRun (stall : Nat) : Nat := if stall < Config.stallWindows then 0 else stall

/-- R11: entering DECEL; with r equal to 0 the state becomes STOPPED at once (the set is not empty, so it stays). -/
def enterDecel (d : Drive) : Drive :=
  if d.r = 0 then { d with state := .stopped, stall := leftRun d.stall }
  else { d with state := .decel, stall := leftRun d.stall }

/-- R13: entering HALTED. -/
def halt (d : Drive) : Drive :=
  { d with state := .halted, r := 0, quiet := some Config.quietTime, stall := leftRun d.stall }

/-- R11: the state re-examined on a change of the set that adds no halting reason, and on entering STOPPED. -/
def examine (rRun : Nat) (d : Drive) : Drive :=
  match d.state with
  | .stopped => if noReasons d.reasons then enterAccel rRun { d with r := 0 } else d
  | .accel => if noReasons d.reasons then d else enterDecel d
  | .run => if noReasons d.reasons then d else enterDecel d
  | .decel => if noReasons d.reasons then enterAccel rRun d else d
  | .halted => d

/-- R8, R11: a reason joins the set; one already present causes nothing. A halting reason halts the drive from every
state but HALTED, where the quiet timer is left running. -/
def joinReason (rRun : Nat) (x : StopReason) (d : Drive) : Drive :=
  if hasReason d.reasons x then d
  else
    let d1 := { d with reasons := setReasonBit d.reasons x true }
    if isHalting x then (if d.state = .halted then d1 else halt d1) else examine rRun d1

/-- R8, R11: a reason leaves the set; an absent one causes nothing. -/
def leaveReason (rRun : Nat) (x : StopReason) (d : Drive) : Drive :=
  if hasReason d.reasons x then examine rRun { d with reasons := setReasonBit d.reasons x false } else d

/-- R9: JAM and STALL both leave on a JAMCLR_N activation; when either was present the stall count is set to 0. -/
def clearJamStall (rRun : Nat) (d : Drive) : Drive :=
  if d.reasons.jam || d.reasons.stall then
    examine rRun { d with reasons := { d.reasons with jam := false, stall := false }, stall := 0 }
  else d

/-- R12: step_up in permille. -/
def stepUp (c : JunctionConfig) : Nat := max 1 (10 * c.aUp / c.vMax)

/-- R12: step_dn in permille. -/
def stepDown (c : JunctionConfig) : Nat := max 1 (10 * c.aDn / c.vMax)

/-- R12: the ramp step of a 10 ms boundary. -/
def rampDrive (c : JunctionConfig) (d : Drive) : Drive :=
  match d.state with
  | .accel =>
    let r := min c.rRun (d.r + stepUp c)
    { d with r := r, state := if r = c.rRun then .run else .accel }
  | .decel =>
    let r := d.r - stepDown c
    if r = 0 then examine c.rRun { d with r := 0, state := .stopped } else { d with r := r }
  | .stopped => d
  | .run => d
  | .halted => d

/-- R13: the quiet timer runs out. -/
def quietOut (rRun : Nat) (d : Drive) : Drive := examine rRun { d with state := .stopped, quiet := none }

/-- R13: an encoder count restarts the quiet timer while the drive is HALTED. -/
def restartQuiet (d : Drive) : Drive :=
  if d.quiet.isSome then { d with quiet := some Config.quietTime } else d

/-- R14: half the speed that corresponds to the run reference. -/
def stallThreshold (c : JunctionConfig) : Nat := c.rRun * c.vMax / 1000 / 2

/-- R14: a speed window that ends in RUN is judged; the count goes to 200 at most, and stays there until STALL_DETECTED
(DESIGN CHOICE, log 30). -/
def judgeStall (c : JunctionConfig) (v : Nat) (d : Drive) : Drive :=
  match d.state with
  | .run =>
    if v < stallThreshold c then { d with stall := min Config.stallWindows (d.stall + 1) } else { d with stall := leftRun d.stall }
  | .stopped | .accel | .decel | .halted => d

/-! ## On the whole state -/

/-- A change of the drive alone. -/
def onDrive (f : Drive → Drive) (s : State) : State := { s with drive := f s.drive }

/-- A stopping reason is made present or absent (R148). -/
def putReason (x : StopReason) (present : Bool) (s : State) : State :=
  onDrive (if present then joinReason (cfg s).rRun x else leaveReason (cfg s).rRun x) s

/-- JAM or STALL is in the set: EYE_IN delivers no edges (R6) and the jam demand is present (R142). -/
def jammed (s : State) : Bool := s.drive.reasons.jam || s.drive.reasons.stall

end Sys2Proof.Machine
end

