-- ==== Sys2Proof/Machine/Flow.lean ====
section
/-! DEFINITION. The Flow Controller: occupancy and the holds this node sends (R141 to R143), PATH frames (R138, R139),
the hold gate (R145 to R150), and the two properties of an outlet it shares with the Route Selector (R79). -/

namespace Sys2Proof.Machine

/-! ## Outlets (R78, R79) -/

/-- The row of a configured outlet. -/
def row (s : State) (o : Outlet) : Option RouteRow := s.routes.rows.get o

/-- Changes the row of a configured outlet. -/
def updateRow (o : Outlet) (f : RouteRow → RouteRow) (s : State) : State :=
  { s with routes := { s.routes with rows := s.routes.rows.set o ((s.routes.rows.get o).map f) } }

/-- The peer state of a station (R118); a station that is no peer is not DOWN. -/
def peerDown (s : State) (station : Byte) : Bool :=
  (s.handoff.peers.find? (fun p => decide (p.station = station))).any PeerState.down

/-- R79: a PEER outlet is blocked when its peer is DOWN or its learned reach is empty; a TERMINAL outlet never. -/
def blockedRow (s : State) (r : RouteRow) : Bool :=
  match r.kind with
  | .terminal => false
  | .peer => peerDown s r.peer || decide (r.learned = 0)

/-- R79: the effective reach. -/
def effectiveReach (r : RouteRow) : DestSet :=
  match r.kind with
  | .terminal => r.reach
  | .peer => r.reach &&& r.learned

/-- A hold of the outlet has not lapsed (R144). -/
def heldRow (r : RouteRow) : Bool := r.kind == .peer && r.holdExpiry.isSome

def blockedOutlet (s : State) (o : Outlet) : Bool := (row s o).any (blockedRow s)

def heldOutlet (s : State) (o : Outlet) : Bool := (row s o).any heldRow

/-- R145: a PEER outlet is gated while it is held or blocked, or both. -/
def gated (s : State) (o : Outlet) : Bool := heldOutlet s o || blockedOutlet s o

/-- The peer station of an outlet when it is PEER. -/
def peerOf (s : State) (o : Outlet) : Option Byte :=
  match row s o with
  | some r => if r.kind = .peer then some r.peer else none
  | none => none

/-! ## PATH frames -/

/-- A frame to every upstream source (R138, R143), offered in the order of the configuration, since neither rule gives one (DESIGN
CHOICE, log 47). -/
def toSources (p : Payload) (s : State) : State :=
  (cfg s).sources.foldl (fun acc x => offer x.station p acc) s

/-- R138: the Route Selector hands over a changed advertised reach; it is kept, and sent in RUNNING. -/
def handReach (reach : DestSet) (s : State) : State :=
  let s1 := { s with flow := { s.flow with reach := reach } }
  if s.loader.node = .running then toSources (.path reach) s1 else s1

/-! ## Hold demands and the hold value (R142, R143) -/

/-- R142: the hold value the demands ask for. -/
def wantedHold (s : State) : Nat :=
  if jammed s then Config.jamHold else if s.flow.demand then (cfg s).holdQuanta else 0

/-- R143: the period of the refresh timer in ms. -/
def refreshPeriod (value : Nat) : Nat := value / 2 * Config.quantum

/-- R143: the refresh timer that runs for a hold value: none at 0, and none outside RUNNING. -/
def refreshFor (s : State) (value : Nat) : Option Nat :=
  if s.loader.node = .running ∧ 0 < value then some (refreshPeriod value) else none

/-- R142, R143: the hold value follows the demands; in RUNNING a change is offered to every source, and the refresh
timer restarts or stops. -/
def followHold (s : State) : State :=
  let value := wantedHold s
  if value = s.flow.holdValue then s
  else
    let s1 := { s with flow := { s.flow with holdValue := value } }
    let s2 := if s.loader.node = .running then toSources (.hold (byteOf value)) s1 else s1
    { s2 with flow := { s2.flow with refresh := refreshFor s2 value } }

/-- R142: the occupancy demand at an occupancy. -/
def demandAt (c : JunctionConfig) (occupancy : Nat) (was : Bool) : Bool :=
  if c.highMark ≤ occupancy then true else if occupancy ≤ c.lowMark then false else was

/-- R141, R142: the occupancy becomes a number. -/
def putOccupancy (n : Nat) (s : State) : State :=
  followHold { s with flow := { s.flow with occupancy := n, demand := demandAt (cfg s) n s.flow.demand } }

/-- R141: a rise by 1. -/
def occupancyRise (s : State) : State := putOccupancy (s.flow.occupancy + 1) s

/-- R141: a fall by 1. -/
def occupancyFall (s : State) : State := putOccupancy (s.flow.occupancy - 1) s

/-- R8, R27, R14: JAM or STALL joins the set. The addition goes to the Belt Distance Unit (R7: the pending trailing edge
of EYE_IN is discarded), to the Flow Controller (R142) and, as one jams and stalls event, to the event counters, in this order,
since R8 gives none: the HOLD frames are offered before an ALERT frame (DESIGN CHOICE, log 54). -/
def raiseHalting (x : StopReason) (s : State) : State :=
  if hasReason s.drive.reasons x then s
  else
    let s1 := onDrive (joinReason (cfg s).rRun x) s
    let s2 := { s1 with belt := { s1.belt with
        eyes := { s1.belt.eyes with entry := { s1.belt.eyes.entry with trailing := none } } } }
    countEvent .jamsAndStalls (followHold s2)

/-! ## The hold gate -/

/-- The gate of an outlet. -/
def gateOf (s : State) (o : Outlet) : Option Gate := s.flow.gates.get o

def putGate (o : Outlet) (g : Option Gate) (s : State) : State :=
  { s with flow := { s.flow with gates := s.flow.gates.set o g } }

/-- The windows of a diverter, the active one first. -/
def windowList (w : DiverterWindows) : List Window := w.active.toList ++ w.next.toList

/-- A window holds a live bag in a slot. -/
def holdsBag (slot : Nat) (w : Window) : Bool := w.bags.any (fun b => decide (b.slot = slot) && !b.departed)

/-- The window of a diverter in which a live bag stands. -/
def windowOfBag (s : State) (k : Diverter) (slot : Nat) : Option Window :=
  (windowList (s.divert.windows.get k)).find? (holdsBag slot)

/-- R147: the stop distance in micrometres. -/
def stopDistance (s : State) : Nat := s.belt.v ^ 2 * 1000 / (2 * (cfg s).aDn)

/-- R147: what is taken from the fire point or the exit eye: stop distance and hold margin. -/
def stopMargin (s : State) : Pos := um (stopDistance s) + mm (cfg s).holdMargin

/-- R147: the stop position of a record at an outlet; for a diverter outlet it needs the bag's unfired window. -/
def stopPoint (s : State) (o : Outlet) (b : BagRecord) : Option Pos :=
  match diverterOfOutlet o with
  | none => some (b.entry + mm (cfg s).exitPosition - stopMargin s)
  | some k =>
    match windowOfBag s k b.slot with
    | some w => if w.fired then none else some (w.fire - stopMargin s)
    | none => none

/-- R146: the conditions on the stopping bag of the gate at an outlet, but for its stop position. -/
def mayStop (o : Outlet) (b : BagRecord) : Bool :=
  decide (b.chosen = some o) && decide (b.tracking = .decided) && decide (b.gatePassed ≠ some o)

/-- R148: some latched gate stands at an outlet with a property. -/
def latchedAt (s : State) (p : Outlet → Bool) : Bool :=
  allOutlets.any (fun o => (gateOf s o).any Gate.latched && p o)

/-- R148: HOLD is in the set exactly while a latched gate is at a held outlet, BLOCKED while one is at a blocked outlet.
A reason that joins is added before one that leaves is removed. -/
def syncStops (s : State) : State :=
  let wantHold := latchedAt s (heldOutlet s)
  let wantBlocked := latchedAt s (blockedOutlet s)
  let s1 := if wantHold then putReason .hold true s else s
  let s2 := if wantBlocked then putReason .blocked true s1 else s1
  let s3 := if wantHold then s2 else putReason .hold false s2
  if wantBlocked then s3 else putReason .blocked false s3

/-- R149: a record is passed as an overrun by the gate at an outlet. -/
def passOverrun (o : Outlet) (slot : Nat) (s : State) : State :=
  let s1 := updateBag slot (fun b => { b with gatePassed := some o }) s
  countEvent .holdOverruns { s1 with flow := { s1.flow with overruns := s1.flow.overruns + 1 } }

/-- R146: the records of the queue are taken up in order until one is the stopping bag. R146 says that the stop position of a
record ahead of a latched stopping bag has been reached; where R147 at a lower v puts it ahead of D all the same, that record
becomes the stopping bag, unlatched (DESIGN CHOICE, log 41). -/
def takeUp (o : Outlet) (g : Gate) : List BagRecord → State → State
  | [], s => putGate o (some ⟨none, none, false⟩) (withdraw (.stopPosition o) s)
  | b :: rest, s =>
    if mayStop o b then
      match stopPoint s o b with
      | none => takeUp o g rest s
      | some p =>
        if g.stoppingBag = some b.slot then s
        else if reached s.belt.d p then takeUp o g rest (passOverrun o b.slot s)
        else putGate o (some ⟨some b.slot, some p, false⟩) (holdPosition (.stopPosition o) p (withdraw (.stopPosition o) s))
    else takeUp o g rest s

/-- R146, R150: the gate at an outlet, if there is one, determines its stopping bag afresh. -/
def determineStop (o : Outlet) (s : State) : State :=
  match gateOf s o with
  | none => s
  | some g => syncStops (takeUp o g s.tracker.segment s)

/-- R145, R150: a gate is made when its outlet becomes gated and deleted when it ceases to be. -/
def refreshGate (o : Outlet) (s : State) : State :=
  match gateOf s o with
  | none => if gated s o then determineStop o (putGate o (some ⟨none, none, false⟩) s) else s
  | some _ => if gated s o then syncStops s else syncStops (putGate o none (withdraw (.stopPosition o) s))

/-- The gates of all outlets after a change of holds, peer states or learned reaches. -/
def refreshGates (s : State) : State := allOutlets.foldl (fun acc o => refreshGate o acc) s

/-- R148: the gate at an outlet latches. -/
def latchGate (o : Outlet) (s : State) : State :=
  match gateOf s o with
  | none => s
  | some g => if g.stoppingBag.isSome then syncStops (putGate o (some { g with latched := true }) s) else s

/-- R147: the stop position of an unlatched gate is recomputed and registered; one already reached latches it. -/
def recomputeStop (o : Outlet) (s : State) : State :=
  match gateOf s o with
  | none => s
  | some g =>
    match g.stoppingBag.bind (findBag s) with
    | none => s
    | some b =>
      if g.latched then s
      else
        match stopPoint s o b with
        | none => s
        | some p => offerPosition (.stopPosition o) p (latchGate o) (putGate o (some { g with stop := some p }) s)

/-- R147: at a speed window end, every unlatched gate. -/
def recomputeStops (s : State) : State := allOutlets.foldl (fun acc o => recomputeStop o acc) s

/-- R147: the Divert Scheduler recomputed F for a window; the gate whose stopping bag stands in it follows. -/
def fireMoved (k : Diverter) (window : Nat) (s : State) : State :=
  let o := outletOfDiverter k
  match gateOf s o with
  | none => s
  | some g =>
    match g.stoppingBag.bind (windowOfBag s k) with
    | none => s
    | some w => if w.number = window then recomputeStop o s else s

/-- R146: a gate whose stopping bag is one of these slots determines it afresh. -/
def stoppersGone (slots : List Nat) (o : Outlet) (s : State) : State :=
  match gateOf s o with
  | none => s
  | some g => if g.stoppingBag.any slots.contains then determineStop o s else s

/-- R146: a record is handed on with its chosen outlet: the gates of other outlets drop it as stopping bag, the gate of
its outlet considers it. -/
def handChosen (slot : Nat) (s : State) : State :=
  match findBag s slot with
  | none => s
  | some b =>
    let s1 := allOutlets.foldl (fun acc o => if b.chosen = some o then acc else stoppersGone [slot] o acc) s
    match b.chosen with
    | none => s1
    | some o => determineStop o s1

/-- R28, R146: a record has left the queue; a gate it was the stopping bag of takes up another. -/
def stopperLeft (slot : Nat) (s : State) : State :=
  allOutlets.foldl (fun acc o => stoppersGone [slot] o acc) s

end Sys2Proof.Machine
end

