-- ==== Sys2Proof/Machine/Divert.lean ====
section
/-! DEFINITION. The Divert Scheduler: lead, fire and release points (R98 to R100), gaps and requirements (R102), closing
and opening checks and placement (R103 to R107), withdrawal (R108), rescheduling (R109), firing, release and pass
positions (R110 to R114), the emergency stop (R115). -/

namespace Sys2Proof.Machine

/-! ## Windows -/

def windowsOf (s : State) (k : Diverter) : DiverterWindows := s.divert.windows.get k

def putWindows (k : Diverter) (w : DiverterWindows) (s : State) : State :=
  { s with divert := { s.divert with windows := s.divert.windows.set k w } }

def diverterCfg (s : State) (k : Diverter) : Option DiverterConfig := (cfg s).diverters.get k

/-- The window of a diverter with a number. -/
def windowNumbered (s : State) (k : Diverter) (number : Nat) : Option Window :=
  (windowList (windowsOf s k)).find? (fun w => decide (w.number = number))

/-- Changes the window with a number. -/
def updateWindow (k : Diverter) (number : Nat) (f : Window → Window) (s : State) : State :=
  let w := windowsOf s k
  let on := fun (x : Window) => if x.number = number then f x else x
  putWindows k ⟨w.active.map on, w.next.map on⟩ s

/-- R108, R111: takes a window out; when it was the active one, the next moves into the active slot. -/
def dropWindow (k : Diverter) (number : Nat) (s : State) : State :=
  let w := windowsOf s k
  let s1 := withdraw (.firePoint k number) (withdraw (.releasePoint k number) s)
  if w.active.any (fun x => decide (x.number = number)) then putWindows k ⟨w.next, none⟩ s1
  else if w.next.any (fun x => decide (x.number = number)) then putWindows k ⟨w.active, none⟩ s1
  else s1

/-! ## Lead, gaps and requirements -/

/-- R98: the lead of a diverter in micrometres, from v and the drive state. -/
def leadOf (s : State) (x : DiverterConfig) : Nat :=
  match s.drive.state with
  | .accel => s.belt.v * x.travel + (cfg s).aUp * x.travel ^ 2 / 2000
  | .decel => s.belt.v * x.travel - (cfg s).aDn * x.travel ^ 2 / 2000
  | .run | .stopped | .halted => s.belt.v * x.travel

/-- R99: the fire point for a head with an entry position. -/
def fireFor (s : State) (x : DiverterConfig) (head : Pos) : Pos := head + mm x.position - um (leadOf s x)

/-- R100: the release point behind a last bag, when its length is known. -/
def releaseFor (x : DiverterConfig) (z : WindowBag) : Option Pos :=
  z.length.map (fun l => z.entry + mm l + mm (x.position + x.release))

/-- R102: the gap of a bag with an entry position behind a bag; 0 when the length ahead is not known. -/
def gapBehind (ahead : Pos) (len : Option Nat) (e : Pos) : Int :=
  match len with
  | none => 0
  | some l => posDiff e (ahead + mm l)

/-- R102: the closing requirement. -/
def closingNeed (s : State) (x : DiverterConfig) : Int := ((x.release + x.approach) * 1000 + s.belt.v * x.close : Nat)

/-- R102: the opening requirement. -/
def openingNeed (s : State) (x : DiverterConfig) : Int := (x.approach * 1000 + leadOf s x : Nat)

/-- The position Lk of the diverter of an outlet in mm, when it is a configured diverter. -/
def outletPosition (s : State) (o : Outlet) : Option Nat :=
  (diverterOfOutlet o).bind (fun k => (diverterCfg s k).map DiverterConfig.position)

/-- R102: a bag with an entry position, bound for an outlet, passes diverter j. -/
def passes (s : State) (e : Pos) (o : Outlet) (j : Diverter) : Bool :=
  match diverterCfg s j with
  | none => false
  | some x =>
    !reached s.belt.d (e + mm x.position) &&
      match outletPosition s o with
      | some l => decide (x.position < l)
      | none => decide (o = .o0)

/-- The same for an outlet that may be absent. -/
def passesFor (s : State) (e : Pos) (o : Option Outlet) (j : Diverter) : Bool := o.any (fun o => passes s e o j)

/-- Every bag of a diverter's windows in order, with its window's fired flag. -/
def windowBags (w : DiverterWindows) : List (WindowBag × Bool) :=
  (windowList w).flatMap (fun x => x.bags.map (fun b => (b, x.fired)))

/-- R104: the latest bag ahead of an entry position in a diverter's windows, and whether its window has fired. -/
def latestAhead (w : DiverterWindows) (e : Pos) : Option (WindowBag × Bool) :=
  ((windowBags w).filter (fun y => decide (0 < posDiff e y.1.entry))).getLast?

/-- R109: the oldest bag behind an entry position in a diverter's windows. -/
def oldestBehind (w : DiverterWindows) (e : Pos) : Option (WindowBag × Bool) :=
  (windowBags w).find? (fun y => decide (0 < posDiff y.1.entry e))

/-! ## Pass positions and confirm timers -/

/-- R112: a bag's Lk pass position is reached; its confirm timer starts at Qk. -/
def passReached (k : Diverter) (slot : Nat) (s : State) : State :=
  match diverterCfg s k with
  | none => s
  | some x =>
    updateBag slot (fun b => if b.tracking = .diverting then { b with confirm := some x.confirm } else b) s

/-- R110, steps 2 and 3: a live bag of a fired window becomes DIVERTING and its pass position is registered. -/
def bagFires (k : Diverter) (slot : Nat) (s : State) : State :=
  match diverterCfg s k, findBag s slot with
  | some x, some b =>
    let s1 := updateBag slot (fun b => if b.tracking = .decided then { b with tracking := .diverting } else b) s
    offerPosition (.passPosition k slot) (b.entry + mm x.position) (passReached k slot) s1
  | _, _ => s

/-- The slots of a window's live bags. -/
def liveSlots (w : Window) : List Nat := (w.bags.filter (fun b => !b.departed)).map WindowBag.slot

/-- R110: the fire position of a window is reached. -/
def fireWindow (k : Diverter) (number : Nat) (s : State) : State :=
  match windowNumbered s k number with
  | none => s
  | some w =>
    if w.fired then s
    else
      let s1 := updateWindow k number (fun x => { x with fired := true }) s
      let s2 := (liveSlots w).foldl (fun acc slot => bagFires k slot acc) s1
      stoppersGone (liveSlots w) (outletOfDiverter k) s2

/-- R111: the release position of a window is reached; DIVk follows by R101. -/
def releaseWindow (k : Diverter) (number : Nat) (s : State) : State := dropWindow k number s

/-- R99: F of an unfired window is computed for its head and registered; one already reached fires the window. The hold
gate follows (R147) at once, before the next window is computed: a gate that latches then may change the drive state for the
leads of the windows after it (DESIGN CHOICE, log 55). -/
def setFire (k : Diverter) (number : Nat) (s : State) : State :=
  match diverterCfg s k, windowNumbered s k number with
  | some x, some w =>
    match w.fired, w.bags.head? with
    | false, some h =>
      let f := fireFor s x h.entry
      let s1 := updateWindow k number (fun y => { y with fire := f }) s
      fireMoved k number (offerPosition (.firePoint k number) f (fireWindow k number) s1)
    | _, _ => s
  | _, _ => s

/-- R100: the release point of a window is computed for its last bag and registered; while the length is absent there is
none. -/
def setRelease (k : Diverter) (number : Nat) (s : State) : State :=
  match diverterCfg s k, windowNumbered s k number with
  | some x, some w =>
    let p := w.bags.getLast?.bind (releaseFor x)
    let s1 := updateWindow k number (fun y => { y with release := p }) s
    match p with
    | none => withdraw (.releasePoint k number) s1
    | some p => offerPosition (.releasePoint k number) p (releaseWindow k number) s1
  | _, _ => s

/-- R99: at a speed window end every unfired window's fire point is recomputed, at diverter 1, 2, 3 in this order, since R99 gives
none (DESIGN CHOICE, log 52). -/
def recomputeFires (s : State) : State :=
  allDiverters.foldl (fun acc k =>
    ((windowList (windowsOf acc k)).map Window.number).foldl (fun a n => setFire k n a) acc) s

/-! ## Withdrawal and send-through -/

/-- R108: a bag is withdrawn from the unfired window it stands in. -/
def withdrawBag (k : Diverter) (slot : Nat) (s : State) : State :=
  match windowOfBag s k slot with
  | none => s
  | some w =>
    if w.fired then s
    else
      let bags := w.bags.filter (fun b => decide (b.slot ≠ slot))
      if bags.isEmpty then dropWindow k w.number s
      else
        let s1 := updateWindow k w.number (fun y => { y with bags := bags }) s
        let s2 := if bags.head? = w.bags.head? then s1 else setFire k w.number s1
        if bags.getLast? = w.bags.getLast? then s2 else setRelease k w.number s2

/-- R108 at whatever diverter the bag stands. -/
def withdrawEverywhere (slot : Nat) (s : State) : State :=
  allDiverters.foldl (fun acc k => withdrawBag k slot acc) s

/-- R104, R117: a record gains AT_RISK; a second marking changes nothing. -/
def markRisk (slot : Nat) (s : State) : State :=
  match findBag s slot with
  | none => s
  | some b =>
    if b.flags.atRisk then s
    else
      let s1 := updateBag slot (fun b => { b with flags := { b.flags with atRisk := true } }) s
      { s1 with divert := { s1.divert with atRisk := s1.divert.atRisk + 1 } }

/-- Why the scheduler sends a bag through (R107). -/
inductive ThroughCause where
  | gapConflict | diverterBusy | overrideLate
  deriving DecidableEq, Repr

/-- R107: the count and event of a cause, and the OVERRIDE_LATE flag. -/
def countThrough (cause : ThroughCause) (slot : Nat) (s : State) : State :=
  match cause with
  | .gapConflict =>
    countEvent .gapConflict { s with divert := { s.divert with gapConflict := s.divert.gapConflict + 1 } }
  | .diverterBusy => countEvent .diverterBusy { s with divert := { s.divert with busy := s.divert.busy + 1 } }
  | .overrideLate =>
    let had := (findBag s slot).any (fun b => b.flags.overrideLate)
    let s1 := updateBag slot (fun b => { b with flags := { b.flags with overrideLate := true } })
      { s with divert := { s.divert with lateDivert := s.divert.lateDivert + 1 } }
    if had then s1 else countEvent .overrideLate s1

/-- R107: the at-risk check of a bag at a diverter: a conflict withdraws nothing. -/
def riskCheck (slot : Nat) (e : Pos) (j : Diverter) (s : State) : State :=
  match diverterCfg s j, latestAhead (windowsOf s j) e with
  | some x, some (a, _) => if gapBehind a.entry a.length e < closingNeed s x then markRisk slot s else s
  | _, _ => s

/-- R107: a bag is sent through. `busyWith` is the slot of the record whose scheduling is in progress. -/
def sendThrough (cause : ThroughCause) (busyWith slot : Nat) (s : State) : State :=
  match findBag s slot with
  | none => s
  | some b =>
    let s1 := countThrough cause slot (updateBag slot (setChosen .o0) s)
    let s2 := allDiverters.foldl (fun acc j =>
      if passes acc b.entry .o0 j && !passesFor acc b.entry b.chosen j then riskCheck slot b.entry j acc else acc) s1
    if slot = busyWith then s2 else handChosen slot s2

/-! ## Checks and placement -/

/-- R104: the closing check for a bag at a diverter it passes; it is made again after a withdrawal. The withdrawn bag is handed to
the Flow Controller by R107 before that, where the example of section 6.10 hands it on after (DESIGN CHOICE, log 46). -/
def closingCheck : Nat → Nat → Pos → Diverter → State → State
  | 0, _, _, _, s => s
  | fuel + 1, slot, e, j, s =>
    match diverterCfg s j, latestAhead (windowsOf s j) e with
    | some x, some (a, fired) =>
      if gapBehind a.entry a.length e < closingNeed s x then
        if fired then markRisk slot s
        else closingCheck fuel slot e j (sendThrough .gapConflict slot a.slot (withdrawBag j a.slot s))
      else s
    | _, _ => s

/-- R103, step 1: the closing checks at every configured diverter the bag passes, in order of position. Two windows hold
eight bags at most, so eight repetitions are enough. -/
def closingChecks (slot : Nat) (e : Pos) (o : Outlet) (s : State) : State :=
  allDiverters.foldl (fun acc j => if passes acc e o j then closingCheck 9 slot e j acc else acc) s

/-- R106, step 2: the record nearest ahead in the queue that is not in k's windows and is not bound for a diverter placed
before Lk. -/
def nearestAhead (s : State) (k : Diverter) (x : DiverterConfig) (slot : Nat) : Option BagRecord :=
  ((s.tracker.segment.takeWhile (fun b => decide (b.slot ≠ slot))).reverse).find? (fun a =>
    (windowOfBag s k a.slot).isNone &&
      !((a.chosen.bind (outletPosition s)).any (fun l => decide (l < x.position))))

/-- R105: a bag joins a window as its new last bag. -/
def joinWindow (k : Diverter) (w : Window) (b : BagRecord) (s : State) : State :=
  let s1 := updateWindow k w.number (fun y => { y with bags := y.bags ++ [⟨b.slot, b.entry, b.length, false⟩] }) s
  let s2 := setRelease k w.number s1
  if w.fired then bagFires k b.slot s2 else s2

/-- R106, step 4: a window of its own. -/
def openWindow (k : Diverter) (b : BagRecord) (s : State) : State :=
  let number := s.serial.window
  let w : Window := { number := number, bags := [⟨b.slot, b.entry, b.length, false⟩], fire := 0, release := none, fired := false }
  let ws := windowsOf s k
  let s1 := { s with serial := { s.serial with window := number + 1 } }
  let s2 := putWindows k (if ws.active.isNone then ⟨some w, ws.next⟩ else ⟨ws.active, some w⟩) s1
  setRelease k number (setFire k number s2)

/-- R106: a window of its own for a bag that does not join one. -/
def newWindow (k : Diverter) (x : DiverterConfig) (b : BagRecord) (s : State) : State :=
  let ws := windowsOf s k
  if ws.active.isSome ∧ ws.next.isSome then sendThrough .diverterBusy b.slot b.slot s
  else if (nearestAhead s k x b.slot).any (fun a => decide (gapBehind a.entry a.length b.entry < openingNeed s x)) then
    sendThrough .gapConflict b.slot b.slot s
  else if reached s.belt.d (fireFor s x b.entry) then sendThrough .overrideLate b.slot b.slot s
  else openWindow k b s

/-- R105, R106: placing a bag at its diverter. -/
def placeBag (k : Diverter) (b : BagRecord) (s : State) : State :=
  match diverterCfg s k with
  | none => s
  | some x =>
    let lastWindow := (windowList (windowsOf s k)).getLast?
    match lastWindow, lastWindow.bind (fun w => w.bags.getLast?) with
    | some w, some a =>
      if gapBehind a.entry a.length b.entry < closingNeed s x then
        if w.bags.length < Config.windowBags then joinWindow k w b s
        else sendThrough .diverterBusy b.slot b.slot s
      else newWindow k x b s
    | _, _ => newWindow k x b s

/-- R103: a record is scheduled with its outcome at a decision. -/
def schedule (slot : Nat) (o : Outlet) (s : State) : State :=
  match findBag s slot with
  | none => s
  | some b =>
    let s1 := closingChecks slot b.entry o s
    match diverterOfOutlet o with
    | none => s1
    | some k => placeBag k b s1

/-- R109: bags behind B at a diverter B now passes. -/
def behindCheck (slot : Nat) (e : Pos) (len : Option Nat) (j : Diverter) (s : State) : State :=
  match diverterCfg s j, oldestBehind (windowsOf s j) e with
  | some x, some (c, fired) =>
    if gapBehind e len c.entry < openingNeed s x then
      if fired then markRisk slot s else sendThrough .gapConflict slot c.slot (withdrawBag j c.slot s)
    else s
  | _, _ => s

/-- R109: the record nearest behind B that passes m. -/
def nearestBehind (s : State) (m : Diverter) (slot : Nat) : Option BagRecord :=
  ((s.tracker.segment.dropWhile (fun b => decide (b.slot ≠ slot))).drop 1).find? (fun c => passesFor s c.entry c.chosen m)

/-- R109: a record moved by a re-decision from an old chosen outlet to a new outcome. One already bound through that is moved
to outlet 0 only has its chosen outlet confirmed. The bags behind are checked at diverter 1, 2, 3 in this order, since R109 gives
none (DESIGN CHOICE, log 51). -/
def reschedule (slot : Nat) (old : Option Outlet) (m : Outlet) (s : State) : State :=
  match findBag s slot with
  | none => s
  | some b =>
    if m = .o0 ∧ old = some .o0 then s else
    let s1 := closingChecks slot b.entry m (withdrawEverywhere slot s)
    let s2 := allDiverters.foldl (fun acc j =>
      if passes acc b.entry m j && !passesFor acc b.entry old j then behindCheck slot b.entry b.length j acc else acc) s1
    match diverterOfOutlet m with
    | none => s2
    | some k =>
      match diverterCfg s2 k with
      | none => s2
      | some x =>
        if (oldestBehind (windowsOf s2 k) b.entry).isSome then sendThrough .diverterBusy slot slot s2
        else if (nearestBehind s2 k slot).any (fun c => decide (gapBehind b.entry b.length c.entry < closingNeed s2 x)) then
          sendThrough .gapConflict slot slot s2
        else placeBag k b s2

/-! ## Removal and lengths -/

/-- R113: the record in a slot has left the queue. -/
def bagLeft (slot : Nat) (s : State) : State :=
  allDiverters.foldl (fun acc k =>
    match windowOfBag acc k slot with
    | none => acc
    | some w =>
      if w.fired then
        let s1 := updateWindow k w.number (fun y =>
          { y with bags := y.bags.map (fun b => if b.slot = slot then { b with departed := true } else b) }) acc
        if w.bags.getLast?.any (fun z => decide (z.slot = slot) && z.length.isNone) then releaseWindow k w.number s1 else s1
      else withdrawBag k slot acc) s

/-- R114: a closed length is written into the record's bag entry; a window's last bag gets its release point. -/
def lengthKnown (slot len : Nat) (s : State) : State :=
  allDiverters.foldl (fun acc k =>
    match windowOfBag acc k slot with
    | none => acc
    | some w =>
      let s1 := updateWindow k w.number (fun y =>
        { y with bags := y.bags.map (fun b => if b.slot = slot ∧ b.departed = false then { b with length := some len } else b) }) acc
      if w.bags.getLast?.any (fun z => decide (z.slot = slot) && !z.departed) then setRelease k w.number s1 else s1) s

/-! ## Emergency stop -/

/-- R115, step 2: the record in a slot that stands in a fired window of diverter k gains UNCERTAIN when its Lk pass position
E + Lk × 1,000 (R110) has been reached, as R2 compares it with D (section 6.11, first row). -/
def markUncertain (k : Diverter) (slot : Nat) (s : State) : State :=
  match diverterCfg s k with
  | none => s
  | some x =>
    updateBag slot (fun b =>
      if reached s.belt.d (b.entry + mm x.position) then { b with flags := { b.flags with uncertain := true } } else b) s

/-- R115: ESTOP has joined the set. -/
def holdOutputs (s : State) : State :=
  let s1 := { s with holdOff := true }
  allDiverters.foldl (fun acc k =>
    (windowList (windowsOf acc k)).foldl (fun a w =>
      if w.fired then (liveSlots w).foldl (fun x slot => markUncertain k slot x) a else a) acc) s1

/-- R116: the belt restart. -/
def restoreOutputs (s : State) : State := { s with holdOff := false }

/-- R101: DIVk is energized exactly while the active window has fired and not released and the hold-off is clear. -/
def divOn (s : State) (k : Diverter) : Bool := !s.holdOff && (windowsOf s k).active.any Window.fired

end Sys2Proof.Machine
end

