-- ==== Sys2Proof/Machine/Route.lean ====
section
/-! DEFINITION. The Route Selector: decision lines (R84 to R88), the decision (R82, R83, R89), re-decision (R90 to R95),
route table changes (R79) and the advertised reach (R96). -/

namespace Sys2Proof.Machine

/-! ## Decision lines -/

/-- The outcome of the decision lines: an outlet, and the stray reason the decision assigns, if any (R82). -/
structure Outcome where
  outlet : Outlet
  assigned : Option StrayReason
  deriving DecidableEq, Repr

/-- The record carries STRAY not set by a decision of this node (R84, condition 1; R92). STRAY that a claim (R132) or a late read
(R52) sets on a record whose decision here had set it already counts as set here (DESIGN CHOICE, log 36). -/
def foreignStray (b : BagRecord) : Bool := b.flags.stray && !b.decision.straySet

/-- R84: the first decision line, conditions 2 to 8 in order: the reason assigned by the first that holds. -/
def refusalReason (s : State) (b : BagRecord) : Option StrayReason :=
  if b.flags.duplicate then some .duplicate
  else if b.flags.mismatch then some .mismatch
  else if b.flags.ambiguous then some .ambiguous
  else
    match b.part with
    | none => none
    | some p =>
      if p.cls = .cancelled then some .cancelled
      else if p.cls = .inspect then some .inspect
      else if (cfg s).ships.getLsbD p.ship = false ∨ p.ship = 0 then some .wrongShip
      else if s.routes.late.getLsbD p.destination then some .late
      else none

/-- R86, R88: the through fallback is open: outlet 0 is PEER and is not the exception outlet. -/
def throughOpen (s : State) : Bool := (peerOf s .o0).isSome && decide ((cfg s).exceptionOutlet ≠ .o0)

/-- R86: the reason of a bag that is not resolved and cannot go through. -/
def unresolvedReason (b : BagRecord) : StrayReason :=
  if b.plate ≠ 0 then .noManifest else if b.source ≠ 0 then .noRead else .unannounced

/-- R87: an outlet is a candidate for a manifest part. -/
def candidate (s : State) (p : ManifestPart) (o : Outlet) : Bool :=
  match row s o with
  | none => false
  | some r =>
    (effectiveReach r).getLsbD p.destination && decide (o ≠ (cfg s).exceptionOutlet) &&
      !(r.narrow && decide (p.cls = .oversize)) && !(decide (r.kind = .terminal) && r.closed) && !blockedRow s r

/-- R87: the candidate outlets in the preferred order. -/
def candidates (s : State) (p : ManifestPart) : List Outlet := (cfg s).preferred.filter (candidate s p)

def isTerminal (s : State) (o : Outlet) : Bool := (row s o).any (fun r => decide (r.kind = .terminal))

/-- R87: the first TERMINAL candidate, else the first candidate. -/
def bestCandidate (s : State) (p : ManifestPart) : Option Outlet :=
  match (candidates s p).find? (isTerminal s) with
  | some o => some o
  | none => (candidates s p).head?

/-- The decision lines R84 to R88, taken in order. -/
def decideLines (s : State) (b : BagRecord) : Outcome :=
  let strayTo := (cfg s).exceptionOutlet
  if foreignStray b then ⟨strayTo, none⟩
  else
    match refusalReason s b with
    | some r => ⟨strayTo, some r⟩
    | none =>
      if (cfg s).passLimit ≤ b.passCount then ⟨strayTo, some .recircLimit⟩
      else
        match b.status, b.part with
        | .resolved, some p =>
          match bestCandidate s p with
          | some o => ⟨o, none⟩
          | none => if throughOpen s then ⟨.o0, none⟩ else ⟨strayTo, some .noRoute⟩
        | _, _ => if throughOpen s then ⟨.o0, none⟩ else ⟨strayTo, some (unresolvedReason b)⟩

/-! ## Writing an outcome -/

/-- R82, step 3; R89: the outcome written into the record and its decision state. -/
def writeOutcome (oc : Outcome) (b : BagRecord) : BagRecord :=
  let b1 := setChosen oc.outlet { b with tracking := .decided, decision := ⟨some oc.outlet, oc.assigned, oc.assigned.isSome⟩ }
  match oc.assigned with
  | none => b1
  | some r => { b1 with reason := some r, flags := { b1.flags with stray := true } }

/-- R89: the disposition of a bag sent to the exception outlet. -/
def exceptionDisposition (s : State) : Disposition :=
  if isTerminal s (cfg s).exceptionOutlet then .exceptionOutlet else .forwardedFlagged

/-- R89: the stray record of an outcome with an assigned reason, unless the previous outcome was the exception outlet. -/
def strayOfOutcome (oc : Outcome) (previous : Option Outlet) (b : BagRecord) (s : State) : State :=
  match oc.assigned with
  | none => s
  | some r =>
    if previous = some (cfg s).exceptionOutlet then s else handStray (bagStray b r (exceptionDisposition s)) s

/-- R83: pass counting at a loop head, for a record from a source marked loop-return; the count saturates at 7. -/
def countPass (s : State) (b : BagRecord) : BagRecord :=
  if (cfg s).loopHead ∧ (cfg s).sources.any (fun x => decide (x.station = b.source) && x.loopReturn) = true then
    { b with passCount := min 7 (b.passCount + 1) }
  else b

/-- R82: the decision of the record in a slot when its decision position is reached. -/
def decideBag (slot : Nat) (s : State) : State :=
  match findBag s slot with
  | none => s
  | some b0 =>
    if isDecided b0 then s
    else
      let b := countPass s b0
      let oc := decideLines s b
      let s1 := updateBag slot (fun _ => writeOutcome oc b) s
      let s2 := strayOfOutcome oc b.decision.outlet b s1
      handChosen slot (schedule slot oc.outlet s2)

/-! ## Re-decision -/

/-- R92, same outlet: the reasons become those of the new outcome at the exception outlet; elsewhere stray set here is
no. -/
def keepOutcome (s : State) (oc : Outcome) (b : BagRecord) : BagRecord :=
  if oc.outlet = (cfg s).exceptionOutlet then
    match oc.assigned with
    | none => { b with decision := { b.decision with assigned := none } }
    | some r => { b with reason := some r, decision := { b.decision with assigned := some r } }
  else { b with decision := { b.decision with straySet := false } }

/-- R93, step 1: what this node's earlier decision wrote is taken back. -/
def clearOwnStray (b : BagRecord) : BagRecord :=
  if b.decision.straySet then { b with flags := { b.flags with stray := false }, reason := none } else b

/-- R93: a re-decision that names a different outlet is taken. -/
def takeRedecision (oc : Outcome) (b : BagRecord) (s : State) : State :=
  let s1 := updateBag b.slot (fun x => writeOutcome oc (clearOwnStray x)) s
  let s2 := strayOfOutcome oc b.decision.outlet b s1
  handChosen b.slot (reschedule b.slot b.chosen oc.outlet s2)

/-- R95: a re-decision of a bag whose window has fired is refused; OVERRIDE_LATE is set, with one event when it is new. -/
def refuseRedecision (b : BagRecord) (s : State) : State :=
  let s1 := updateBag b.slot (fun x => { x with flags := { x.flags with overrideLate := true } }) s
  if b.flags.overrideLate then s1 else countEvent .overrideLate s1

/-- R92, R95: the re-decision of the record in a slot. -/
def redecide (slot : Nat) (s : State) : State :=
  match findBag s slot with
  | none => s
  | some b =>
    match b.tracking with
    | .decided =>
      let oc := decideLines s b
      if b.decision.outlet = some oc.outlet then updateBag slot (keepOutcome s oc) s else takeRedecision oc b s
    | .diverting | .releasedUnconfirmed =>
      if b.decision.outlet = some (decideLines s b).outlet then s else refuseRedecision b s
    | .entering | .onBelt | .diverted => s

/-- R90: every decided record, in queue order. -/
def redecideAll (s : State) : State := (segmentSlots s).foldl (fun acc slot => redecide slot acc) s

/-! ## The route table -/

/-- R96: an outlet counts in the advertised reach. -/
def advertises (s : State) (o : Outlet) (r : RouteRow) : Bool :=
  decide (o ≠ (cfg s).exceptionOutlet) &&
    match r.kind with
    | .terminal => !r.closed
    | .peer => !peerDown s r.peer

/-- R96: the advertised reach. -/
def reachNow (s : State) : DestSet :=
  allOutlets.foldl (fun acc o =>
    match row s o with
    | none => acc
    | some r => if advertises s o r then acc ||| effectiveReach r else acc) 0

/-- R79, step 2; R96: the advertised reach is recomputed, and handed to the Flow Controller when it differs. -/
def recomputeReach (s : State) : State :=
  let reach := reachNow s
  if reach = s.routes.advertised then s
  else handReach reach { s with routes := { s.routes with advertised := reach } }

/-- R79: what a route table change does once its fields are written (the gates follow the fields at once, log 14). -/
def routeChanged (s : State) : State := redecideAll (recomputeReach (refreshGates s))

/-- R136: the closed field of a terminal outlet is written; a write that leaves it as it was is no change. -/
def putClosed (o : Outlet) (closed : Bool) (s : State) : State :=
  if (row s o).any (fun r => decide (r.closed ≠ closed)) then routeChanged (updateRow o (fun r => { r with closed := closed }) s)
  else s

/-- An outlet is PEER with a station as its peer. -/
def namesPeer (s : State) (station : Byte) (o : Outlet) : Bool :=
  (row s o).any (fun r => decide (r.kind = .peer ∧ r.peer = station))

/-- Changes the row of every outlet that names a station as its peer. -/
def updatePeerRows (station : Byte) (f : RouteRow → RouteRow) (s : State) : State :=
  allOutlets.foldl (fun acc o => if namesPeer acc station o then updateRow o f acc else acc) s

/-- R140: the learned reach of every outlet that names a station. The rows of several such outlets are all written and are then
one route table change (DESIGN CHOICE, log 44). -/
def putLearned (station : Byte) (reach : DestSet) (s : State) : State :=
  if allOutlets.any (fun o => (row s o).any (fun r => decide (r.kind = .peer ∧ r.peer = station ∧ r.learned ≠ reach))) then
    routeChanged (updatePeerRows station (fun r => { r with learned := reach }) s)
  else s

/-- Changes the peer state kept for a station. -/
def updatePeer (station : Byte) (f : PeerState → PeerState) (s : State) : State :=
  { s with handoff := { s.handoff with
      peers := s.handoff.peers.map (fun p => if p.station = station then f p else p) } }

/-- R123: a frame from a peer in state DOWN brings it UP: its give-ups and learned reaches are reset, as one route table
change. -/
def peerHeard (station : Byte) (s : State) : State :=
  if acting s = true ∧ peerDown s station = true then
    routeChanged (updatePeerRows station (fun r => { r with learned := r.reach })
      (updatePeer station (fun p => { p with down := false, giveUps := 0 }) s))
  else s

/-- R122: the give-up count of a peer rises, holding at 3; at 3 an UP peer becomes DOWN, one route table change. -/
def peerGaveUp (station : Byte) (s : State) : State :=
  let s1 := updatePeer station (fun p => { p with giveUps := min Config.giveUpLimit (p.giveUps + 1) }) s
  let down := s1.handoff.peers.any (fun p => decide (p.station = station ∧ p.giveUps = Config.giveUpLimit) && !p.down)
  if down then routeChanged (updatePeer station (fun p => { p with down := true }) s1) else s1

/-- R80: the late set is written; a change re-decides every decided record. -/
def putLate (late : DestSet) (s : State) : State :=
  if late = s.routes.late then s else redecideAll { s with routes := { s.routes with late := late } }

end Sys2Proof.Machine
end

