-- ==== Sys2Proof/Machine/Cache.lean ====
section
/-! DEFINITION. The Route Cache and the Query Table: ranks (R59), lookup (R60, R61), installation (R62, R63), queries and
their waiters (R64 to R69), offers from ANSWER, HANDOFF and UPDATE (R70 to R74), epochs (R75, R76). -/

namespace Sys2Proof.Machine

/-! ## Sets and ranks (R58, R59) -/

/-- The set a plate may stand in. -/
def setOf (plate : Nat) : Nat := plate % Config.cacheSets

def getSet (s : State) (i : Nat) : List Way := s.cache.sets.getD i emptySet

def putSet (i : Nat) (w : List Way) (s : State) : State := { s with cache := { s.cache with sets := s.cache.sets.set i w } }

/-- A way holds a plate. -/
def wayHolds (plate : Nat) (w : Way) : Bool := w.entry.any (fun e => decide (e.plate = plate))

/-- A way is valid and of another epoch. -/
def wayOld (epoch : Byte) (w : Way) : Bool := w.entry.any (fun e => decide (e.epoch ≠ epoch))

/-- R59, Touch: the way at an index takes rank 0, ways of lower rank rise by 1. -/
def touch (i : Nat) (ways : List Way) : List Way :=
  match ways[i]? with
  | none => ways
  | some w => ways.mapIdx (fun j x =>
      if j = i then { x with rank := 0 } else if x.rank < w.rank then { x with rank := x.rank + 1 } else x)

/-- R59, Empty: the way at an index is emptied and takes rank 3, ways of higher rank fall by 1. -/
def emptyWay (i : Nat) (ways : List Way) : List Way :=
  match ways[i]? with
  | none => ways
  | some w => ways.mapIdx (fun j x =>
      if j = i then { rank := 3, entry := none } else if w.rank < x.rank then { x with rank := x.rank - 1 } else x)

/-- R63: an entry is written into the way at an index, which is touched. -/
def writeWay (i : Nat) (e : CacheEntry) (ways : List Way) : List Way :=
  touch i (ways.modify i (fun w => { w with entry := some e }))

/-- The index of the way that satisfies a test and has the highest rank. -/
def highestRank (test : Way → Bool) (ways : List Way) : Option Nat :=
  [3, 2, 1, 0].findSome? (fun r => ways.findIdx? (fun w => test w && w.rank == r))

/-- R63: the way chosen for a plate that no way of the set holds: the lowest empty way, else the old-epoch way of highest
rank, else the way of rank 3. -/
def chooseWay (epoch : Byte) (ways : List Way) : Option Nat :=
  match ways.findIdx? (fun w => w.entry.isNone) with
  | some i => some i
  | none =>
    match highestRank (wayOld epoch) ways with
    | some i => some i
    | none => ways.findIdx? (fun w => w.rank == 3)

/-- R63: an installed offer is written into its set. -/
def installInSet (epoch : Byte) (e : CacheEntry) (ways : List Way) : List Way :=
  match ways.findIdx? (wayHolds e.plate) with
  | some i =>
    match (ways[i]?).bind Way.entry with
    | some old => if newer e.part.revision old.part.revision || decide (old.epoch ≠ epoch) then writeWay i e ways else ways
    | none => ways
  | none =>
    match chooseWay epoch ways with
    | some i => writeWay i e ways
    | none => ways

/-- R81: the interest mask, the union of the configured reaches. -/
def interestMask (c : JunctionConfig) : DestSet :=
  allOutlets.foldl (fun acc o =>
    match c.outlets.get o with
    | none => acc
    | some x => acc ||| x.reach) 0

/-- R62: an offer is considered for installation; `requested` says that it was requested here. -/
def considerOffer (e : CacheEntry) (requested : Bool) (s : State) : State :=
  if e.epoch = s.cache.epoch ∧ (requested = true ∨ (interestMask (cfg s)).getLsbD e.part.destination = true) then
    putSet (setOf e.plate) (installInSet s.cache.epoch e (getSet s (setOf e.plate))) s
  else s

/-! ## The Query Table (R64 to R68) -/

/-- The entry for a plate. -/
def queryFor (plate : Nat) (s : State) : Option QueryEntry := s.queries.find? (fun q => decide (q.plate = plate))

/-- Changes the entry for a plate. -/
def updateQuery (plate : Nat) (f : QueryEntry → QueryEntry) (s : State) : State :=
  { s with queries := s.queries.map (fun q => if q.plate = plate then f q else q) }

/-- Retires the entry for a plate. -/
def retireQuery (plate : Nat) (s : State) : State :=
  { s with queries := s.queries.filter (fun q => decide (q.plate ≠ plate)) }

/-- Offers a QUERY frame for a plate to the manifest group. -/
def sendQuery (plate : Nat) (s : State) : State := offer 126 (.query (BitVec.ofNat 40 plate)) s

/-- R65: a live record leaves every waiter list; an entry without waiters retires at once. -/
def leaveWaiters (l : Live) (s : State) : State :=
  let without := s.queries.map (fun q => { q with waiters := q.waiters.filter (fun w => decide (w ≠ l)) })
  { s with queries := without.filter (fun q => !q.waiters.isEmpty) }

/-- A live record stands on a waiter list. -/
def waits (l : Live) (s : State) : Bool := s.queries.any (fun q => q.waiters.contains l)

/-- R65: a record takes the place of another on a waiter list. -/
def takeWaiterPlace (old new : Live) (s : State) : State :=
  { s with queries := s.queries.map (fun q => { q with waiters := q.waiters.map (fun w => if w = old then new else w) }) }

/-- R61, R67: a record becomes UNRESOLVED, with one query failures event. -/
def failLive (l : Live) (s : State) : State := countEvent .queryFailures (setStatus l .unresolved s)

/-- R61: a miss hands the record to the Query Table. -/
def queryMiss (l : Live) (plate : Nat) (s : State) : State :=
  match queryFor plate s with
  | some q =>
    if q.waiters.length < Config.queryWaiters then
      setStatus l .awaitingAnswer (updateQuery plate (fun q => { q with waiters := q.waiters ++ [l] }) s)
    else failLive l s
  | none =>
    if s.loader.node = .duplicate then failLive l s
    else if s.queries.length < Config.queryEntries then
      sendQuery plate (setStatus l .awaitingAnswer
        { s with queries := s.queries ++ [⟨plate, 1, s.time + Config.queryDeadline, [l]⟩] })
    else failLive l s

/-- R60, R66, R90: of the live records that an event has given a manifest part, the decided bag records are re-decided in
segment queue order, each re-decision complete before the next, once all have their part (DESIGN CHOICE, log 35). -/
def redecideServed (served : List Live) (s : State) : State :=
  ((s.tracker.segment.filter (fun b => isDecided b && served.contains (.bag b.slot))).map BagRecord.slot).foldl
    (fun acc slot => redecide slot acc) s

/-- R60: a current way of the cache that holds a plate. -/
def cacheHit (plate : Nat) (s : State) : Option (Nat × CacheEntry) :=
  let ways := getSet s (setOf plate)
  match ways.findIdx? (wayHolds plate) with
  | none => none
  | some i =>
    match (ways[i]?).bind Way.entry with
    | none => none
    | some e => if e.epoch = s.cache.epoch then some (i, e) else none

/-- R60: a lookup for a live record; one that does not meet the conditions makes none. A hit on a decided record, for which only
a claim asks it, re-decides the record (R90). -/
def lookup (l : Live) (s : State) : State :=
  match viewLive s l with
  | none => s
  | some v =>
    if v.plate ≠ 0 ∧ v.part = none ∧ v.status = .pending ∧ acting s = true then
      match cacheHit v.plate s with
      | some (i, e) =>
        let s1 := { s with cache := { s.cache with hits := s.cache.hits + 1 } }
        let s2 := putSet (setOf v.plate) (touch i (getSet s1 (setOf v.plate))) s1
        redecideServed [l] (copyPart l e.part s2)
      | none => queryMiss l v.plate { s with cache := { s.cache with misses := s.cache.misses + 1 } }
    else s

/-- R66: live records are served with a manifest part, one after another. -/
def serveLives (part : ManifestPart) (ls : List Live) (s : State) : State :=
  ls.foldl (fun acc l => copyPart l part acc) s

/-- The waiters of the entry for a plate, in list order. -/
def waitersFor (plate : Nat) (s : State) : List Live := ((queryFor plate s).map QueryEntry.waiters).getD []

/-- R66: the entry for a plate is served, each waiter in list order, and retires. -/
def serveQuery (plate : Nat) (part : ManifestPart) (s : State) : State :=
  serveLives part (waitersFor plate s) (retireQuery plate s)

/-- R67: the entry for a plate is failed; each waiter in list order. -/
def failQuery (plate : Nat) (s : State) : State :=
  match queryFor plate s with
  | none => s
  | some q => q.waiters.foldl (fun acc l => failLive l acc) (retireQuery plate s)

/-- R68, R69: an attempt of the entry for a plate ends unanswered: a second QUERY, or failure. -/
def attemptEnds (plate : Nat) (s : State) : State :=
  match queryFor plate s with
  | none => s
  | some q =>
    if q.attempts = 1 then
      sendQuery plate (updateQuery plate (fun q =>
        { q with attempts := 2, deadline := s.time + Config.queryDeadline }) s)
    else failQuery plate s

/-- R68: the deadline of the entry for a plate passes; in DUPLICATE it is failed at once. -/
def deadlinePasses (plate : Nat) (s : State) : State :=
  if s.loader.node = .duplicate then failQuery plate s else attemptEnds plate s

/-! ## Offers from frames -/

/-- The live records, bag records in queue order and then expected entries in list order (R70, R74). -/
def liveRecords (s : State) : List Live :=
  (segmentSlots s).map Live.bag ++ s.handoff.expected.map (fun e => Live.entry e.source e.id)

/-- The live records that hold a plate and pass a test, in the order of `liveRecords` (R70, R74). -/
def livesHolding (plate : Nat) (test : LiveView → Bool) (s : State) : List Live :=
  (liveRecords s).filter (fun l => (viewLive s l).any (fun v => decide (v.plate = plate) && test v))

/-- R70, step 2: an ANSWER is applied to UNRESOLVED records. -/
def answerApplies (v : LiveView) : Bool := decide (v.status = .unresolved)

/-- R70: an ANSWER of kind found: the waiters are served, then the UNRESOLVED records; then the offer. -/
def answerFound (plate : Nat) (part : ManifestPart) (epoch : Byte) (s : State) : State :=
  let requested := (queryFor plate s).isSome
  let s1 := serveQuery plate part s
  let unresolved := livesHolding plate answerApplies s1
  considerOffer ⟨plate, part, epoch⟩ requested
    (redecideServed (waitersFor plate s ++ unresolved) (serveLives part unresolved s1))

/-- R71: the waiters that a HANDOFF's offer for a plate serves; with plate 0 it makes none. -/
def offerWaiters (plate : Nat) (s : State) : List Live := if plate = 0 then [] else waitersFor plate s

/-- R71: a manifest part carried by a HANDOFF, offered for a plate with the current epoch. `requested` says that a query
entry for the plate existed when the frame was received (R62). -/
def handoffOffer (plate : Nat) (part : ManifestPart) (requested : Bool) (s : State) : State :=
  if plate = 0 then s
  else
    let s1 := serveQuery plate part s
    considerOffer ⟨plate, part, s1.cache.epoch⟩ requested s1

/-- R74: an UPDATE changes a live record that holds an older revision, or is UNRESOLVED. -/
def updateApplies (part : ManifestPart) (v : LiveView) : Bool :=
  match v.status, v.part with
  | .resolved, some p => newer part.revision p.revision
  | .resolved, none => false
  | .unresolved, _ => true
  | .pending, _ => false
  | .awaitingAnswer, _ => false

/-- R72 to R74: an UPDATE: the waiters are served, then the offer, then the live records it changes. -/
def applyUpdate (plate : Nat) (part : ManifestPart) (epoch : Byte) (s : State) : State :=
  let requested := (queryFor plate s).isSome
  let s1 := considerOffer ⟨plate, part, epoch⟩ requested (serveQuery plate part s)
  let changed := livesHolding plate (updateApplies part) s1
  redecideServed (waitersFor plate s ++ changed) (serveLives part changed s1)

/-! ## Epochs (R75, R76) -/

/-- R75, step 2: a query entry whose plate now stands in a valid way of the current epoch is served from it. -/
def serveFromCache (plate : Nat) (s : State) : State :=
  match cacheHit plate s with
  | none => s
  | some (_, e) => serveQuery plate e.part s

/-- R75: an EPOCH with another number. The entries that step 2 serves are taken in the order of the table, in which R75
gives none (DESIGN CHOICE, log 35). A decided waiter served so is re-decided by R66 and R90, though R75 says that no record is
re-decided by an EPOCH (DESIGN CHOICE, log 49). -/
def newEpoch (e : Byte) (s : State) : State :=
  let s1 := { s with cache := { s.cache with epoch := e } }
  let hits := s1.queries.filter (fun q => (cacheHit q.plate s1).isSome)
  let s2 := (hits.map QueryEntry.plate).foldl (fun acc p => serveFromCache p acc) s1
  let s3 := redecideServed (hits.flatMap QueryEntry.waiters) s2
  { s3 with cache := { s3.cache with walk := some 0 } }

/-- R76: the old-epoch ways of a set are emptied one after another in order of way number. -/
def sweepSet (epoch : Byte) (ways : List Way) : List Way :=
  (List.range ways.length).foldl (fun acc i => if (acc[i]?).any (wayOld epoch) then emptyWay i acc else acc) ways

/-- R76: one step of the epoch walk. -/
def walkStep (s : State) : State :=
  match s.cache.walk with
  | none => s
  | some i =>
    let s1 := putSet i (sweepSet s.cache.epoch (getSet s i)) s
    { s1 with cache := { s1.cache with walk := if i + 1 < Config.cacheSets then some (i + 1) else none } }

/-- R77: the number of valid ways. -/
def validWays (s : State) : Nat := ((s.cache.sets.flatten).filter (fun w => w.entry.isSome)).length

end Sys2Proof.Machine
end

