-- ==== Sys2Proof/Machine/Reader.lean ====
section
/-! DEFINITION. The Tag Reader Link and identity resolution: requests (R42, R43), replies and timeouts (R44 to R48),
delivery of a read result (R49), resolution (R50, R52, R53), duplicate checks (R51, R129). -/

namespace Sys2Proof.Machine

/-! ## Duplicate checks (R51, R129) -/

/-- Sets DUPLICATE on a live record. -/
def markDuplicate (l : Live) (s : State) : State :=
  match l with
  | .bag slot => updateBag slot (fun b => { b with flags := withDuplicate b.flags }) s
  | .entry source id => updateEntry source id (fun e => { e with flags := withDuplicate e.flags }) s

/-- R51, R129: a live record that has gained a nonzero plate is compared with every other live record that holds it; of
each pair the one created later gains DUPLICATE. -/
def duplicateCheck (self : Live) (s : State) : State :=
  match viewLive s self with
  | none => s
  | some v =>
    if v.plate = 0 then s
    else
      ((liveRecords s).filter (fun l => decide (l ≠ self))).foldl (fun acc l =>
        match viewLive acc l with
        | none => acc
        | some w =>
          if w.plate = v.plate then markDuplicate (if v.created < w.created then l else self) acc else acc) s

/-! ## Identity resolution -/

/-- R50: identity ANNOUNCED with plate 0 becomes UNIDENTIFIED. -/
def asBefore (b : BagRecord) : BagRecord :=
  if b.identity = .announced ∧ b.plate = 0 then { b with identity := .unidentified } else b

/-- R50: a timely read result on a record; an announcement of plate 0 counts as none. -/
def timelyRecord (r : ReadResult) (b : BagRecord) : BagRecord :=
  match r with
  | .noRead => if b.plate = 0 then { b with identity := .unidentified } else { b with identity := .announced }
  | .one p =>
    if b.plate = 0 then { b with plate := p, identity := .read }
    else if b.plate = p then { b with identity := .confirmed }
    else { b with identity := .announced, flags := { b.flags with mismatch := true } }
  | .several _ => { asBefore b with flags := { b.flags with ambiguous := true } }

/-- R52: the disposition of a late stray, by the record's chosen outlet. -/
def lateDisposition (s : State) (b : BagRecord) : Disposition :=
  match b.chosen with
  | none => .uncertain
  | some o =>
    if (peerOf s o).isSome then .forwardedFlagged
    else if o = (cfg s).exceptionOutlet then .exceptionOutlet
    else .uncertain

/-- R52: a late read makes a record a stray: STRAY is set, the reason when the record has none, and a stray record is made. A
second late stray record is never made for one record (R52, R53), and a late read that makes none sets no STRAY (DEDUCED,
log 29). Where a decision here had set STRAY before, the flag goes on counting as set here at a re-decision (DESIGN CHOICE,
log 36). -/
def lateStray (slot : Nat) (reason : StrayReason) (s : State) : State :=
  match findBag s slot with
  | none => s
  | some b =>
    if b.lateStrayMade then s
    else
      handStray (bagStray b reason (lateDisposition s b)) (updateBag slot (fun b =>
        { b with flags := { b.flags with stray := true }, reason := some (b.reason.getD reason), lateStrayMade := true }) s)

/-- R52: a late read result on the record in a slot. -/
def resolveLate (slot : Nat) (r : ReadResult) (s : State) : State :=
  match findBag s slot with
  | none => s
  | some b =>
    match r with
    | .noRead => s
    | .one p =>
      if b.plate = 0 then
        duplicateCheck (.bag slot) (updateBag slot (fun b => { b with plate := p, identity := .read }) s)
      else if b.plate = p then
        updateBag slot (fun b => if b.identity = .announced then { b with identity := .confirmed } else b) s
      else lateStray slot .mismatch (updateBag slot (fun b => { b with flags := { b.flags with mismatch := true } }) s)
    | .several _ =>
      lateStray slot .ambiguous (updateBag slot (fun b => { b with flags := { b.flags with ambiguous := true } }) s)

/-- R50, R51: a timely read result on the record in a slot, with the duplicate check of a plate it gains. -/
def resolveTimely (slot : Nat) (r : ReadResult) (s : State) : State :=
  let s1 := updateBag slot (timelyRecord r) s
  if (findBag s1 slot).map BagRecord.plate = (findBag s slot).map BagRecord.plate then s1
  else duplicateCheck (.bag slot) s1

/-- R53: resolution applied again between a claimed plate and the held read result; with nothing held it waits. -/
def resolveAgain (slot : Nat) (s : State) : State :=
  match findBag s slot with
  | none => s
  | some b =>
    match b.held with
    | none => s
    | some r => if isDecided b then resolveLate slot r s else resolveTimely slot r s

/-! ## Delivery (R49) -/

/-- R49, step 4; R156: the plates of a read result are checked against the watch list, in the order in which they first stand
in the reply; neither rule gives an order of the plates, nor of their FOUND frames (DESIGN CHOICE, log 38). -/
def watchPlates (slot : Nat) (plates : List Nat) (s : State) : State :=
  plates.foldl (fun acc p => watchCheck p .belt ((findBag acc slot).bind sightedOutlet) acc) s

/-- R49: a read result reaches the record in a slot; none occupies it when the record has left. -/
def deliver (slot : Nat) (r : ReadResult) (s : State) : State :=
  match findBag s slot with
  | none => s
  | some b =>
    let s1 := updateBag slot (fun b => { b with held := some r }) s
    let s2 := if isDecided b then resolveLate slot r s1 else resolveTimely slot r s1
    let s3 := watchPlates slot (resultPlates r) s2
    let s4 := if r = .noRead then countEvent .noReadResults s3 else s3
    if isDecided b then s4 else lookup (.bag slot) s4

/-! ## Requests -/

/-- A change of the link alone. -/
def onReader (f : ReaderLink → ReaderLink) (s : State) : State := { s with reader := f s.reader }

/-- R41, R42: a request is sent under the next request number; the read timer starts and the idle timer stops. -/
def sendRequest (a : Asked) (r : ReaderLink) : ReaderLink :=
  { r with number := r.number + 1, outstanding := some ⟨r.number + 1, a, Config.readTimeout⟩, idle := none }

/-- R43: the outstanding request has ended; the oldest queued one is sent, or the link becomes IDLE. -/
def endRequest (r : ReaderLink) : ReaderLink :=
  match r.down, r.queue with
  | false, slot :: rest => sendRequest (.read (some slot)) { r with queue := rest }
  | _, _ => { r with outstanding := none, idle := some Config.idleTime }

/-- R42: the reader position of a record is reached. -/
def readerReached (slot : Nat) (s : State) : State :=
  if (cfg s).readerPresent = false ∨ s.reader.down = true then deliver slot .noRead s
  else if s.reader.outstanding.isNone then onReader (sendRequest (.read (some slot))) s
  else if s.reader.queue.length < Config.readQueue then onReader (fun r => { r with queue := r.queue ++ [slot] }) s
  else deliver slot .noRead s

/-- R44, R46, R48: any reply sets the miss count to 0 and clears READER_DOWN. -/
def readerAnswers (r : ReaderLink) : ReaderLink := { r with misses := 0, down := false }

/-- R45, R46: the miss count rises, holding at 3. -/
def countMiss (r : ReaderLink) : ReaderLink := { r with misses := min Config.missLimit (r.misses + 1) }

/-- R47: READER_DOWN is set when the count has reached 3 and it was clear; the queue is flushed with NO_READ, oldest
first. -/
def checkDown (s : State) : State :=
  if s.reader.misses = Config.missLimit ∧ s.reader.down = false then
    s.reader.queue.foldl (fun acc slot => deliver slot .noRead acc) (onReader (fun r => { r with down := true, queue := [] }) s)
  else s

/-- R44: a READ reply that answers the outstanding request. -/
def readAnswered (slot : Option Nat) (r : ReadResult) (s : State) : State :=
  let s1 := onReader readerAnswers s
  onReader endRequest (match slot with
    | none => s1
    | some i => deliver i r s1)

/-- R45: the read timer of an outstanding READ runs out. -/
def readMissed (slot : Option Nat) (s : State) : State :=
  let s1 := onReader countMiss s
  onReader endRequest (checkDown (match slot with
    | none => s1
    | some i => deliver i .noRead s1))

/-- R48: a record has left the segment queue: its queued request goes, an outstanding one loses its record. The held read
result leaves with the record. -/
def readerLeft (slot : Nat) (r : ReaderLink) : ReaderLink :=
  { r with queue := r.queue.filter (fun i => decide (i ≠ slot)),
           outstanding := r.outstanding.map (fun o => if o.asked = .read (some slot) then { o with asked := .read none } else o) }

end Sys2Proof.Machine
end

