-- ==== Sys2Proof/Machine/Handoff.lean ====
section
/-! DEFINITION. The Handoff Controller: outgoing handoffs (R119 to R122), the expected list and its entries (R124 to
R129), arrival matching (R130, R131), claims (R132) and missing entries (R133). -/

namespace Sys2Proof.Machine

/-! ## Outgoing handoffs -/

/-- A departure whose handoff to a peer under an id is open. -/
def awaits (peer id : Byte) (d : Departure) : Bool :=
  decide (d.peer = peer ∧ d.id = some id ∧ d.state = .awaitingAccept)

/-- R30: the history looked up by handoff id and peer station. -/
def openDeparture (peer id : Byte) (s : State) : Option Departure := s.tracker.history.find? (awaits peer id)

/-- Changes the departure whose handoff is open. -/
def updateDeparture (peer id : Byte) (f : Departure → Departure) (s : State) : State :=
  { s with tracker := { s.tracker with history := s.tracker.history.map (fun d => if awaits peer id d then f d else d) } }

/-- R119: an attempt: it counts, offers the stored payload tagged with its number, and starts the answer wait. -/
def makeAttempt (peer id : Byte) (s : State) : State :=
  match openDeparture peer id s with
  | none => s
  | some d =>
    match d.outgoing with
    | none => s
    | some g =>
      offerFrame ⟨peer, .handoff g.payload, d.attempts + 1⟩ (updateDeparture peer id (fun d =>
        { d with attempts := d.attempts + 1, outgoing := some ⟨g.payload, .answer Config.answerWait⟩ }) s)

/-- R122: a handoff to a peer has ended as GAVE_UP: the total, the event and the peer's give-up count. -/
def countGiveUp (peer : Byte) (s : State) : State :=
  peerGaveUp peer (countEvent .handoffGiveUps { s with handoff := { s.handoff with giveUps := s.handoff.giveUps + 1 } })

/-- R120: the attempt in progress ends unanswered, if its answer wait runs. -/
def attemptUnanswered (peer id : Byte) (s : State) : State :=
  match openDeparture peer id s with
  | none => s
  | some d =>
    match d.outgoing with
    | some ⟨payload, .answer _⟩ =>
      if d.attempts < Config.attempts then
        updateDeparture peer id (fun d => { d with outgoing := some ⟨payload, .retry Config.retryDelay⟩ }) s
      else countGiveUp peer (updateDeparture peer id (fun d => { d with state := .gaveUp, outgoing := none }) s)
    | _ => s

/-- R120: the retry delay runs out; the next attempt is made. -/
def retryDelayOut (peer id : Byte) (s : State) : State :=
  match (openDeparture peer id s).bind Departure.outgoing with
  | some ⟨_, .retry _⟩ => makeAttempt peer id s
  | _ => s

/-- R120: an unsent report counts for the latest attempt only. -/
def handoffUnsent (peer id : Byte) (attempt : Nat) (s : State) : State :=
  match openDeparture peer id s with
  | none => s
  | some d => if d.attempts = attempt then attemptUnanswered peer id s else s

/-- R121: an ACCEPT from a peer ends the handoff it names. -/
def acceptTaken (peer id : Byte) (s : State) : State :=
  match openDeparture peer id s with
  | none => s
  | some _ =>
    updatePeer peer (fun p => { p with giveUps := 0 })
      (updateDeparture peer id (fun d => { d with state := .accepted, outgoing := none }) s)

/-- R30: a departure is written at the head of the ring; an overwritten open handoff has given up first. -/
def writeHistory (d : Departure) (s : State) : State :=
  let put := fun (t : State) => { t with tracker := { t.tracker with history := d :: t.tracker.history } }
  if s.tracker.history.length < Config.historySize then put s
  else
    let s1 := { s with tracker := { s.tracker with history := s.tracker.history.take (Config.historySize - 1) } }
    match s.tracker.history.getLast? with
    | none => put s1
    | some old => put (if old.state = .awaitingAccept then countGiveUp old.peer s1 else s1)

/-- What a departure sends on (R119). -/
structure Leaving where
  plate : Nat
  part : Option ManifestPart
  destination : Option Nat
  passCount : Nat
  flags : BagFlags
  length : Nat
  reason : Option StrayReason
  deriving DecidableEq, Repr

/-- R119: what a record sends on when it departs. -/
def leavingRecord (b : BagRecord) : Leaving :=
  { plate := b.plate, part := if b.status = .resolved then b.part else none, destination := bagDestination b,
    passCount := b.passCount, flags := b.flags, length := (b.length.orElse (fun _ => b.announced)).getD 0, reason := b.reason }

/-- R32: what an unknown object sends on. -/
def leavingUnknown : Leaving :=
  { plate := 0, part := none, destination := none, passCount := 0, flags := { stray := true }, length := 0,
    reason := some .unknownAtOutlet }

/-- R119: the HANDOFF payload. -/
def handoffPayload (id : Byte) (v : Leaving) : HandoffPayload :=
  { id := id, plate := BitVec.ofNat 40 v.plate, present := bit v.part.isSome 0,
    part := (v.part.map rawManifest).getD noManifestBytes, passCount := byteOf v.passCount, flags := flagsByte v.flags,
    length := BitVec.ofNat 16 v.length, reason := reasonByte v.reason }

/-- R29, R119: a departure through an outlet enters the history; through a PEER outlet it opens a handoff, attempt 1 of
which is made at once. -/
def enterHistory (o : Outlet) (v : Leaving) (s : State) : State :=
  let entry : Departure :=
    { plate := v.plate, outlet := o, destination := v.destination, time := seconds s, peer := 0, id := none, state := .none,
      attempts := 0, outgoing := none }
  match peerOf s o with
  | none => writeHistory entry s
  | some peer =>
    let id := s.handoff.nextId
    let s1 := { s with handoff := { s.handoff with nextId := id + 1 } }
    let stored : Outgoing := ⟨handoffPayload id v, .answer Config.answerWait⟩
    makeAttempt peer id
      (writeHistory { entry with peer := peer, id := some id, state := .awaitingAccept, outgoing := some stored } s1)

/-! ## The expected list -/

/-- R129: where a new entry stands: after every entry whose X is less than or equal to its own. -/
def insertEntry (e : ExpectedEntry) (l : List ExpectedEntry) : List ExpectedEntry :=
  let before := fun (x : ExpectedEntry) => decide (posDiff x.x e.x ≤ 0)
  l.takeWhile before ++ [e] ++ l.dropWhile before

/-- Takes an entry out of the list. -/
def removeEntry (source id : Byte) (s : State) : State :=
  { s with handoff := { s.handoff with
      expected := s.handoff.expected.filter (fun e => !decide (e.source = source ∧ e.id = id)) } }

/-- R133: the recent-missing ring takes a pair. -/
def enterMissing (source id : Byte) (s : State) : State :=
  { s with handoff := { s.handoff with
      recentMissing := ((source, id) :: s.handoff.recentMissing).take Config.recentMissing } }

/-- R133: the window end of an entry is reached unmatched. -/
def entryMissing (source id : Byte) (s : State) : State :=
  match findEntry s source id with
  | none => s
  | some e =>
    let s1 := occupancyFall (removeEntry source id s)
    let s2 := enterMissing source id (leaveWaiters (.entry source id) s1)
    let s3 := handStray { reason := .missing, disposition := .notPresent, plate := heldPlate e.plate,
                          destination := e.part.map ManifestPart.destination, related := heldStation source, slot := none } s2
    if e.plate = 0 then s3 else beginSearch e.plate s3.loader.station true s3

/-- R128, step 1: the entry a frame makes. -/
def newEntry (s : State) (x : SourceConfig) (f : HandoffFields) : ExpectedEntry :=
  { source := f.source, id := f.id, created := s.serial.creation, plate := f.plate, part := f.part,
    status := if f.part.isSome then .resolved else .pending, passCount := f.passCount, flags := f.flags, reason := f.reason,
    announced := f.announced, x := s.belt.d + mm x.leadIn, halfWidth := x.tolerance * 1000 }

/-- The window end of an entry. -/
def windowEndOf (e : ExpectedEntry) : Pos := e.x + um e.halfWidth

/-- A query entry for the frame's plate exists when the frame is received (R62). -/
def requestedHere (f : HandoffFields) (s : State) : Bool := (queryFor f.plate s).isSome

/-- The answer to a HANDOFF (R124). -/
def answerAccept (f : HandoffFields) (s : State) : State := offer f.source (.accept f.id) s

/-- R71: the part a frame carries for an expected entry is offered, on a resend too, whether or not the entry takes it; the
waiters it serves are re-decided. -/
def entryOffer (f : HandoffFields) (requested : Bool) (s : State) : State :=
  match f.part with
  | some p => redecideServed (offerWaiters f.plate s) (handoffOffer f.plate p requested s)
  | none => s

/-- R71, R60: a plate without a part makes no offer; it is looked up for the entry instead. -/
def entryLookup (f : HandoffFields) (s : State) : State :=
  if f.part.isSome then s else lookup (.entry f.source f.id) s

/-- R128: a new expected entry. -/
def makeEntry (x : SourceConfig) (f : HandoffFields) (s : State) : State :=
  let e := newEntry s x f
  let s1 := { s with serial := { s.serial with creation := s.serial.creation + 1 },
                     handoff := { s.handoff with expected := insertEntry e s.handoff.expected } }
  let s2 := offerPosition (.windowEnd f.source f.id) (windowEndOf e) (entryMissing f.source f.id) s1
  let s3 := duplicateCheck (.entry f.source f.id) (occupancyRise s2)
  answerAccept f (watchCheck f.plate .expected none (entryLookup f (entryOffer f (requestedHere f s) s3)))

/-- R125: the frame's part is taken when the entry holds none or an older one, also by a RESOLVED entry, which by R57 keeps its own but
for an UPDATE (DESIGN CHOICE, log 58). -/
def takesPart (f : HandoffFields) (e : ExpectedEntry) : Option ManifestPart :=
  match f.part, e.part with
  | some p, none => some p
  | some p, some q => if newer p.revision q.revision then some p else none
  | none, _ => none

/-- R125: an entry updated in place by a resend. A part it takes replaces the one of a RESOLVED entry (DESIGN CHOICE, log 58). -/
def updatedEntry (f : HandoffFields) (e : ExpectedEntry) : ExpectedEntry :=
  let e1 := { e with plate := f.plate, passCount := f.passCount, announced := f.announced, reason := f.reason,
                     flags := joinFlags e.flags f.flags }
  match takesPart f e with
  | some p => { e1 with part := some p, status := .resolved }
  | none => e1

/-- R65: a waiter whose plate has changed leaves its list; without a part it becomes PENDING, and a nonzero plate is looked
up. -/
def waiterMoved (l : Live) (s : State) : State :=
  match viewLive s l with
  | none => s
  | some v =>
    let s1 := leaveWaiters l s
    if v.status = .awaitingAnswer then lookup l (setStatus l .pending s1) else s1

/-- R125, R71: a resend whose pair an expected entry holds (the order: DEDUCED, log 31). An UNRESOLVED entry whose plate it changes
stays UNRESOLVED and is not looked up (DESIGN CHOICE, log 50). -/
def resendEntry (f : HandoffFields) (e : ExpectedEntry) (s : State) : State :=
  let l := Live.entry f.source f.id
  let s1 := updateEntry f.source f.id (updatedEntry f) s
  let s2 := if (takesPart f e).isSome then leaveWaiters l s1 else s1
  let s3 := entryOffer f (requestedHere f s) s2
  let s4 := if e.plate = f.plate then s3 else duplicateCheck l (waiterMoved l s3)
  answerAccept f (watchCheck f.plate .expected none (entryLookup f s4))

/-! ## Claims -/

/-- R126: the record a HANDOFF claims: the oldest CLAIMABLE one, when the source has no entry pending. -/
def claimTarget (f : HandoffFields) (s : State) : Option BagRecord :=
  if s.handoff.expected.any (fun e => decide (e.source = f.source)) then none
  else s.tracker.segment.find? (fun b => b.flags.claimable)

/-- R132, steps 1 and 2: the identity part a claim gives. -/
def claimedRecord (f : HandoffFields) (b : BagRecord) : BagRecord :=
  { b with plate := f.plate, identity := .announced, source := f.source, sourceId := some f.id, passCount := f.passCount,
           flags := { joinFlags b.flags f.flags with claimable := false }, reason := b.reason.orElse (fun _ => f.reason),
           announced := f.announced }

/-- R132, step 6: a claimed record with a nonzero plate that is not resolved and no longer waits is looked up, an UNRESOLVED one too,
which R57 lets only ANSWER and UPDATE serve (DESIGN CHOICE, log 58). -/
def claimLookup (slot : Nat) (s : State) : State :=
  match findBag s slot with
  | none => s
  | some b =>
    if b.plate = 0 ∨ b.status = .resolved ∨ b.status = .awaitingAnswer then s
    else lookup (.bag slot) (setStatus (.bag slot) .pending s)

/-- R132, step 3: the part the frame carries is offered as R71 states; its waiters are re-decided in step 8. -/
def claimOffer (f : HandoffFields) (requested : Bool) (s : State) : State :=
  match f.part with
  | some p => handoffOffer f.plate p requested s
  | none => s

/-- The waiters that the offer of step 3 serves. -/
def claimServed (f : HandoffFields) (s : State) : List Live := if f.part.isSome then offerWaiters f.plate s else []

/-- R132, step 8: pass counting on the claimed pass count of a decided record. -/
def claimCount (slot : Nat) (s : State) : State :=
  updateBag slot (fun b => if isDecided b then countPass s b else b) s

/-- R132, step 8, with R90: the claimed record and the waiters served in step 3, where decided, in queue order. Step 8 does not say
whether the pass counting of its event comes before or after the re-decision, and R85 reads the pass count: the model counts first,
so that RECIRC_LIMIT is judged on the counted value (DESIGN CHOICE, log 57). -/
def claimRedecide (slot : Nat) (served : List Live) (s : State) : State :=
  redecideServed (.bag slot :: served) (claimCount slot s)

/-- R132: a claim. The order inside steps 3 to 6 is DEDUCED (log 31). A cache hit of steps 4 and 6 re-decides a decided record
at once, on the pass count as claimed (DESIGN CHOICE, log 57), and step 8 again, on the counted one (DESIGN CHOICE, logs 35 and 57);
the check of step 7 reads the record as it then stands. Step 3 gives a RESOLVED record the frame's part, whatever its revision, where
by R57 it keeps its own but for an UPDATE (DESIGN CHOICE, log 58). -/
def claimRecord (f : HandoffFields) (b : BagRecord) (s : State) : State :=
  let l := Live.bag b.slot
  let s1 := updateBag b.slot (claimedRecord f) (withdraw (.claimEnd b.slot) s)
  let s2 := match f.part with
    | some p => leaveWaiters l (copyPart l p s1)
    | none => s1
  let s3 := claimOffer f (requestedHere f s) s2
  let s4 := if b.plate = f.plate then s3 else duplicateCheck l (waiterMoved l s3)
  let s5 := claimLookup b.slot (resolveAgain b.slot s4)
  let s6 := watchCheck f.plate .belt ((findBag s5 b.slot).bind sightedOutlet) s5
  answerAccept f (claimRedecide b.slot (claimServed f s2) s6)

/-! ## Receipt of a HANDOFF -/

/-- R125: the pair is held by a bag record or by the recent-missing ring. -/
def pairHeld (f : HandoffFields) (s : State) : Bool :=
  s.tracker.segment.any (fun b => decide (b.source = f.source ∧ b.sourceId = some f.id)) ||
    s.handoff.recentMissing.contains (f.source, f.id)

/-- R125 to R128: the first that applies. -/
def takeHandoff (x : SourceConfig) (f : HandoffFields) (s : State) : State :=
  match findEntry s f.source f.id with
  | some e => resendEntry f e s
  | none =>
    if pairHeld f s then answerAccept f s
    else
      match claimTarget f s with
      | some b => claimRecord f b s
      | none =>
        if s.handoff.expected.length < Config.expectedEntries then makeEntry x f s
        else offer f.source (.retry f.id) s

/-- The source block of a station. -/
def sourceOf (s : State) (station : Byte) : Option SourceConfig :=
  (cfg s).sources.find? (fun x => decide (x.station = station))

/-- R124: a HANDOFF is taken in JOINING and RUNNING, from a configured source. -/
def handoffTaken (source : Byte) (p : HandoffPayload) (s : State) : State :=
  if speaks s then
    match sourceOf s source with
    | none => s
    | some x => takeHandoff x (readHandoff source p) s
  else s

/-! ## Arrival matching -/

/-- R130: an entry is a candidate for an arrival at E. -/
def isCandidate (e : Pos) (x : ExpectedEntry) : Bool := decide ((posDiff e x.x).natAbs ≤ x.halfWidth)

/-- R130: of the candidates, the first of those with the smallest X. -/
def matchFor (e : Pos) (l : List ExpectedEntry) : Option ExpectedEntry :=
  (l.filter (isCandidate e)).foldl (fun best x =>
    match best with
    | none => some x
    | some y => if posDiff x.x y.x < 0 then some x else some y) none

/-- R130, step 1: the identity part of an entry. -/
def matchedRecord (e : ExpectedEntry) (b : BagRecord) : BagRecord :=
  { b with plate := e.plate, identity := .announced, source := e.source, sourceId := some e.id, part := e.part,
           status := e.status, passCount := e.passCount, reason := e.reason, announced := e.announced,
           flags := { b.flags with duplicate := e.flags.duplicate, mismatch := e.flags.mismatch,
                                   ambiguous := e.flags.ambiguous, stray := e.flags.stray } }

/-- R130, step 2: another live record than the entry's own holds the plate. -/
def plateElsewhere (plate slot : Nat) (source id : Byte) (s : State) : Bool :=
  plate != 0 && (liveRecords s).any (fun l =>
    decide (l ≠ .bag slot ∧ l ≠ .entry source id) && (viewLive s l).any (fun v => decide (v.plate = plate)))

/-- R131: the claim end of a record is reached. -/
def claimEnds (slot : Nat) (s : State) : State :=
  updateBag slot (fun b => { b with flags := { b.flags with claimable := false } }) s

/-- R131: a record with no candidate is CLAIMABLE up to its claim end; with Kc 0 the claim end has already been reached, and the
flag is cleared in the same event, wherever E lies. -/
def leaveUnannounced (slot : Nat) (e : Pos) (s : State) : State :=
  let s1 := updateBag slot (fun b => { b with flags := { b.flags with claimable := true } }) s
  if (cfg s).claimDistance = 0 then claimEnds slot (withdraw (.claimEnd slot) s1)
  else offerPosition (.claimEnd slot) (e + mm (cfg s).claimDistance) (claimEnds slot) s1

/-- R130: the matched entry becomes the record's identity part. -/
def matchEntry (slot : Nat) (x : ExpectedEntry) (s : State) : State :=
  let s1 := updateBag slot (matchedRecord x) s
  let s2 := if plateElsewhere x.plate slot x.source x.id s1 then markDuplicate (.bag slot) s1 else s1
  let s3 := takeWaiterPlace (.entry x.source x.id) (.bag slot) s2
  occupancyFall (withdraw (.windowEnd x.source x.id) (removeEntry x.source x.id s3))

/-- R130, R131: arrival matching of the new record in a slot. -/
def matchArrival (slot : Nat) (e : Pos) (s : State) : State :=
  match matchFor e s.handoff.expected with
  | some x => matchEntry slot x s
  | none => leaveUnannounced slot e s

end Sys2Proof.Machine
end

