-- ==== Sys2Proof/Machine/Tracker.lean ====
section
/-! DEFINITION. The Segment Tracker: arrivals (R20 to R22), trailing edges (R23 to R26), the jam point (R27), removal and
departure (R28, R29), the outlet eyes (R31 to R36), lost points (R37) and settlements (R38), confirm timers (R112). -/

namespace Sys2Proof.Machine

/-- A change of the counts and lists of the tracker alone. -/
def onTracker (f : Tracker → Tracker) (s : State) : State := { s with tracker := f s.tracker }

/-! ## Removal, loss and departure -/

/-- R17, R28: the queue without a slot; the entry floor becomes absent with the queue empty. -/
def dropRecord (slot : Nat) (t : Tracker) : Tracker :=
  let rest := t.segment.filter (fun b => decide (b.slot ≠ slot))
  { t with segment := rest, floor := if rest.isEmpty then none else t.floor }

/-- R28: the registrations that concern a record are withdrawn; the jam point is the open record's. -/
def withdrawRecord (slot : Nat) (s : State) : State :=
  let s1 := if (openRecord s).any (fun b => decide (b.slot = slot)) then withdraw .jamPoint s else s
  let s2 := withdraw (.claimEnd slot) (withdraw (.decisionPosition slot) (withdraw (.readerPosition slot)
    (withdraw (.lostPoint slot) s1)))
  allDiverters.foldl (fun acc k => withdraw (.passPosition k slot) acc) s2

/-- R28: a record leaves the queue. -/
def removeRecord (slot : Nat) (s : State) : State :=
  let s1 := onTracker (dropRecord slot) (withdrawRecord slot s)
  let s2 := leaveWaiters (.bag slot) (onReader (readerLeft slot) s1)
  stopperLeft slot (occupancyFall (bagLeft slot s2))

/-- R29: a record departs through an outlet. -/
def departRecord (o : Outlet) (b : BagRecord) (s : State) : State :=
  enterHistory o (leavingRecord b) (removeRecord b.slot (onTracker (fun t => { t with departed := t.departed + 1 }) s))

/-- R38: the stray record that settles a record carrying UNCERTAIN. -/
def settleUncertain (b : BagRecord) (s : State) : State :=
  if b.flags.uncertain then handStray (bagStray b .uncertain .uncertain) s else s

/-- R26, R37, R38: a record is lost. -/
def loseRecord (b : BagRecord) (reason : StrayReason) (disposition : Disposition) (s : State) : State :=
  handStray (bagStray b reason disposition)
    (removeRecord b.slot (onTracker (fun t => { t with lost := t.lost + 1 }) s))

/-- R37, R38: a record is declared LOST at its lost point. -/
def declareLost (b : BagRecord) (s : State) : State :=
  if b.flags.uncertain then loseRecord b .uncertain .uncertain s else loseRecord b .lost .notPresent s

/-- R37: the lost point of the record in a slot is reached. -/
def lostReached (slot : Nat) (s : State) : State :=
  match findBag s slot with
  | none => s
  | some b =>
    if b.tracking = .diverting ∧ b.confirm.isSome = true then
      updateBag slot (fun b => { b with lostPointPassed := true }) s
    else declareLost b s

/-- R112, R37: the confirm timer of the record in a slot expires. -/
def confirmExpires (slot : Nat) (s : State) : State :=
  match findBag s slot with
  | none => s
  | some b =>
    if b.tracking = .diverting ∧ b.confirm.isSome = true then
      let s1 := updateBag slot (fun b => { b with tracking := .releasedUnconfirmed, confirm := none }) s
      if b.lostPointPassed then declareLost b s1 else s1
    else s

/-! ## The entry eye -/

/-- R27: the jam point is reached. -/
def jamReached (s : State) : State := raiseHalting .jam s

/-- R27: a jam point is registered ahead of a position of the belt. -/
def putJamPoint (p : Pos) (s : State) : State := offerPosition .jamPoint (p + mm (cfg s).lJam) jamReached s

/-- R20: the entry position an edge gives: the entry floor when the edge does not lie past it. -/
def entryPosition (t : Tracker) (p : Pos) : Pos :=
  if t.segment.isEmpty then p
  else
    match t.floor with
    | none => p
    | some f => if 0 < posDiff p f then p else f

/-- R20: the gap ahead of a new record. -/
def gapAheadOf (t : Tracker) (e : Pos) : Option Int :=
  (t.segment.getLast?).bind (fun b => (trailingEnd b).map (fun p => posDiff e p))

/-- R20: the new record. -/
def newRecord (s : State) (e : Pos) : BagRecord :=
  { slot := freeSlot s, created := s.serial.creation, entry := e, gapAhead := gapAheadOf s.tracker e, tracking := .entering }

/-- R20: the new record joins the queue. -/
def joinQueue (b : BagRecord) (s : State) : State :=
  { s with serial := { s.serial with creation := s.serial.creation + 1 },
           tracker := { s.tracker with segment := s.tracker.segment ++ [b], entered := s.tracker.entered + 1 } }

/-- R21: the new record is handed on. -/
def handOn (b : BagRecord) (s : State) : State :=
  let c := cfg s
  let s1 := matchArrival b.slot b.entry s
  let s2 := offerPosition (.readerPosition b.slot) (b.entry + mm c.readerPosition) (readerReached b.slot) s1
  let s3 := offerPosition (.decisionPosition b.slot) (b.entry + mm c.decisionPosition) (decideBag b.slot) s2
  let s4 := countEvent .entries (occupancyRise s3)
  offerPosition (.lostPoint b.slot) (b.entry + mm (c.exitPosition + c.exitTolerance)) (lostReached b.slot) s4

/-- R20, R21: an arrival. -/
def arrival (p : Pos) (s : State) : State :=
  let b := newRecord s (entryPosition s.tracker p)
  handOn b (putJamPoint p (joinQueue b s))

/-- R22: a leading edge that finds the queue full. -/
def overrunArrival (p : Pos) (s : State) : State :=
  putJamPoint p (handStray { reason := .overrun, disposition := .unknownObject, plate := none, destination := none,
                             related := none, slot := none }
    (onTracker (fun t => { t with overrun := t.overrun + 1 }) s))

/-- R20, R22: an EYE_IN leading edge. -/
def entryLeading (p : Pos) (s : State) : State :=
  if s.tracker.segment.length < Config.segmentSlots then arrival p s else overrunArrival p s

/-- R24: the recorded length of a measured distance in micrometres. -/
def recordedLength (c : JunctionConfig) (distance : Int) : Nat := min c.lJam (max Config.minLength (distance.toNat / 1000))

/-- R17: the entry floor after a length has been closed. -/
def raiseFloor (trailing : Pos) (floor : Option Pos) : Option Pos :=
  match floor with
  | none => some trailing
  | some f => if 0 < posDiff trailing f then some trailing else some f

/-- R23, R24: the record once its length is closed. -/
def closedRecord (c : JunctionConfig) (len : Nat) (b : BagRecord) : BagRecord :=
  let tooLong := decide (c.lMax < len)
  { b with length := some len, overLength := b.overLength || tooLong, part := b.part.map (holdClass (b.overLength || tooLong)),
           tracking := if b.tracking = .entering then .onBelt else b.tracking }

/-- R24: the open record's length is closed. -/
def closeLength (b : BagRecord) (p : Pos) (s : State) : State :=
  let len := recordedLength (cfg s) (posDiff p b.entry)
  let s1 := updateBag b.slot (closedRecord (cfg s) len) s
  lengthKnown b.slot len (onTracker (fun t => { t with floor := raiseFloor (b.entry + mm len) t.floor }) s1)

/-- R24 to R26: an EYE_IN trailing edge; the jam point is withdrawn (R27). -/
def entryTrailing (p : Pos) (s : State) : State :=
  let s1 := withdraw .jamPoint s
  match openRecord s with
  | none => s1
  | some b => if 0 < posDiff p b.entry then closeLength b p s1 else loseRecord b .lost .notPresent s1

/-! ## The outlet eyes -/

/-- R32, R36: an unknown object at an outlet. -/
def unknownObject (o : Outlet) (s : State) : State :=
  let s1 := handStray { reason := .unknownAtOutlet, disposition := .unknownObject, plate := none, destination := none,
                        related := peerOf s o, slot := none } (onTracker (fun t => { t with unknown := t.unknown + 1 }) s)
  if (peerOf s o).isSome then enterHistory o leavingUnknown s1 else s1

/-- R31: the record a CFMk leading edge confirms. -/
def confirmable (s : State) (k : Diverter) : Option BagRecord :=
  s.tracker.segment.find? (fun b =>
    decide (b.tracking = .diverting ∧ b.chosen = some (outletOfDiverter k)) && b.confirm.isSome)

/-- R31, R32: a CFMk leading edge. -/
def chuteEdge (k : Diverter) (s : State) : State :=
  match confirmable s k with
  | none => unknownObject (outletOfDiverter k) s
  | some b =>
    departRecord (outletOfDiverter k) b
      (settleUncertain b (updateBag b.slot (fun b => { b with tracking := .diverted, confirm := none }) s))

/-- R33: the leading edge of a record lies in the exit window. -/
def inExitWindow (c : JunctionConfig) (p : Pos) (b : BagRecord) : Bool :=
  let d := posDiff p b.entry
  decide (((c.exitPosition : Int) - c.exitTolerance) * 1000 ≤ d ∧ d ≤ ((c.exitPosition : Int) + c.exitTolerance) * 1000)

/-- R33: the tracking states of the first tier. -/
def firstTier (b : BagRecord) : Bool :=
  match b.tracking with
  | .onBelt | .decided | .releasedUnconfirmed => true
  | .entering | .diverting | .diverted => false

/-- R33: the record an EYE_X0 leading edge matches. -/
def exitMatch (s : State) (p : Pos) : Option BagRecord :=
  match s.tracker.segment.find? (fun b => firstTier b && inExitWindow (cfg s) p b) with
  | some b => some b
  | none => s.tracker.segment.find? (fun b => decide (b.tracking = .diverting) && inExitWindow (cfg s) p b)

/-- R35: the disposition of a misroute. -/
def misrouteDisposition (s : State) (b : BagRecord) : Disposition :=
  if b.flags.uncertain then .uncertain
  else if (peerOf s .o0).isSome then .forwardedFlagged
  else if (cfg s).exceptionOutlet = .o0 then .exceptionOutlet
  else .uncertain

/-- R35: a misroute. -/
def misroute (b : BagRecord) (s : State) : State :=
  let reason : StrayReason := if b.flags.uncertain then .uncertain else .misrouted
  let b1 : BagRecord := { b with confirm := none, flags := { b.flags with stray := true }, reason := some reason }
  departRecord .o0 b1 (handStray (bagStray b reason (misrouteDisposition s b)) (updateBag b.slot (fun _ => b1) s))

/-- R33 to R36: an EYE_X0 leading edge. -/
def exitEdge (p : Pos) (s : State) : State :=
  match exitMatch s p with
  | none => unknownObject .o0 s
  | some b =>
    if b.tracking = .decided ∧ b.chosen = some .o0 then departRecord .o0 b (settleUncertain b s) else misroute b s

/-! ## Delivered edges (R19) -/

/-- A delivered leading edge; CONFIG_FAULT and LOADING discard it. -/
def leadingDelivered (e : Eye) (p : Pos) (s : State) : State :=
  if acting s then
    match e with
    | .entry => entryLeading p s
    | .exit => exitEdge p s
    | .confirm k => chuteEdge k s
  else s

/-- A delivered trailing edge; only EYE_IN's is acted on. -/
def trailingDelivered (e : Eye) (p : Pos) (s : State) : State :=
  if acting s then
    match e with
    | .entry => entryTrailing p s
    | .exit => s
    | .confirm _ => s
  else s

end Sys2Proof.Machine
end

