-- ==== Sys2Proof/Machine/Belt.lean ====
section
/-! DEFINITION. The Belt Distance Unit: eye edges and the chatter filter (R6, R7), encoder counts and the reports of
reached positions (R1, R4), the speed window (R5), emergency stop and clearing (R9, R15). -/

namespace Sys2Proof.Machine

/-! ## Photo-eyes -/

def eyeOf (s : State) : Eye → EyeState
  | .entry => s.belt.eyes.entry
  | .exit => s.belt.eyes.exit
  | .confirm k => s.belt.eyes.confirm.get k

/-- Changes one photo-eye of the five. -/
def Eyes.update (e : Eye) (f : EyeState → EyeState) (x : Eyes) : Eyes :=
  match e with
  | .entry => { x with entry := f x.entry }
  | .exit => { x with exit := f x.exit }
  | .confirm k => { x with confirm := x.confirm.set k (f (x.confirm.get k)) }

/-- A change of the Belt Distance Unit alone. -/
def onBeltUnit (f : Belt → Belt) (s : State) : State := { s with belt := f s.belt }

def updateEye (e : Eye) (f : EyeState → EyeState) (s : State) : State :=
  onBeltUnit (fun b => { b with eyes := b.eyes.update e f }) s

/-- R6: edges of an eye are followed: not during LOADING, and on EYE_IN not while JAM or STALL is in the set. -/
def followsEye (s : State) (e : Eye) : Bool :=
  decide (s.loader.node ≠ .loading) && !(decide (e = .entry) && jammed s)

/-- R7: the chatter filter has been passed. -/
def chatterPassed (d t : Pos) : Bool := decide (Config.chatter ≤ posDiff d t)

/-- R6: a leading edge is delivered at D when the delivered level is clear. -/
def deliverLeading (e : Eye) (s : State) : State :=
  if (eyeOf s e).delivered then s
  else leadingDelivered e s.belt.d (updateEye e (fun x => { x with delivered := true }) s)

/-- R7: a pending trailing edge is delivered with the position latched for it. -/
def deliverTrailing (e : Eye) (s : State) : State :=
  match (eyeOf s e).trailing with
  | none => s
  | some t => trailingDelivered e t (updateEye e (fun x => { x with trailing := none, delivered := false }) s)

/-- R6, R7: an eye becomes blocked. -/
def eyeBlocked (e : Eye) (s : State) : State :=
  let s1 := updateEye e (fun x => { x with present := true }) s
  if followsEye s e then
    match (eyeOf s e).trailing with
    | none => deliverLeading e s1
    | some t =>
      if chatterPassed s.belt.d t then deliverLeading e (deliverTrailing e s1)
      else updateEye e (fun x => { x with trailing := none }) s1
  else s1

/-- R7: an eye becomes clear. -/
def eyeCleared (e : Eye) (s : State) : State :=
  let s1 := updateEye e (fun x => { x with present := false }) s
  if followsEye s e = true ∧ (eyeOf s e).delivered = true then
    updateEye e (fun x => { x with trailing := some s.belt.d }) s1
  else s1

/-- R6: when LOADING ends each eye's present level becomes its delivered level. -/
def adoptLevels (x : Eyes) : Eyes :=
  let adopt := fun (e : EyeState) => { e with delivered := e.present, trailing := none }
  { entry := adopt x.entry, exit := adopt x.exit,
    confirm := ⟨adopt x.confirm.d1, adopt x.confirm.d2, adopt x.confirm.d3⟩ }

/-- R6, R27: EYE_IN is brought into agreement once JAM and STALL have both left; a new jam point is registered when the eye
is still blocked. -/
def resyncEntry (s : State) : State :=
  let e := s.belt.eyes.entry
  if e.present then (if e.delivered then putJamPoint s.belt.d s else deliverLeading .entry s)
  else if e.delivered then updateEye .entry (fun x => { x with trailing := some s.belt.d }) s
  else s

/-! ## Reports of reached positions (R4) -/

/-- The report of a registered position to its owner. -/
def reportPosition : Item → State → State
  | .readerPosition slot => readerReached slot
  | .decisionPosition slot => decideBag slot
  | .jamPoint => jamReached
  | .lostPoint slot => lostReached slot
  | .claimEnd slot => claimEnds slot
  | .windowEnd source id => entryMissing source id
  | .firePoint k window => fireWindow k window
  | .releasePoint k window => releaseWindow k window
  | .passPosition k slot => passReached k slot
  | .stopPosition o => latchGate o

def allOwners : List Owner :=
  [.readerLink, .routeSelector, .segmentTracker, .handoffController, .divertScheduler, .flowController]

/-- What a count has brought about and is yet to be delivered. -/
inductive Due where
  | position (r : Registration)
  /-- The pending trailing edge of EYE_IN has passed the chatter filter. -/
  | trailing
  deriving DecidableEq, Repr

/-- R4: of one owner's reached positions, the one first passed by D, the earlier registered of two equal ones. -/
def firstReached (d : Pos) (regs : List Registration) : Option Registration :=
  (regs.filter (fun r => reached d r.position)).foldl (fun best r =>
    match best with
    | none => some r
    | some b => if posDiff r.position b.position < 0 then some r else some b) none

/-- The owner whose reports at the very D of a count may come after a leading edge of that count: of EYE_IN the Handoff
Controller (R134), of an outlet eye the Segment Tracker (R37). -/
def edgeOwner : Eye → Owner
  | .entry => .handoffController
  | .exit | .confirm _ => .segmentTracker

/-- A registration whose report is held back for the leading edge that waits (log 40). -/
def heldBack (s : State) (r : Registration) : Bool :=
  s.belt.awaited.any (fun e => decide (itemOwner r.item = edgeOwner e ∧ r.position = s.belt.d))

/-- The next report of each owner, and the trailing edge of EYE_IN when it is due. -/
def dueNow (s : State) : List Due :=
  allOwners.filterMap (fun o =>
      (firstReached s.belt.d (s.belt.register.filter (fun r => decide (itemOwner r.item = o) && !heldBack s r))).map
        Due.position) ++
    (if s.belt.eyes.entry.trailing.any (chatterPassed s.belt.d) then [Due.trailing] else [])

/-- Delivers one report: the registration is removed and its owner told (R3). -/
def deliverDue (x : Due) (s : State) : State :=
  match x with
  | .position r => reportPosition r.item (withdraw r.item s)
  | .trailing => deliverTrailing .entry s

/-- An open choice among some alternatives takes the next free value (log 6). -/
def freeIndex (s : State) (n : Nat) : Nat := Config.freePick s.serial.choice % n

/-- Takes the next free value. -/
def spendChoice (s : State) : State := { s with serial := { s.serial with choice := s.serial.choice + 1 } }

/-- R4: everything one count has reached is reported; owners come in no set order, each owner's positions in their order. -/
def reportAll : Nat → State → State
  | 0, s => s
  | fuel + 1, s =>
    match dueNow s with
    | [] => s
    | [x] => reportAll fuel (deliverDue x s)
    | x :: xs => reportAll fuel (deliverDue ((x :: xs).getD (freeIndex s (x :: xs).length) x) (spendChoice s))

/-- R7: the pending trailing edges of the other four eyes that have passed the filter; the tracker discards them (R19). -/
def otherTrailing (s : State) : State :=
  ([.exit, .confirm .d1, .confirm .d2, .confirm .d3] : List Eye).foldl (fun acc e =>
    if (eyeOf acc e).trailing.any (chatterPassed acc.belt.d) then deliverTrailing e acc else acc) s

/-! ## Reports and an edge of the same count (R37, R134) -/

/-- R134: a window end; R37: a lost point. -/
def mayFollowEdge (e : Eye) (i : Item) : Bool :=
  match e, i with
  | .entry, .windowEnd _ _ => true
  | .exit, .lostPoint _ => true
  | _, _ => false

/-- The eye whose leading edge waits next, where a position it may come before stands at the very D of the count. -/
def edgeBeside (s : State) : Option Eye :=
  match s.pending with
  | .eyeLeadingEdge e :: _ =>
    if s.belt.register.any (fun r => mayFollowEdge e r.item && decide (r.position = s.belt.d)) then some e else none
  | _ => none

/-- R37, R134: the edge and the position may come together, and either may be taken first: a free value chooses (log 40). -/
def chooseEdge (s : State) : State :=
  match edgeBeside s with
  | none => s
  | some e =>
    if freeIndex s 2 = 0 then spendChoice s else onBeltUnit (fun b => { b with awaited := some e }) (spendChoice s)

/-- Every report that the register has due. -/
def reportReached (s : State) : State := reportAll (s.belt.register.length + 1) s

/-- The reports held back follow the edge that has been taken. -/
def reportHeldBack (s : State) : State := reportReached (onBeltUnit (fun b => { b with awaited := none }) s)

/-! ## Counts (R1) -/

/-- R1, R5: a count moves D by S and the net count of the window by 1. -/
def moveBelt (c : JunctionConfig) (forward : Bool) (b : Belt) : Belt :=
  if forward then { b with d := b.d + um c.scale, n := b.n + 1 } else { b with d := b.d - um c.scale, n := b.n - 1 }

/-- R15, R116: the first forward count while the restart report is armed. -/
def beltRestart (forward : Bool) (s : State) : State :=
  if forward = true ∧ s.belt.restartArmed = true then
    restoreOutputs (onBeltUnit (fun b => { b with restartArmed := false }) s)
  else s

/-- R1, R4, R13, R15: a count. It reports all that it has reached, but for what is held back for an edge of the same count: of an
edge of EYE_X0 and a lost point (R37), of an edge of EYE_IN and a window end (R134), either may be first, and a free value chooses
(log 40). -/
def beltCount (forward : Bool) (s : State) : State :=
  reportReached (chooseEdge (otherTrailing (beltRestart forward (onDrive restartQuiet (onBeltUnit (moveBelt (cfg s) forward) s)))))

/-- R1: a sample of the encoder lines. -/
def encoderSample (a b : Bool) (s : State) : State :=
  let s1 := { s with lines := { s.lines with encA := a, encB := b } }
  match quadrature s.lines.encA s.lines.encB a b with
  | none => s1
  | some forward => if acting s then beltCount forward s1 else s1

/-! ## Speed (R5) -/

/-- R5: the speed a net count gives, before the limit. -/
def windowSpeed (c : JunctionConfig) (n : Int) : Nat := n.toNat * c.scale / 10

/-- R5: the speed window ends. -/
def endWindow (c : JunctionConfig) (b : Belt) : Belt :=
  let v := windowSpeed c b.n
  if Config.maxSpeed < v then
    { b with v := Config.maxSpeed, overspeed := min Config.maxOverspeed (b.overspeed + 1), n := 0 }
  else { b with v := v, n := 0 }

/-- R5: the new v goes to stall detection, to the fire points and to the stop positions (log 26). -/
def speedWindow (s : State) : State :=
  let s1 := onBeltUnit (endWindow (cfg s)) s
  recomputeStops (recomputeFires (onDrive (judgeStall (cfg s) s1.belt.v) s1))

/-! ## Emergency stop and jam clear -/

/-- R15, R115: ESTOP joins the set: the drive halts, the outputs drop, the restart report is disarmed. -/
def estopJoins (s : State) : State :=
  if s.drive.reasons.estop then s
  else holdOutputs (onBeltUnit (fun b => { b with restartArmed := false }) (onDrive (joinReason (cfg s).rRun .estop) s))

/-- R15: ESTOP leaves the set and arms the restart report. -/
def estopLeaves (s : State) : State :=
  if s.drive.reasons.estop then
    onBeltUnit (fun b => { b with restartArmed := true }) (onDrive (leaveReason (cfg s).rRun .estop) s)
  else s

/-- R9: JAM and STALL leave the set; the removals go to the Flow Controller and to the entry eye (R8), in this order, since R8
gives none (DESIGN CHOICE, log 48). -/
def jamCleared (s : State) : State :=
  if jammed s then resyncEntry (followHold (onDrive (clearJamStall (cfg s).rRun) s)) else s

end Sys2Proof.Machine
end

