-- ==== Sys2Proof/Machine/Settle.lean ====
section
/-! DEFINITION. How an event ends: the reports of unsent frames are taken by their owners (R69, R120, R139, R143, R177) and
the output lines follow the state (R10, R101, R162, R166). -/

namespace Sys2Proof.Machine

/-- R139: a PATH to a station is unsent. -/
def pathUnsent (station : Byte) (s : State) : State :=
  if s.loader.node = .running then offer station (.path s.flow.reach) s else s

/-- R143: a HOLD to a station is unsent. -/
def holdUnsent (station : Byte) (s : State) : State :=
  if s.loader.node = .running then offer station (.hold (byteOf s.flow.holdValue)) s else s

/-- R176: a report of an unsent frame reaches its owner. -/
def takeReport (r : Report) (s : State) : State :=
  match r with
  | .handoff peer id attempt => handoffUnsent peer id attempt s
  | .query plate => attemptEnds plate.toNat s
  | .hold station => holdUnsent station s
  | .path station => pathUnsent station s

/-- R177: the reports owed in this event, oldest first, with those they give rise to. The fuel is more than an event needs
(log 34); none is owed afterwards. -/
def drainReports : Nat → State → State
  | 0, s => { s with owed := [] }
  | fuel + 1, s =>
    match s.owed with
    | [] => s
    | r :: rest => drainReports fuel (takeReport r { s with owed := rest })

/-- More reports than one event can give rise to: each stands for a frame that has left the queue or an attempt that has
ended (log 34). -/
def reportFuel : Nat := 1024

/-- R177: a frame leaves the queue: the reports pending now are those that this event delivers. One that a refusal sets later in
the event waits for the next such event. -/
def takePending (b : Bus) : Bus := { b with reports := [], due := b.reports }

/-- R177: delivers the HOLD and PATH reports that this event has taken, oldest first, but for those cleared in the meantime. -/
def deliverEach : Nat → State → State
  | 0, s => { s with bus := { s.bus with due := [] } }
  | fuel + 1, s =>
    match s.bus.due with
    | [] => s
    | r :: rest => deliverEach fuel (drainReports reportFuel (takeReport r { s with bus := { s.bus with due := rest } }))

/-- R177: each delivery takes one report off, and none is added, so that as many deliveries as reports are enough. -/
def deliverPending (s : State) : State := deliverEach s.bus.due.length s

/-- R10: DRV_RUN is asserted in ACCEL, RUN and DECEL. -/
def driveRuns : DriveState → Bool
  | .accel | .run | .decel => true
  | .stopped | .halted => false

/-- R162: ALERT_N is asserted. -/
def alertOn (s : State) : Bool :=
  s.exc.counter1.frozen || s.exc.counter2.frozen || decide (s.loader.node = .duplicate) ||
    decide (s.loader.node = .configFault)

/-- R166: BUS_EN is asserted while a frame or a jam is sent. -/
def onLine (b : Bus) : Bool :=
  match b.attempt with
  | none => false
  | some a =>
    match a.phase with
    | .sending | .jamming => true
    | .backoff _ | .waiting => false

/-- R166, R171: the bits BUS_TX carries: those of the frame being sent, up to a collision, or of its jam. -/
def busBits (station : Byte) (b : Bus) : List Bool :=
  match b.attempt with
  | none => []
  | some a =>
    match a.phase with
    | .sending => lineBits (frameBytes station a.frame.dest a.frame.payload)
    | .jamming => jamBits
    | .backoff _ | .waiting => []

/-- The output lines; all at rest while the part is held in reset (R180). -/
def pinsOf (s : State) : Pins :=
  if s.inReset then {}
  else { div := ⟨divOn s .d1, divOn s .d2, divOn s .d3⟩, drvRef := s.drive.r, drvRun := driveRuns s.drive.state,
         alert := alertOn s, busEn := onLine s.bus, busTx := busBits s.loader.station s.bus }

/-- The output lines follow the state. -/
def drivePins (s : State) : State := { s with pins := pinsOf s }

/-- The end of an event. -/
def settle (s : State) : State := drivePins (drainReports reportFuel s)

/-- The outcome of a command: nothing happens in a part that is held in reset (R180). -/
def act (f : State → State) (s : State) : Host.Outcome State Fault Refusal :=
  .next (if s.inReset then s else settle (f s))

end Sys2Proof.Machine
end

