-- ==== Sys2Proof/Machine/Start.lean ====
section
/-! DEFINITION. Start-up: leaving reset (R180), loading (R181, R182), JOINING and RUNNING (R183), DUPLICATE (R184),
CONFIG_FAULT (R185). -/

namespace Sys2Proof.Machine

/-- A change of the Configuration Loader alone. -/
def onLoader (f : Loader → Loader) (s : State) : State := { s with loader := f s.loader }

/-- A change of the Hall Bus Interface alone. -/
def onBus (f : Bus → Bus) (s : State) : State := { s with bus := f s.bus }

/-! ## Reset -/

/-- R172: the seed of the backoff register. -/
def lfsrSeed (fuses : BitVec 32) : BitVec 16 := if fuses.setWidth 16 = 0 then 1 else fuses.setWidth 16

/-- R180: the input lines are taken as found. -/
def foundLines (r : ResetLines) : Lines :=
  { straps := r.straps, fuses := r.fuses, encA := r.encA, encB := r.encB, estop := r.estop, estopSample := r.estop,
    jamclr := r.jamclr, jamclrSample := r.jamclr, jamclrTaken := r.jamclr, full := ⟨r.full1, r.full2, r.full3⟩ }

/-- R6: the levels of the photo-eyes as found; every delivered level is clear. -/
def foundEyes (r : ResetLines) : Eyes :=
  { entry := { present := r.eyeIn }, exit := { present := r.eyeX0 },
    confirm := ⟨{ present := r.cfm1 }, { present := r.cfm2 }, { present := r.cfm3 }⟩ }

/-- R181: a station number with which the memory is read. -/
def stationValid (straps : BitVec 7) : Bool := stationNumber (straps.setWidth 8)

/-- R180: the part as it leaves reset. The queue of commands is no state of the part; the next free choice is kept. -/
def leaveReset (r : ResetLines) (s : State) : State :=
  { pending := s.pending, serial := { choice := s.serial.choice }, lines := foundLines r,
    loader := { station := r.straps.setWidth 8, factoryId := r.fuses }, belt := { eyes := foundEyes r },
    drive := { reasons := { estop := r.estop } }, holdOff := r.estop, bus := { lfsr := lfsrSeed r.fuses } }

/-! ## CONFIG_FAULT -/

/-- A copy reaches to its checksum field: it is as long as its header says, and longer than a header (R181, R185). -/
def hasChecksum (img : List Byte) : Bool := decide (61 ≤ img.length ∧ img.length = imageLength img)

/-- R185: the checksum an ANNOUNCE carries: the checksum field of the image copy, 0 when there is none; a copy of the header
alone has no such field (log 21). -/
def announcedChecksum (l : Loader) : BitVec 16 :=
  match l.image with
  | none => 0
  | some img => if hasChecksum img then imageChecksum img else 0

/-- An ANNOUNCE of this node in its present node state. -/
def announcement (s : State) : Payload :=
  .announce ⟨s.loader.factoryId, s.loader.station, nodeCode s.loader.node, announcedChecksum s.loader⟩

/-- When LOADING ends the levels of the eyes become their delivered levels (R6) and no read is in progress. -/
def endLoading (node : NodeState) (s : State) : State :=
  onBeltUnit (fun b => { b with eyes := adoptLevels b.eyes })
    (onLoader (fun l => { l with node := node, reading := false, readdress := none }) s)

/-- R185: entering CONFIG_FAULT; with a valid station number an ANNOUNCE and an empty PATH are offered. -/
def enterConfigFault (s : State) : State :=
  let s1 := endLoading .configFault s
  if stationNumber s.loader.station then offer 127 (.path 0) (offer 127 (announcement s1) s1) else s1

/-- R180, R181: RESET. -/
def resetPart (r : ResetLines) (s : State) : State :=
  let s1 := leaveReset r s
  if stationValid r.straps then s1 else enterConfigFault s1

/-! ## Joining and running -/

/-- R78: the row of an outlet at the end of LOADING. -/
def rowFor (x : OutletConfig) : RouteRow :=
  { kind := x.kind, peer := x.peer, reach := x.reach, narrow := x.narrow,
    learned := if x.kind = .peer then x.reach else 0, closed := false, holdExpiry := none }

def rowsFor (c : JunctionConfig) : PerOutlet (Option RouteRow) :=
  ⟨c.outlets.o0.map rowFor, c.outlets.o1.map rowFor, c.outlets.o2.map rowFor, c.outlets.o3.map rowFor⟩

/-- R118: the peer stations, each once, UP and with no give-ups. -/
def peersFor (c : JunctionConfig) : List PeerState :=
  ((allOutlets.filterMap (fun o => c.outlets.get o)).filter (fun x => decide (x.kind = .peer))).map OutletConfig.peer
    |>.eraseDups |>.map (fun p => ⟨p, false, 0⟩)

/-- R159: an event counter as configured. -/
def counterFor (x : CounterConfig) : EventCounter := { event := x.event, limit := x.limit, chained := x.chained }

/-- R183: the checked values come into force in every block. -/
def putInForce (c : JunctionConfig) (s : State) : State :=
  { s with loader := { s.loader with config := some c }, routes := { s.routes with rows := rowsFor c },
           handoff := { s.handoff with peers := peersFor c },
           exc := { s.exc with counter1 := counterFor c.counter1, counter2 := counterFor c.counter2 },
           reader := { s.reader with idle := if c.readerPresent then some Config.idleTime else none } }

/-- R27: entering JOINING with EYE_IN blocked registers a jam point. -/
def jamPointAtJoining (s : State) : State :=
  if s.belt.eyes.entry.delivered then putJamPoint s.belt.d s else s

/-- R183: entering JOINING. -/
def enterJoining (c : JunctionConfig) (s : State) : State :=
  let s1 := refreshGates (recomputeReach (putInForce c (endLoading .joining s)))
  let s2 := jamPointAtJoining s1
  onLoader (fun l => { l with listen := some Config.listenTime }) (offer 127 (announcement s2) s2)

/-- R183: entering RUNNING: the upstream sources are told (R138, R143) and NOT_RUNNING leaves the set. -/
def enterRunning (s : State) : State :=
  let s1 := onLoader (fun l => { l with node := .running, listen := none }) s
  let s2 := toSources (.path s1.flow.reach) s1
  let s3 := if 0 < s2.flow.holdValue then toSources (.hold (byteOf s2.flow.holdValue)) s2 else s2
  let s4 := { s3 with flow := { s3.flow with refresh := refreshFor s3 s3.flow.holdValue } }
  onDrive (leaveReason (cfg s4).rRun .notRunning) s4

/-! ## Loading -/

/-- The loader reads the memory (R181). -/
def isReading (s : State) : Bool := decide (s.loader.node = .loading) && s.loader.reading

/-- R181: an address is not acknowledged. -/
def addressNack (s : State) : State :=
  if isReading s then
    let s1 := onLoader (fun l => { l with nacks := l.nacks + 1, reading := false, readdress := some Config.readdressWait }) s
    if s1.loader.nacks < Config.nackLimit then s1 else enterConfigFault s1
  else s

/-- R181: the memory is addressed again. -/
def readdressMemory (s : State) : State :=
  if s.loader.node = .loading ∧ s.loader.readdress.isSome = true then
    onLoader (fun l => { l with reading := true, readdress := none }) s
  else s

/-- R182: the read is complete; the image copy is kept and checked. -/
def readComplete (memory : List Byte) (s : State) : State :=
  if isReading s then
    let img := bytesRead memory
    let s1 := onLoader (fun l => { l with image := some img }) s
    if imagePasses s.loader.station img then enterJoining (readConfig img) s1 else enterConfigFault s1
  else s

/-- R183: the listen time ends. -/
def listenEnds (s : State) : State :=
  if s.loader.node = .joining ∧ s.loader.listen.isSome = true then enterRunning s else s

/-! ## DUPLICATE -/

/-- R167, R177, R184: entering DUPLICATE. -/
def enterDuplicate (s : State) : State :=
  onBus (fun b => { b with waiting := [], attempt := none, reports := [], due := [] })
    (onLoader (fun l => { l with node := .duplicate, listen := none }) s)

/-- An ANNOUNCE waits in the queue and is not in attempt (R184). -/
def announceWaits (s : State) : Bool :=
  s.bus.waiting.any (fun q => match q.payload with
    | .announce _ => true
    | _ => false)

/-- R184: a frame bears this station's number. -/
def ownNumberSeen (s : State) : State :=
  let s1 := onLoader (fun l => { l with duplicates := l.duplicates + 1 }) s
  match s.loader.node with
  | .joining => enterDuplicate s1
  | .running => if announceWaits s1 then s1 else offer 127 (announcement s1) s1
  | .loading | .configFault | .duplicate => s1

end Sys2Proof.Machine
end

