-- ==== Sys2Proof/Machine/Status.lean ====
section
/-! DEFINITION. STATUS_REQ and its replies: the items (R164, R165) and their bytes (R179, STATUS_REPLY item data). -/

namespace Sys2Proof.Machine

/-- A byte that is 1 when a condition holds. -/
def flagByte (b : Bool) : Byte := if b then 1 else 0

/-- The set of occupied slots: bit s for slot s. -/
def occupiedSlots (s : State) : BitVec 32 :=
  (segmentSlots s).foldl (fun acc slot => acc ||| (1#32 <<< slot)) 0

def summaryData (s : State) : List Byte :=
  [nodeCode s.loader.node, driveCode s.drive.state, reasonsByte s.drive.reasons, byteOf s.flow.occupancy] ++
    bytes4 (occupiedSlots s) ++ bytesSet s.routes.advertised ++ bytesSet s.routes.late ++ bytes4 s.tracker.entered ++
    bytes4 s.tracker.departed ++ bytes4 s.tracker.lost ++ bytes4 s.tracker.unknown ++ bytes4 s.tracker.overrun

/-- R179: the age of a stray record, at most 524,287. -/
def strayAge (reference time : BitVec 32) : Nat := min 524287 (reference - time).toNat

/-- R179: the 10 bytes of a stray record, bit 79 the most significant bit of the first byte. -/
def strayBytes (reference : BitVec 32) (r : StrayRecord) : List Byte :=
  let x : BitVec 80 :=
    BitVec.ofNat 34 (r.plate.getD 0) ++ (reasonCode r.reason).setWidth 5 ++ (dispositionCode r.disposition).setWidth 3 ++
      BitVec.ofNat 6 (r.destination.getD 63) ++ (r.related.getD 0).setWidth 7 ++ BitVec.ofNat 6 (r.slot.getD 63) ++
      BitVec.ofNat 19 (strayAge reference r.time)
  bytes5 (x.extractLsb' 40 40) ++ bytes5 (x.extractLsb' 0 40)

/-- R165: the records of a STRAYS page. -/
def strayPage (s : State) (page : Nat) : List StrayRecord := (s.exc.strays.drop (4 * page)).take 4

def straysData (s : State) (page : Nat) : List Byte :=
  let records := if page ≤ 7 then strayPage s page else []
  let reference := (records.head?.map StrayRecord.time).getD 0
  bytes2 s.exc.nextSeq ++ bytes4 reference ++ records.flatMap (strayBytes reference)

def counterData (c : EventCounter) : List Byte :=
  [eventByte c.event] ++ bytes2 (BitVec.ofNat 16 c.limit) ++ [bit c.chained 0 ||| bit c.frozen 1] ++
    bytes2 (BitVec.ofNat 16 c.value)

def countersData (s : State) : List Byte :=
  counterData s.exc.counter1 ++ counterData s.exc.counter2 ++ bytes2 (BitVec.ofNat 16 s.belt.overspeed) ++
    bytes4 s.divert.gapConflict ++ bytes4 s.divert.busy ++ bytes4 s.divert.lateDivert ++ bytes4 s.divert.atRisk ++
    bytes4 s.handoff.giveUps ++ bytes4 s.flow.overruns

def busCountersData (s : State) : List Byte :=
  bytes4 s.bus.sent ++ bytes4 s.bus.received ++ bytes4 s.bus.collisions ++ bytes4 s.bus.excess ++ bytes4 s.bus.crc ++
    bytes4 s.bus.format ++ bytes4 s.bus.unknownKind ++ bytes4 s.bus.queueDrop ++ bytes4 s.loader.duplicates

def cacheData (s : State) : List Byte :=
  bytes2 (BitVec.ofNat 16 (validWays s)) ++ bytes4 s.cache.hits ++ bytes4 s.cache.misses ++
    [s.cache.epoch, flagByte s.cache.walk.isSome]

/-- R144, R165: the hold time remaining of a PEER outlet in ms. -/
def holdRemaining (s : State) (r : RouteRow) : Nat := (r.holdExpiry.map (fun e => e - s.time)).getD 0

def peerData (s : State) (o : Outlet) : List Byte :=
  match row s o with
  | none => [0, 0, 0] ++ bytesSet 0 ++ bytes2 0
  | some r =>
    match r.kind with
    | .terminal => [1, 0, flagByte r.closed] ++ bytesSet 0 ++ bytes2 0
    | .peer =>
      [2, r.peer, flagByte (peerDown s r.peer)] ++ bytesSet r.learned ++ bytes2 (BitVec.ofNat 16 (holdRemaining s r))

def peersData (s : State) : List Byte := allOutlets.flatMap (peerData s)

/-- R164: in CONFIG_FAULT only SUMMARY is answered; in LOADING and DUPLICATE nothing. -/
def itemAnswered (node : NodeState) (item : Nat) : Bool :=
  match node with
  | .joining | .running => decide (1 ≤ item ∧ item ≤ 5)
  | .configFault => decide (item = 1)
  | .loading | .duplicate => false

/-- R164, R165: the page and data of a reply. -/
def statusData (s : State) (item page : Byte) : Byte × List Byte :=
  match item.toNat with
  | 1 => (page, summaryData s)
  | 2 => (page, straysData s page.toNat)
  | 3 => if page = 1 then (1, busCountersData s) else (0, countersData s)
  | 4 => (page, cacheData s)
  | _ => (page, peersData s)

/-- R164: a STATUS_REQ; one addressed to all stations draws no reply. -/
def statusRequested (h : Header) (item page : Byte) (s : State) : State :=
  if h.dest ≠ 127 ∧ itemAnswered s.loader.node item.toNat = true then
    offer h.src (.statusReply item (statusData s item page).1 (statusData s item page).2) s
  else s

end Sys2Proof.Machine
end

