-- ==== Sys2Proof/WellFormed.lean ====
section
/-! DEFINITION. Which commands are well formed: their operands lie where the datasheet lets the named event put them.
`exec` is total on every command; these checks say which commands the outside world can send. -/

namespace Sys2Proof

/-- R174: the SRC of a frame that is delivered lies in 1 to 125. -/
def Header.wellFormed (h : Header) : Bool := decide (1 ≤ h.src.toNat ∧ h.src.toNat ≤ 125)

/-- R41: a whole READ reply carries at most four plate values. -/
def wholePlates (plates : List Nat) : Bool := decide (plates.length ≤ 4)

/-- R17: the slots of the segment queue. -/
def slotInRange (slot : Nat) : Bool := decide (slot < Config.segmentSlots)

/-- Section 3.3: a plate number. -/
def plateInRange (plate : Nat) : Bool := decide (1 ≤ plate ∧ plate ≤ Config.maxPlate)

/-- The payload length of a STATUS_REPLY, item and page included (R179, note 2). -/
def replyLength (data : List Byte) : Bool := decide (data.length ≤ 46)

/-- R181: a completed read carries at least the five header bytes. -/
def hasHeader (bytes : List Byte) : Bool := decide (5 ≤ bytes.length)

/-- R174: assembly of a frame ends at the latest when its 56th byte arrives. -/
def RawFrame.assembled (f : RawFrame) : Bool := decide (f.bytes.length ≤ 56)

/-- The operands of a command lie where its event can put them. -/
def Instr.wellFormed : Instr → Bool
  | .reset _ => true
  | .configAddressNack => true
  | .configReaddress => true
  | .configReadComplete bytes => hasHeader bytes
  | .listenTimeout => true
  | .encoderCount _ _ => true
  | .speedWindowEnd => true
  | .stallDetected => true
  | .rampStep => true
  | .haltQuietTimeout => true
  | .estopAsserted => true
  | .estopDeasserted => true
  | .jamclrActivation => true
  | .eyeLeadingEdge _ => true
  | .eyeTrailingEdge _ => true
  | .chuteFullClose _ => true
  | .chuteFullReopen _ => true
  | .readReply whole _ plates => !whole || wholePlates plates
  | .pollReply _ _ => true
  | .readTimeout => true
  | .pollTimeout => true
  | .idleTimeout => true
  | .queryDeadline plate => plateInRange plate
  | .epochWalkStep => true
  | .confirmTimeout slot => slotInRange slot
  | .answerWaitTimeout _ _ => true
  | .retryDelayTimeout _ _ => true
  | .holdExpiry _ => true
  | .holdRefreshTimeout => true
  | .watchLapse => true
  | .transmitStart => true
  | .collision => true
  | .jamComplete => true
  | .backoffExpiry => true
  | .frameSent => true
  | .handoffReceived h _ => h.wellFormed
  | .acceptReceived h _ => h.wellFormed
  | .retryReceived h _ => h.wellFormed
  | .pathReceived h _ => h.wellFormed
  | .holdReceived h _ => h.wellFormed
  | .answerReceived h _ => h.wellFormed
  | .updateReceived h _ => h.wellFormed
  | .epochReceived h _ => h.wellFormed
  | .destCloseReceived h _ _ => h.wellFormed
  | .missingReceived h _ _ => h.wellFormed
  | .foundReceived h _ => h.wellFormed
  | .statusReqReceived h _ _ => h.wellFormed
  | .counterClearReceived h => h.wellFormed
  | .announceReceived h _ => h.wellFormed
  | .queryReceived h _ => h.wellFormed
  | .strayReceived h _ => h.wellFormed
  | .statusReplyReceived h _ _ data => h.wellFormed && replyLength data
  | .alertReceived h _ => h.wellFormed
  | .ownNumberFrame _ _ payload => decide (payload.length ≤ 48)
  | .frameDiscarded frame => frame.assembled
  | .resetNAsserted => true

end Sys2Proof
end

