-- ==== Sys2Proof/Machine/Receive.lean ====
section
/-! DEFINITION. Received frames: the receive filter and the report by SRC (R174, R175, R123), and what each owner does with
its kinds. -/

namespace Sys2Proof.Machine

/-! ## The receive filter -/

/-- R174: the frame with this header is delivered; `owner` is what its owner does. A frame is not assembled while this part
sends or jams (log 27). The received count rises before the report by SRC and the owner, in which order R174 leaves open
(DESIGN CHOICE, log 39). -/
def deliverFrame (h : Header) (owner : State → State) (s : State) : State :=
  if onLine s.bus then s
  else if stationNumber h.src = false then onBus (fun b => { b with format := b.format + 1 }) s
  else if h.src = s.loader.station then ownNumberSeen s
  else if addressedHere s.loader.station h.dest = false then s
  else owner (peerHeard h.src (onBus (fun b => { b with received := b.received + 1 }) s))

/-- R175: kinds without an owner; the report by SRC is the whole delivery. -/
def noOwner (s : State) : State := s

/-- R174: a frame that the receive checks discard. -/
def frameEnded (f : RawFrame) (s : State) : State :=
  if onLine s.bus then s
  else
    match classify s.loader.station f with
    | .format => onBus (fun b => { b with format := b.format + 1 }) s
    | .crc => countEvent .crcErrors (onBus (fun b => { b with crc := b.crc + 1 }) s)
    | .unknownKind => onBus (fun b => { b with unknownKind := b.unknownKind + 1 }) s
    | .runt => s
    | .elsewhere => s
    | .own _ _ _ => s
    | .delivered _ _ => s

/-! ## Owners -/

/-- R140: a PATH. -/
def pathTaken (source : Byte) (reach : DestSet) (s : State) : State :=
  if acting s then putLearned source reach s else s

/-- R144: the hold expiry a HOLD gives. -/
def holdExpiryFor (s : State) (quanta : Byte) : Option Nat :=
  if quanta = 0 then none else some (s.time + quanta.toNat * Config.quantum)

/-- R144: a HOLD. -/
def holdTaken (source : Byte) (quanta : Byte) (s : State) : State :=
  if acting s then
    refreshGates (updatePeerRows source (fun r => { r with holdExpiry := holdExpiryFor s quanta }) s)
  else s

/-- R55, R70: an ANSWER. -/
def answerTaken (p : AnswerPayload) (s : State) : State :=
  if acting s = true ∧ plateValid p.plate.toNat = true then
    if p.found = 1 then
      match readManifest p.part with
      | some part => answerFound p.plate.toNat part p.epoch s
      | none => s
    else if p.found = 0 then failQuery p.plate.toNat s
    else s
  else s

/-- R55, R72: an UPDATE. -/
def updateTaken (p : UpdatePayload) (s : State) : State :=
  if acting s = true ∧ plateValid p.plate.toNat = true then
    match readManifest p.part with
    | some part => applyUpdate p.plate.toNat part p.epoch s
    | none => s
  else s

/-- R75: an EPOCH. -/
def epochTaken (e : Byte) (s : State) : State :=
  if acting s = true ∧ e ≠ s.cache.epoch then newEpoch e s else s

/-- R80: a DEST_CLOSE. -/
def destCloseTaken (destinations : DestSet) (action : Byte) (s : State) : State :=
  if acting s then
    if action = 1 then putLate (s.routes.late ||| destinations) s
    else if action = 0 then putLate (s.routes.late &&& ~~~destinations) s
    else s
  else s

/-- R155: a MISSING. -/
def missingTaken (plate : BitVec 40) (reporter : Byte) (s : State) : State :=
  if acting s = true ∧ plateValid plate.toNat = true ∧ stationNumber reporter = true then
    beginSearch plate.toNat reporter false s
  else s

/-- R158: a FOUND. -/
def foundTaken (p : FoundPayload) (s : State) : State :=
  if acting s = true ∧ plateValid p.plate.toNat = true ∧ p.kind = 1 then unwatch p.plate.toNat s else s

/-- R163: an event counter cleared. -/
def clearCounter (c : EventCounter) : EventCounter := { c with value := 0, frozen := false }

/-- R163: a COUNTER_CLEAR. -/
def countersCleared (s : State) : State :=
  if s.loader.node = .loading then s
  else { s with exc := { s.exc with counter1 := clearCounter s.exc.counter1, counter2 := clearCounter s.exc.counter2 } }

/-- R121: an ACCEPT. -/
def acceptReceived (source id : Byte) (s : State) : State := if acting s then acceptTaken source id s else s

/-- R120: a RETRY. -/
def retryReceived (source id : Byte) (s : State) : State := if acting s then attemptUnanswered source id s else s

/-- R179, note 2: the LEN check of a STATUS_REPLY. -/
def replyTaken (h : Header) (data : List Byte) (s : State) : State :=
  if onLine s.bus = false ∧ stationNumber h.src = true ∧ h.src ≠ s.loader.station ∧
      addressedHere s.loader.station h.dest = true ∧ replyLength data = false then
    onBus (fun b => { b with format := b.format + 1 }) s
  else deliverFrame h noOwner s

end Sys2Proof.Machine
end

