-- ==== Sys2Proof/Machine/BeltCommands.lean ====
section
/-! DEFINITION. The commands of the belt, the drive, the photo-eyes and the chute-full lines (chapters 1, 2, 6 and 8). -/

namespace Sys2Proof.Machine

/-- ENCODER_COUNT (R1) -/
def execEncoderCount (a b : Bool) (s : State) : Host.Outcome State Fault Refusal := act (encoderSample a b) s

/-- SPEED_WINDOW_END (R5) -/
def execSpeedWindowEnd (s : State) : Host.Outcome State Fault Refusal := act speedWindow s

/-- R14: STALL joins the set and the count is set to 0: in every drive state once the count has reached 200, and in RUN, where
the command asserts that it has, below 200 as well (DESIGN CHOICE, logs 2 and 30). Elsewhere nothing is judged (log 3). -/
def stallFires (s : State) : State :=
  if s.drive.state = .run ∨ Config.stallWindows ≤ s.drive.stall then
    onDrive (fun d => { d with stall := 0 }) (raiseHalting .stall s)
  else s

/-- STALL_DETECTED (R14) -/
def execStallDetected (s : State) : Host.Outcome State Fault Refusal := act stallFires s

/-- RAMP_STEP (R12) -/
def execRampStep (s : State) : Host.Outcome State Fault Refusal := act (fun s => onDrive (rampDrive (cfg s)) s) s

/-- R13: the quiet timer runs out, if it runs. -/
def quietEnds (s : State) : State := if s.drive.quiet.isSome then onDrive (quietOut (cfg s).rRun) s else s

/-- HALT_QUIET_TIMEOUT (R13) -/
def execHaltQuietTimeout (s : State) : Host.Outcome State Fault Refusal := act quietEnds s

/-- The level of ESTOP_N as taken (log 32). -/
def putEstopLine (level : Bool) (s : State) : State :=
  { s with lines := { s.lines with estop := level, estopSample := level } }

/-- ESTOP_ASSERTED (R15) -/
def execEstopAsserted (s : State) : Host.Outcome State Fault Refusal := act (fun s => estopJoins (putEstopLine true s)) s

/-- ESTOP_DEASSERTED (R15) -/
def execEstopDeasserted (s : State) : Host.Outcome State Fault Refusal := act (fun s => estopLeaves (putEstopLine false s)) s

/-- The level of JAMCLR_N as taken (log 32). -/
def putJamclrLine (s : State) : State :=
  { s with lines := { s.lines with jamclr := true, jamclrSample := true, jamclrTaken := true } }

/-- JAMCLR_ACTIVATION (R9) -/
def execJamclrActivation (s : State) : Host.Outcome State Fault Refusal := act (fun s => jamCleared (putJamclrLine s)) s

/-- R6: the eye becomes blocked; an eye already blocked has no leading edge (log 3). The reports that the count before it held
back for the edge follow it (R37, R134; log 40). -/
def leadingEdge (e : Eye) (s : State) : State :=
  let s1 := if (eyeOf s e).present then s else eyeBlocked e s
  if s.belt.awaited.isSome then reportHeldBack s1 else s1

/-- EYE_LEADING_EDGE (R6) -/
def execEyeLeadingEdge (e : Eye) (s : State) : Host.Outcome State Fault Refusal := act (leadingEdge e) s

/-- R7: the eye becomes clear; an eye already clear has no trailing edge (log 3). -/
def trailingEdge (e : Eye) (s : State) : State := if (eyeOf s e).present then eyeCleared e s else s

/-- EYE_TRAILING_EDGE (R7) -/
def execEyeTrailingEdge (e : Eye) (s : State) : Host.Outcome State Fault Refusal := act (trailingEdge e) s

/-- The chute-full line of an outlet is followed (R136): in the node states that sample it, at a TERMINAL outlet. -/
def followsChute (s : State) (k : Diverter) : Bool := acting s && isTerminal s (outletOfDiverter k)

/-- R136: the closed field of a terminal diverter outlet is written and its run count set to 0; the line is at the level
that did it (log 32). -/
def writeClosed (k : Diverter) (closed : Bool) (s : State) : State :=
  let s1 := { s with lines := { s.lines with full := s.lines.full.set k closed } }
  if followsChute s k then
    putClosed (outletOfDiverter k) closed { s1 with flow := { s1.flow with runs := s1.flow.runs.set k 0 } }
  else s1

/-- CHUTE_FULL_CLOSE (R136) -/
def execChuteFullClose (k : Diverter) (s : State) : Host.Outcome State Fault Refusal := act (writeClosed k true) s

/-- CHUTE_FULL_REOPEN (R136) -/
def execChuteFullReopen (k : Diverter) (s : State) : Host.Outcome State Fault Refusal := act (writeClosed k false) s

/-- CONFIRM_TIMEOUT (R112) -/
def execConfirmTimeout (slot : Nat) (s : State) : Host.Outcome State Fault Refusal := act (confirmExpires slot) s

end Sys2Proof.Machine
end

