-- ==== Sys2Proof/Machine/BusCommands.lean ====
section
/-! DEFINITION. The commands of the transmitter of the hall bus (R170 to R173, R177). -/

namespace Sys2Proof.Machine

/-- The highest class present in a queue: the least number (R167). -/
def highestClass (w : List Queued) : Nat := w.foldl (fun m q => min m (queuedClass q)) 8

/-- R170: the oldest frame of the highest class present. -/
def nextFrame (w : List Queued) : Option Queued := w.find? (fun q => decide (queuedClass q = highestClass w))

/-- R170: the line has been idle for 16 bit times: a frame is taken, or the frame in attempt is sent again. -/
def beginSending (b : Bus) : Bus :=
  match b.attempt with
  | some a => if a.phase = .waiting then { b with attempt := some { a with phase := .sending } } else b
  | none =>
    match nextFrame b.waiting with
    | none => b
    | some q =>
      { b with waiting := b.waiting.eraseP (fun x => decide (queuedClass x = highestClass b.waiting)),
               attempt := some ⟨q, 0, .sending⟩ }

/-- TRANSMIT_START (R170) -/
def execTransmitStart (s : State) : Host.Outcome State Fault Refusal := act (onBus beginSending) s

/-- R171: a collision: the frame stops and the jam is sent. -/
def collide (b : Bus) : Bus :=
  match b.attempt with
  | some ⟨q, c, .sending⟩ => { b with attempt := some ⟨q, c + 1, .jamming⟩, collisions := b.collisions + 1 }
  | _ => b

/-- COLLISION (R171) -/
def execCollision (s : State) : Host.Outcome State Fault Refusal := act (onBus collide) s

/-- R172: one step of the backoff register. -/
def lfsrStep (x : BitVec 16) : BitVec 16 :=
  (x <<< 1) ||| (BitVec.ofBool (x.getLsbD 15 ^^ x.getLsbD 13 ^^ x.getLsbD 12 ^^ x.getLsbD 10)).setWidth 16

/-- R172: the slots drawn after the c-th collision. -/
def drawSlots (x : BitVec 16) (c : Nat) : Nat := x.toNat % 2 ^ min c 8

/-- R172: the backoff of a frame with c collisions. -/
def backOff (q : Queued) (c : Nat) (b : Bus) : Bus :=
  let x := lfsrStep b.lfsr
  let r := drawSlots x c
  { b with lfsr := x, attempt := some ⟨q, c, if r = 0 then .waiting else .backoff r⟩ }

/-- R172, R177: a frame is abandoned; it is counted and reported, and the reports pending before that are delivered. -/
def abandonFrame (q : Queued) (s : State) : State :=
  let s1 := countEvent .excessCollisions (onBus (fun b => takePending { b with attempt := none, excess := b.excess + 1 }) s)
  deliverPending (drainReports reportFuel (oweReport q s1))

/-- R172: the jam ends. -/
def jamEnds (s : State) : State :=
  match s.bus.attempt with
  | some ⟨q, c, .jamming⟩ => if c < Config.maxCollisions then onBus (backOff q c) s else abandonFrame q s
  | _ => s

/-- JAM_COMPLETE (R172) -/
def execJamComplete (s : State) : Host.Outcome State Fault Refusal := act jamEnds s

/-- R172: the backoff has run out; the frame waits for an idle line. -/
def backoffEnds (b : Bus) : Bus :=
  match b.attempt with
  | some ⟨q, c, .backoff _⟩ => { b with attempt := some ⟨q, c, .waiting⟩ }
  | _ => b

/-- BACKOFF_EXPIRY (R172) -/
def execBackoffExpiry (s : State) : Host.Outcome State Fault Refusal := act (onBus backoffEnds) s

/-- R173, R177: the frame is sent; pending reports are delivered. -/
def frameLeaves (s : State) : State :=
  match s.bus.attempt with
  | some ⟨_, _, .sending⟩ => deliverPending (onBus (fun b => takePending { b with attempt := none, sent := b.sent + 1 }) s)
  | _ => s

/-- FRAME_SENT (R173) -/
def execFrameSent (s : State) : Host.Outcome State Fault Refusal := act frameLeaves s

end Sys2Proof.Machine
end

