-- ==== Sys2Proof/Machine/FrameCommands.lean ====
section
/-! DEFINITION. The commands of received frames (R174, R175, R184) and the owners that take them. -/

namespace Sys2Proof.Machine

/-- HANDOFF_RECEIVED (R124) -/
def execHandoffReceived (h : Header) (p : HandoffPayload) (s : State) : Host.Outcome State Fault Refusal :=
  act (deliverFrame h (handoffTaken h.src p)) s

/-- ACCEPT_RECEIVED (R121) -/
def execAcceptReceived (h : Header) (id : Byte) (s : State) : Host.Outcome State Fault Refusal :=
  act (deliverFrame h (acceptReceived h.src id)) s

/-- RETRY_RECEIVED (R120) -/
def execRetryReceived (h : Header) (id : Byte) (s : State) : Host.Outcome State Fault Refusal :=
  act (deliverFrame h (retryReceived h.src id)) s

/-- PATH_RECEIVED (R140) -/
def execPathReceived (h : Header) (reach : DestSet) (s : State) : Host.Outcome State Fault Refusal :=
  act (deliverFrame h (pathTaken h.src reach)) s

/-- HOLD_RECEIVED (R144) -/
def execHoldReceived (h : Header) (quanta : Byte) (s : State) : Host.Outcome State Fault Refusal :=
  act (deliverFrame h (holdTaken h.src quanta)) s

/-- ANSWER_RECEIVED (R70) -/
def execAnswerReceived (h : Header) (p : AnswerPayload) (s : State) : Host.Outcome State Fault Refusal :=
  act (deliverFrame h (answerTaken p)) s

/-- UPDATE_RECEIVED (R72) -/
def execUpdateReceived (h : Header) (p : UpdatePayload) (s : State) : Host.Outcome State Fault Refusal :=
  act (deliverFrame h (updateTaken p)) s

/-- EPOCH_RECEIVED (R75) -/
def execEpochReceived (h : Header) (e : Byte) (s : State) : Host.Outcome State Fault Refusal :=
  act (deliverFrame h (epochTaken e)) s

/-- DEST_CLOSE_RECEIVED (R80) -/
def execDestCloseReceived (h : Header) (destinations : DestSet) (action : Byte) (s : State) :
    Host.Outcome State Fault Refusal := act (deliverFrame h (destCloseTaken destinations action)) s

/-- MISSING_RECEIVED (R155) -/
def execMissingReceived (h : Header) (plate : BitVec 40) (reporter : Byte) (s : State) : Host.Outcome State Fault Refusal :=
  act (deliverFrame h (missingTaken plate reporter)) s

/-- FOUND_RECEIVED (R158) -/
def execFoundReceived (h : Header) (p : FoundPayload) (s : State) : Host.Outcome State Fault Refusal :=
  act (deliverFrame h (foundTaken p)) s

/-- STATUS_REQ_RECEIVED (R164) -/
def execStatusReqReceived (h : Header) (item page : Byte) (s : State) : Host.Outcome State Fault Refusal :=
  act (deliverFrame h (statusRequested h item page)) s

/-- COUNTER_CLEAR_RECEIVED (R163) -/
def execCounterClearReceived (h : Header) (s : State) : Host.Outcome State Fault Refusal :=
  act (deliverFrame h countersCleared) s

/-- ANNOUNCE_RECEIVED (R175, R184): an ANNOUNCE from another number has no effect on the Loader. -/
def execAnnounceReceived (h : Header) (_ : AnnouncePayload) (s : State) : Host.Outcome State Fault Refusal :=
  act (deliverFrame h noOwner) s

/-- QUERY_RECEIVED (R175) -/
def execQueryReceived (h : Header) (_ : BitVec 40) (s : State) : Host.Outcome State Fault Refusal :=
  act (deliverFrame h noOwner) s

/-- STRAY_RECEIVED (R175) -/
def execStrayReceived (h : Header) (_ : StrayPayload) (s : State) : Host.Outcome State Fault Refusal :=
  act (deliverFrame h noOwner) s

/-- STATUS_REPLY_RECEIVED (R175) -/
def execStatusReplyReceived (h : Header) (_ _ : Byte) (data : List Byte) (s : State) : Host.Outcome State Fault Refusal :=
  act (replyTaken h data) s

/-- ALERT_RECEIVED (R175) -/
def execAlertReceived (h : Header) (_ : AlertPayload) (s : State) : Host.Outcome State Fault Refusal :=
  act (deliverFrame h noOwner) s

/-- OWN_NUMBER_FRAME (R184); DEST, KIND and payload play no part. -/
def execOwnNumberFrame (_ _ : Byte) (_ : List Byte) (s : State) : Host.Outcome State Fault Refusal :=
  act (fun s => if onLine s.bus then s else ownNumberSeen s) s

/-- FRAME_DISCARDED (R174) -/
def execFrameDiscarded (f : RawFrame) (s : State) : Host.Outcome State Fault Refusal := act (frameEnded f) s

end Sys2Proof.Machine
end

