-- ==== Sys2Proof/Machine/LinkCommands.lean ====
section
/-! DEFINITION. The commands of the reader link (chapter 3) and of the timers of the Query Table, the Route Cache, the
Handoff Controller, the Flow Controller and the Exception Unit (chapters 4, 7, 8 and 9). -/

namespace Sys2Proof.Machine

/-- The reader link acts: a reader is present and the node state lets it (R40, R54). -/
def linkActs (s : State) : Bool := acting s && (cfg s).readerPresent

/-- R44, R48: a whole READ reply. -/
def readReplied (number : Byte) (plates : List Nat) (s : State) : State :=
  match s.reader.outstanding with
  | some ⟨n, .read slot, _⟩ => if n = number then readAnswered slot (readResult plates) s else onReader readerAnswers s
  | _ => onReader readerAnswers s

/-- R41: a READ reply that is not whole is discarded. -/
def readReplyTaken (whole : Bool) (number : Byte) (plates : List Nat) (s : State) : State :=
  if linkActs s = true ∧ whole = true ∧ wholePlates plates = true then readReplied number plates s else s

/-- READ_REPLY (R44) -/
def execReadReply (whole : Bool) (number : Byte) (plates : List Nat) (s : State) : Host.Outcome State Fault Refusal :=
  act (readReplyTaken whole number plates) s

/-- R46, R48: a whole POLL reply. -/
def pollReplied (number : Byte) (s : State) : State :=
  match s.reader.outstanding with
  | some ⟨n, .poll, _⟩ => if n = number then onReader (fun r => endRequest (readerAnswers r)) s else onReader readerAnswers s
  | _ => onReader readerAnswers s

/-- R41: a POLL reply that is not whole is discarded. -/
def pollReplyTaken (whole : Bool) (number : Byte) (s : State) : State :=
  if linkActs s = true ∧ whole = true then pollReplied number s else s

/-- POLL_REPLY (R46) -/
def execPollReply (whole : Bool) (number : Byte) (s : State) : Host.Outcome State Fault Refusal :=
  act (pollReplyTaken whole number) s

/-- R45: the read timer of an outstanding READ runs out. -/
def readTimesOut (s : State) : State :=
  match s.reader.outstanding with
  | some ⟨_, .read slot, _⟩ => readMissed slot s
  | _ => s

/-- READ_TIMEOUT (R45) -/
def execReadTimeout (s : State) : Host.Outcome State Fault Refusal := act readTimesOut s

/-- R46: the read timer of an outstanding POLL runs out. -/
def pollTimesOut (s : State) : State :=
  match s.reader.outstanding with
  | some ⟨_, .poll, _⟩ => onReader endRequest (checkDown (onReader countMiss s))
  | _ => s

/-- POLL_TIMEOUT (R46) -/
def execPollTimeout (s : State) : Host.Outcome State Fault Refusal := act pollTimesOut s

/-- R46: the idle timer runs out; a POLL is sent. -/
def idleEnds (s : State) : State :=
  if s.reader.idle.isSome = true ∧ s.reader.outstanding = none then onReader (sendRequest .poll) s else s

/-- IDLE_TIMEOUT (R46) -/
def execIdleTimeout (s : State) : Host.Outcome State Fault Refusal := act idleEnds s

/-- QUERY_DEADLINE (R68) -/
def execQueryDeadline (plate : Nat) (s : State) : Host.Outcome State Fault Refusal := act (deadlinePasses plate) s

/-- EPOCH_WALK_STEP (R76) -/
def execEpochWalkStep (s : State) : Host.Outcome State Fault Refusal := act walkStep s

/-- ANSWER_WAIT_TIMEOUT (R120) -/
def execAnswerWaitTimeout (peer id : Byte) (s : State) : Host.Outcome State Fault Refusal := act (attemptUnanswered peer id) s

/-- RETRY_DELAY_TIMEOUT (R120) -/
def execRetryDelayTimeout (peer id : Byte) (s : State) : Host.Outcome State Fault Refusal := act (retryDelayOut peer id) s

/-- R144: a hold lapses; the gate of the outlet follows. -/
def holdLapses (o : Outlet) (s : State) : State :=
  if heldOutlet s o then refreshGate o (updateRow o (fun r => { r with holdExpiry := none }) s) else s

/-- HOLD_EXPIRY (R144) -/
def execHoldExpiry (o : Outlet) (s : State) : Host.Outcome State Fault Refusal := act (holdLapses o) s

/-- R143: the refresh timer runs out; HOLD is offered again and the timer restarts. -/
def holdRefreshed (s : State) : State :=
  if s.flow.refresh.isSome = true ∧ s.loader.node = .running then
    let s1 := toSources (.hold (byteOf s.flow.holdValue)) s
    { s1 with flow := { s1.flow with refresh := refreshFor s1 s1.flow.holdValue } }
  else s

/-- HOLD_REFRESH_TIMEOUT (R143) -/
def execHoldRefreshTimeout (s : State) : Host.Outcome State Fault Refusal := act holdRefreshed s

/-- R153: a watch entry has lapsed at a number of seconds since reset. -/
def lapsed (now : BitVec 32) (w : WatchEntry) : Bool := decide (Config.watchLife ≤ (now - w.added).toNat)

/-- R153: the entries whose age is 600 s or more are removed. -/
def watchLapses (s : State) : State :=
  { s with exc := { s.exc with watch := s.exc.watch.filter (fun w => !lapsed (seconds s) w) } }

/-- WATCH_LAPSE (R153) -/
def execWatchLapse (s : State) : Host.Outcome State Fault Refusal := act watchLapses s

end Sys2Proof.Machine
end

