-- ==== Sys2Proof/Machine/StartCommands.lean ====
section
/-! DEFINITION. The commands of start-up and reset (chapter 11). -/

namespace Sys2Proof.Machine

/-- RESET (R180): the part leaves reset, whether or not it was held in it. -/
def execReset (r : ResetLines) (s : State) : Host.Outcome State Fault Refusal := .next (settle (resetPart r s))

/-- RESET_N_ASSERTED (R180): the part is held in reset; the outputs are at rest. What is in progress is abandoned when the
part leaves reset, which clears every block (log 9). -/
def execResetNAsserted (s : State) : Host.Outcome State Fault Refusal := .next (drivePins { s with inReset := true })

/-- CONFIG_ADDRESS_NACK (R181) -/
def execConfigAddressNack (s : State) : Host.Outcome State Fault Refusal := act addressNack s

/-- CONFIG_READDRESS (R181) -/
def execConfigReaddress (s : State) : Host.Outcome State Fault Refusal := act readdressMemory s

/-- CONFIG_READ_COMPLETE (R182) -/
def execConfigReadComplete (bytes : List Byte) (s : State) : Host.Outcome State Fault Refusal := act (readComplete bytes) s

/-- LISTEN_TIMEOUT (R183) -/
def execListenTimeout (s : State) : Host.Outcome State Fault Refusal := act listenEnds s

end Sys2Proof.Machine
end

