-- ==== Sys2Proof/Machine/Dispatch.lean ====
section
/-! DEFINITION. The meaning of every command: one arm per constructor. -/

namespace Sys2Proof.Machine

def exec (i : Instr) (s : State) : Host.Outcome State Fault Refusal :=
  match i with
  | .reset lines => Sys2Proof.Machine.execReset lines s
  | .configAddressNack => Sys2Proof.Machine.execConfigAddressNack s
  | .configReaddress => Sys2Proof.Machine.execConfigReaddress s
  | .configReadComplete bytes => Sys2Proof.Machine.execConfigReadComplete bytes s
  | .listenTimeout => Sys2Proof.Machine.execListenTimeout s
  | .encoderCount a b => Sys2Proof.Machine.execEncoderCount a b s
  | .speedWindowEnd => Sys2Proof.Machine.execSpeedWindowEnd s
  | .stallDetected => Sys2Proof.Machine.execStallDetected s
  | .rampStep => Sys2Proof.Machine.execRampStep s
  | .haltQuietTimeout => Sys2Proof.Machine.execHaltQuietTimeout s
  | .estopAsserted => Sys2Proof.Machine.execEstopAsserted s
  | .estopDeasserted => Sys2Proof.Machine.execEstopDeasserted s
  | .jamclrActivation => Sys2Proof.Machine.execJamclrActivation s
  | .eyeLeadingEdge eye => Sys2Proof.Machine.execEyeLeadingEdge eye s
  | .eyeTrailingEdge eye => Sys2Proof.Machine.execEyeTrailingEdge eye s
  | .chuteFullClose k => Sys2Proof.Machine.execChuteFullClose k s
  | .chuteFullReopen k => Sys2Proof.Machine.execChuteFullReopen k s
  | .readReply whole number plates => Sys2Proof.Machine.execReadReply whole number plates s
  | .pollReply whole number => Sys2Proof.Machine.execPollReply whole number s
  | .readTimeout => Sys2Proof.Machine.execReadTimeout s
  | .pollTimeout => Sys2Proof.Machine.execPollTimeout s
  | .idleTimeout => Sys2Proof.Machine.execIdleTimeout s
  | .queryDeadline plate => Sys2Proof.Machine.execQueryDeadline plate s
  | .epochWalkStep => Sys2Proof.Machine.execEpochWalkStep s
  | .confirmTimeout slot => Sys2Proof.Machine.execConfirmTimeout slot s
  | .answerWaitTimeout peer id => Sys2Proof.Machine.execAnswerWaitTimeout peer id s
  | .retryDelayTimeout peer id => Sys2Proof.Machine.execRetryDelayTimeout peer id s
  | .holdExpiry outlet => Sys2Proof.Machine.execHoldExpiry outlet s
  | .holdRefreshTimeout => Sys2Proof.Machine.execHoldRefreshTimeout s
  | .watchLapse => Sys2Proof.Machine.execWatchLapse s
  | .transmitStart => Sys2Proof.Machine.execTransmitStart s
  | .collision => Sys2Proof.Machine.execCollision s
  | .jamComplete => Sys2Proof.Machine.execJamComplete s
  | .backoffExpiry => Sys2Proof.Machine.execBackoffExpiry s
  | .frameSent => Sys2Proof.Machine.execFrameSent s
  | .handoffReceived h p => Sys2Proof.Machine.execHandoffReceived h p s
  | .acceptReceived h id => Sys2Proof.Machine.execAcceptReceived h id s
  | .retryReceived h id => Sys2Proof.Machine.execRetryReceived h id s
  | .pathReceived h reach => Sys2Proof.Machine.execPathReceived h reach s
  | .holdReceived h quanta => Sys2Proof.Machine.execHoldReceived h quanta s
  | .answerReceived h p => Sys2Proof.Machine.execAnswerReceived h p s
  | .updateReceived h p => Sys2Proof.Machine.execUpdateReceived h p s
  | .epochReceived h epoch => Sys2Proof.Machine.execEpochReceived h epoch s
  | .destCloseReceived h destinations action => Sys2Proof.Machine.execDestCloseReceived h destinations action s
  | .missingReceived h plate reporter => Sys2Proof.Machine.execMissingReceived h plate reporter s
  | .foundReceived h p => Sys2Proof.Machine.execFoundReceived h p s
  | .statusReqReceived h item page => Sys2Proof.Machine.execStatusReqReceived h item page s
  | .counterClearReceived h => Sys2Proof.Machine.execCounterClearReceived h s
  | .announceReceived h p => Sys2Proof.Machine.execAnnounceReceived h p s
  | .queryReceived h plate => Sys2Proof.Machine.execQueryReceived h plate s
  | .strayReceived h p => Sys2Proof.Machine.execStrayReceived h p s
  | .statusReplyReceived h item page data => Sys2Proof.Machine.execStatusReplyReceived h item page data s
  | .alertReceived h p => Sys2Proof.Machine.execAlertReceived h p s
  | .ownNumberFrame dest kind payload => Sys2Proof.Machine.execOwnNumberFrame dest kind payload s
  | .frameDiscarded frame => Sys2Proof.Machine.execFrameDiscarded frame s
  | .resetNAsserted => Sys2Proof.Machine.execResetNAsserted s

end Sys2Proof.Machine
end

