-- ==== Sys2Proof/Machine/TimeBase.lean ====
section
/-! DEFINITION. The 1 ms time base (section 3.2 of chapter 0): the table has no row for a tick, so it is what a step does
when no command waits (DESIGN CHOICE, log 1). A timer that has run out puts its command in the queue; else a millisecond
passes, timers run down, the lines are sampled (R9, R136) and the boundary's commands are queued (R5, R12, R76, R153). The end of
a timer in a millisecond comes after that millisecond's boundary and samples (DESIGN CHOICE, log 56). -/

namespace Sys2Proof.Machine

/-! ## Timers that have run out -/

/-- A command that is due under a condition. -/
def dueIf (b : Bool) (c : Instr) : List Instr := if b then [c] else []

/-- A timer has run out. -/
def ranOut (t : Option Nat) : Bool := decide (t = some 0)

/-- The command of the reader's timers that have run out (R45, R46). -/
def readerDue (s : State) : List Instr :=
  match s.reader.outstanding with
  | none => dueIf (ranOut s.reader.idle) .idleTimeout
  | some o =>
    match o.asked with
    | .read _ => dueIf (decide (o.timer = 0)) .readTimeout
    | .poll => dueIf (decide (o.timer = 0)) .pollTimeout

/-- The command of an open handoff whose wait has run out (R120). -/
def handoffDue (d : Departure) : List Instr :=
  match d.id, d.outgoing with
  | some id, some ⟨_, .answer ms⟩ => dueIf (decide (ms = 0 ∧ d.state = .awaitingAccept)) (.answerWaitTimeout d.peer id)
  | some id, some ⟨_, .retry ms⟩ => dueIf (decide (ms = 0 ∧ d.state = .awaitingAccept)) (.retryDelayTimeout d.peer id)
  | _, _ => []

/-- R144: a hold expiry has been reached. -/
def holdDue (s : State) (o : Outlet) : List Instr :=
  dueIf (heldOutlet s o && (row s o).any (fun r => r.holdExpiry.any (fun e => decide (e ≤ s.time)))) (.holdExpiry o)

/-- The commands of everything that has run out. -/
def dueCommands (s : State) : List Instr :=
  dueIf (decide (s.loader.node = .loading) && ranOut s.loader.readdress) .configReaddress ++
    dueIf (decide (s.loader.node = .joining) && ranOut s.loader.listen) .listenTimeout ++
    dueIf (ranOut s.drive.quiet) .haltQuietTimeout ++
    dueIf (decide (Config.stallWindows ≤ s.drive.stall)) .stallDetected ++
    readerDue s ++
    (s.queries.filter (fun q => decide (q.deadline ≤ s.time))).map (fun q => .queryDeadline q.plate) ++
    (s.tracker.segment.filter (fun b => ranOut b.confirm && decide (b.tracking = .diverting))).map
      (fun b => .confirmTimeout b.slot) ++
    s.tracker.history.flatMap handoffDue ++
    allOutlets.flatMap (holdDue s) ++
    dueIf (decide (s.loader.node = .running) && ranOut s.flow.refresh) .holdRefreshTimeout

/-! ## A millisecond -/

/-- A millisecond of a timer. -/
def runDown (t : Option Nat) : Option Nat := t.map (fun n => n - 1)

/-- A millisecond of a handoff's wait. -/
def runDownWait : HandoffWait → HandoffWait
  | .answer ms => .answer (ms - 1)
  | .retry ms => .retry (ms - 1)

/-- R112: confirm timers count down in ACCEL, RUN and DECEL only; in ACCEL from its entry, before the belt moves, where the example
of section 6.11 lets the timer stand until then (DESIGN CHOICE, log 45). -/
def runDownConfirm (st : DriveState) (b : BagRecord) : BagRecord :=
  if driveRuns st then { b with confirm := runDown b.confirm } else b

def runDownDeparture (d : Departure) : Departure :=
  { d with outgoing := d.outgoing.map (fun g => { g with wait := runDownWait g.wait }) }

/-- Every timer runs down by a millisecond. -/
def runTimers (s : State) : State :=
  { s with
    time := s.time + 1
    loader := { s.loader with readdress := runDown s.loader.readdress, listen := runDown s.loader.listen }
    drive := { s.drive with quiet := runDown s.drive.quiet }
    reader := { s.reader with idle := runDown s.reader.idle,
                              outstanding := s.reader.outstanding.map (fun o => { o with timer := o.timer - 1 }) }
    tracker := { s.tracker with segment := s.tracker.segment.map (runDownConfirm s.drive.state),
                                history := s.tracker.history.map runDownDeparture }
    flow := { s.flow with refresh := runDown s.flow.refresh } }

/-! ## Samples -/

/-- R9: two consecutive samples agree on a level that is not the one taken. -/
def changeTaken (level sample taken : Bool) : Bool := level == sample && level != taken

/-- R9: what the sample of ESTOP_N gives. -/
def estopDue (s : State) : List Instr :=
  dueIf (changeTaken s.lines.estop s.lines.estopSample s.drive.reasons.estop)
    (if s.lines.estop then .estopAsserted else .estopDeasserted)

/-- R9: what the sample of JAMCLR_N gives; its return to inactive gives nothing. -/
def jamclrDue (s : State) : List Instr :=
  dueIf (changeTaken s.lines.jamclr s.lines.jamclrSample s.lines.jamclrTaken && s.lines.jamclr) .jamclrActivation

/-- R9: the samples are kept. -/
def keepSamples (l : Lines) : Lines :=
  { l with estopSample := l.estop, jamclrSample := l.jamclr,
           jamclrTaken := if changeTaken l.jamclr l.jamclrSample l.jamclrTaken && !l.jamclr then false else l.jamclrTaken }

/-- The closed field of a diverter's outlet. -/
def outletClosed (s : State) (k : Diverter) : Bool := (row s (outletOfDiverter k)).any RouteRow.closed

/-- R136: the run count after a sample. -/
def chuteRun (s : State) (k : Diverter) : Nat :=
  if followsChute s k = true ∧ s.lines.full.get k ≠ outletClosed s k then s.flow.runs.get k + 1 else 0

/-- R136: a run count that has reached its limit. -/
def chuteDue (s : State) (k : Diverter) : List Instr :=
  if followsChute s k then
    if outletClosed s k then dueIf (decide (Config.reopenRun ≤ chuteRun s k)) (.chuteFullReopen k)
    else dueIf (decide (Config.closeRun ≤ chuteRun s k)) (.chuteFullClose k)
  else []

/-- R9, R136: the lines are sampled. -/
def takeSamples (s : State) : State :=
  { s with lines := keepSamples s.lines,
           flow := { s.flow with runs := ⟨chuteRun s .d1, chuteRun s .d2, chuteRun s .d3⟩ } }

/-- The commands of the samples and boundaries of a millisecond, in the order in which they are queued (DESIGN CHOICE, log 1):
the speed window and the ramp step before the samples, as the example of section 1.11 has it, where ESTOP_N released at 9,000 ms
is followed by its first ramp step at 9,010 ms. -/
def boundaryCommands (s : State) : List Instr :=
  dueIf (decide (s.time % 10 = 0)) .speedWindowEnd ++ dueIf (decide (s.time % 10 = 0)) .rampStep ++
    estopDue s ++ jamclrDue s ++ allDiverters.flatMap (chuteDue s) ++ dueIf s.cache.walk.isSome .epochWalkStep ++
    dueIf (decide (s.time % 1000 = 0) && s.exc.watch.any (lapsed (seconds s))) .watchLapse

/-- A millisecond passes. A timer that reaches 0 in it is taken only once the commands queued here have been: a quiet timer (R13)
that ends at a 10 ms boundary comes after the SPEED_WINDOW_END and the RAMP_STEP of that boundary, so that the ramp it starts takes
its first step 10 ms later. R12 and R13 give no order (DESIGN CHOICE, log 56). -/
def tick (s : State) : State :=
  let t := runTimers s
  { takeSamples t with pending := boundaryCommands t }

/-- What a step does when no command waits. Timers that have run out together may be taken in any order, by the free choice (log 6);
the boundary of the millisecond in which they run out has been taken before them (DESIGN CHOICE, log 56). -/
def idle (s : State) : State :=
  if s.inReset then s
  else
    match dueCommands s with
    | [] => tick s
    | [c] => { s with pending := [c] }
    | c :: cs => { spendChoice s with pending := [(c :: cs).getD (freeIndex s (c :: cs).length) c] }

end Sys2Proof.Machine
end

