-- ==== Sys2Proof/Safety.lean ====
section
/-! DEFINITION. The laws of the device that the datasheet derives from its rules, as predicates of the state, and the
premises claims use. A safe run is one in which they hold throughout. -/

namespace Sys2Proof.Machine

/-- The part is out of reset, no report is owed or still to be delivered (log 7), and no report of a count waits for an edge
beside it (log 40): how an event begins and ends. -/
def Ready (s : State) : Prop := s.inReset = false ∧ s.owed = [] ∧ s.bus.due = [] ∧ s.belt.awaited = none

/-- The law of R11: the reference is 0 at rest and while a halting reason is in the set, and no run is commanded while the set
is not empty. R13: the quiet timer runs in HALTED only. -/
structure DriveLaw (d : Drive) : Prop where
  rest : d.state = .stopped ∨ d.state = .halted → d.r = 0
  halts : halting d.reasons = true → d.state = .stopped ∨ d.state = .halted
  runs : d.state = .accel ∨ d.state = .run → noReasons d.reasons = true
  coasts : d.quiet.isSome = true → d.state = .halted

/-- The law of R168: the transmit queue holds at most 16 frames, the frame in attempt included. -/
def QueueLaw (b : Bus) : Prop := queueLength b ≤ Config.transmitQueue

/-- The law of R101: while ESTOP is in the set the output hold-off is set, and the restart report cannot clear it. -/
def EstopLaw (s : State) : Prop := s.drive.reasons.estop = true → s.holdOff = true ∧ s.belt.restartArmed = false

/-- The laws of R17 and R39: at most 32 records in distinct slots, as many as entered less departed less lost. -/
structure SegmentLaw (t : Tracker) : Prop where
  distinct : (t.segment.map BagRecord.slot).Nodup
  bounded : t.segment.length ≤ Config.segmentSlots
  balance : t.entered - t.departed - t.lost = BitVec.ofNat 32 t.segment.length

/-- R58: the ranks of a set are a permutation of 0 to 3. -/
def RankLaw (c : RouteCache) : Prop := ∀ w ∈ c.sets, (w.map Way.rank).Perm [0, 1, 2, 3]

/-- R58: a way that holds a plate stands in the plate's set, and no plate stands in two valid ways. -/
structure PlateLaw (c : RouteCache) : Prop where
  placed : ∀ i, ∀ w ∈ c.sets.getD i emptySet, ∀ e, w.entry = some e → e.plate % 64 = i
  single : ∀ ways ∈ c.sets, (ways.filterMap (fun w => w.entry.map CacheEntry.plate)).Nodup

/-- R152, R153: at most 32 stray records and 16 watch entries. -/
def ListLaw (e : ExceptionUnit) : Prop :=
  e.strays.length ≤ Config.exceptionList ∧ e.watch.length ≤ Config.watchEntries

/-- R129: at most 16 expected entries. -/
def ExpectedLaw (h : Handoff) : Prop := h.expected.length ≤ Config.expectedEntries

/-- R64: at most eight query entries of distinct plates, each with one to four waiters. -/
structure QueryLaw (qs : List QueryEntry) : Prop where
  bounded : qs.length ≤ Config.queryEntries
  plates : (qs.map QueryEntry.plate).Nodup
  waiters : ∀ q ∈ qs, 1 ≤ q.waiters.length ∧ q.waiters.length ≤ Config.queryWaiters

/-- R97: a window holds one to four bags; a next window stands behind an active one only. The numbers that name windows in the
register are distinct and below `n`, the next to be given (log 19). -/
structure WindowsOk (n : Nat) (w : DiverterWindows) : Prop where
  order : w.active = none → w.next = none
  size : ∀ x ∈ windowList w, 1 ≤ x.bags.length ∧ x.bags.length ≤ Config.windowBags
  named : ∀ x ∈ windowList w, x.number < n
  distinct : ((windowList w).map Window.number).Nodup

/-- The law of R97 at every diverter. -/
def WindowLaw (s : State) : Prop := ∀ k, WindowsOk s.serial.window (windowsOf s k)

/-- R30: at most 32 departures. -/
def HistoryLaw (t : Tracker) : Prop := t.history.length ≤ Config.historySize

/-- R5: the measured speed is at most 4,000 mm/s. -/
def SpeedLaw (b : Belt) : Prop := b.v ≤ Config.maxSpeed

/-- R142: the hold value is what the demands ask for. -/
def HoldLaw (s : State) : Prop := s.flow.holdValue = wantedHold s

/-- R19, R118, R141: in LOADING there is no record, no expected entry and no occupancy demand. -/
def QuietLaw (s : State) : Prop :=
  s.loader.node = .loading → s.tracker.segment = [] ∧ s.handoff.expected = [] ∧ s.flow.demand = false

/-- R125, R129: no two expected entries hold the same pair. -/
def PairLaw (h : Handoff) : Prop := (h.expected.map (fun e => (e.source, e.id))).Nodup

/-- The law of R64: every waiter is a live record that waits for the plate of its entry, and no entry stands for a plate that
the cache holds with the current epoch; with what it rests on. -/
structure WaiterLaw (s : State) : Prop where
  plates : PlateLaw s.cache
  pairs : PairLaw s.handoff
  asks : ∀ q ∈ s.queries, q.plate ≠ 0 ∧ cacheHit q.plate s = none
  waiting : ∀ q ∈ s.queries, ∀ l ∈ q.waiters, ∃ v, viewLive s l = some v ∧ v.status = .awaitingAnswer ∧ v.plate = q.plate

/-- R142: the occupancy demand is set at or above the high mark and clear at or below the low mark; between them it stands as it
was. Nothing is expected, held or demanded where the blocks do not act (R19, R118, R141). -/
structure DemandLaw (s : State) : Prop where
  idle : acting s = false →
    s.tracker.segment = [] ∧ s.handoff.expected = [] ∧ s.flow.occupancy = 0 ∧ s.flow.demand = false
  marks : acting s = true → (cfg s).lowMark < (cfg s).highMark →
    ((cfg s).highMark ≤ s.flow.occupancy → s.flow.demand = true) ∧ (s.flow.occupancy ≤ (cfg s).lowMark → s.flow.demand = false)

/-- R182, check 4, with section 7.1: every source's tolerance is at least 20 mm, so that no new window end lies behind D. -/
def SourceLaw (s : State) : Prop :=
  ∀ x ∈ (cfg s).sources, x.leadIn ≤ 30000 ∧ 20 ≤ x.tolerance ∧ x.tolerance ≤ 5000

/-- R2, section 7.1: entry positions and entry floor lie within 2^29 micrometres of D, and the lengths within the range of
L_jam: then signed differences order them. -/
structure NearQueue (s : State) : Prop where
  entries : ∀ b ∈ s.tracker.segment, (posDiff s.belt.d b.entry).natAbs < 2 ^ 29 ∧ ∀ l, b.length = some l → l ≤ 5000
  floor : ∀ f, s.tracker.floor = some f → (posDiff s.belt.d f).natAbs < 2 ^ 29

/-- The law of R17: the records stand in the order of their entry positions, the known trailing end of one no later than the
entry position of any behind it; with what it rests on: the entry floor lies at or past every trailing end (R20), only the last
record is open, while EYE_IN is delivered blocked (R24), and there is none where the blocks do not act (R19). -/
structure OrderedQueue (s : State) : Prop where
  idle : acting s = false → s.tracker.segment = []
  slots : (segmentSlots s).Nodup
  ordered : s.tracker.segment.Pairwise (fun a b =>
    0 ≤ posDiff b.entry a.entry ∧ ∀ l, a.length = some l → 0 ≤ posDiff b.entry (a.entry + mm l))
  floor : ∀ a ∈ s.tracker.segment, ∀ l, a.length = some l →
    ∃ f, s.tracker.floor = some f ∧ 0 ≤ posDiff f (a.entry + mm l)
  empty : s.tracker.segment = [] → s.tracker.floor = none
  opened : ∀ a ∈ s.tracker.segment, a.length = none → s.tracker.segment.getLast? = some a ∧ s.belt.eyes.entry.delivered = true

/-- The law of R17 (OrderedQueue) in a queue near D (NearQueue), no closed length 0, as R24 bounds them from below: the entry
positions rise strictly, so that each bag stands behind every bag scheduled before it. -/
structure RisingQueue (s : State) : Prop where
  ordered : OrderedQueue s
  near : NearQueue s
  closed : ∀ b ∈ s.tracker.segment, b.length ≠ some 0

/-- The law of R89 and R107 on the decision state (R91): a decided record holds a decided outlet, the exception outlet where a
reason is assigned, and its chosen outlet is that one or 0. With what it rests on: distinct slots, and no record where the
blocks do not act (R19). -/
structure DecidedLaw (s : State) : Prop where
  idle : acting s = false → s.tracker.segment = []
  slots : (segmentSlots s).Nodup
  decided : ∀ b ∈ s.tracker.segment, isDecided b = true → ∃ o, b.decision.outlet = some o ∧
    (b.decision.assigned ≠ none → o = (cfg s).exceptionOutlet) ∧ (b.chosen = some o ∨ b.chosen = some .o0)

/-- The law of R141: the occupancy is the number of records and expected entries; with what it rests on. -/
structure OccupancyLaw (s : State) : Prop where
  segment : SegmentLaw s.tracker
  pairs : PairLaw s.handoff
  sources : SourceLaw s
  occupancy : s.flow.occupancy = s.tracker.segment.length + s.handoff.expected.length

/-- The law of R129: the expected list is ordered by X, the smallest first. -/
def OrderLaw (h : Handoff) : Prop := h.expected.Pairwise (fun a b => posDiff a.x b.x ≤ 0)

/-- Every two expected positions lie within 2^30 micrometres of each other, as the ranges of section 7.1 put them: then their
signed differences (R2) order them. -/
def NearLaw (h : Handoff) : Prop := ∀ a ∈ h.expected, ∀ b ∈ h.expected, (posDiff a.x b.x).natAbs < 2 ^ 30

/-- A live record as the duplicate check reads it (R51, R129). -/
structure LiveMark where
  created : Nat
  plate : Nat
  duplicate : Bool
  deriving DecidableEq, Repr

/-- Every live record: the segment queue and the expected list. -/
def liveMarks (s : State) : List LiveMark :=
  s.tracker.segment.map (fun b => ⟨b.created, b.plate, b.flags.duplicate⟩) ++
    s.handoff.expected.map (fun e => ⟨e.created, e.plate, e.flags.duplicate⟩)

/-- The law of R129 and R51: no nonzero plate stands in two live records unless the one created later carries DUPLICATE; with
what it rests on: distinct slots and pairs, and creation numbers below the next to be given (log 19). -/
structure DuplicateLaw (s : State) : Prop where
  slots : (segmentSlots s).Nodup
  pairs : PairLaw s.handoff
  made : ∀ x ∈ liveMarks s, x.created < s.serial.creation
  later : ∀ x ∈ liveMarks s, ∀ y ∈ liveMarks s, x.plate = y.plate → x.plate ≠ 0 → x.created < y.created → y.duplicate = true

/-- The window end of an expected entry (R128). -/
def endOf (e : ExpectedEntry) : Pos := e.x + um e.halfWidth

/-- The law of R129: the window end of every expected entry is registered, and none lies behind D; at D itself one stands only
while it waits for an entry edge of the same count (R134, log 40). -/
structure EndLaw (s : State) : Prop where
  pairs : PairLaw s.handoff
  held : ∀ e ∈ s.handoff.expected, (⟨.windowEnd e.source e.id, endOf e⟩ : Registration) ∈ s.belt.register
  ahead : ∀ e ∈ s.handoff.expected, posDiff s.belt.d (endOf e) < 0 ∨ (s.belt.awaited = some .entry ∧ endOf e = s.belt.d)

/-- The window ends lie within 2^30 micrometres ahead, and a count is shorter, as the ranges of section 7.1 and R182 put them:
then signed differences (R2) order them. -/
def EndsNear (s : State) : Prop :=
  (cfg s).scale < 2 ^ 30 ∧ ∀ e ∈ s.handoff.expected, -(2 ^ 30) < posDiff s.belt.d (endOf e)

/-- Log 40: reports held back for an edge stand only while that edge is the next command of a part out of reset. -/
def AwaitLaw (s : State) : Prop :=
  s.belt.awaited = none ∨ (s.inReset = false ∧ ∃ e rest, s.belt.awaited = some e ∧ s.pending = .eyeLeadingEdge e :: rest)

/-- R10, R101, R162, R166: the output lines follow the state. -/
def PinLaw (s : State) : Prop := s.pins = pinsOf s

/-! ## Premises of statements -/

/-- R174: a frame with this header reaches its owner: the line is not this part's, SRC is another station's number, DEST is all,
or this station where the straps give a station number. -/
structure Delivered (h : Header) (s : State) : Prop where
  listening : onLine s.bus = false
  source : stationNumber h.src = true
  other : h.src ≠ s.loader.station
  here : h.dest = 127 ∨ (stationNumber s.loader.station = true ∧ h.dest = s.loader.station)

/-- A delivered frame whose report by SRC (R123) changes nothing: its sender is not a peer in state DOWN. -/
structure Taken (h : Header) (s : State) : Prop extends Delivered h s where
  ready : Ready s
  up : peerDown s h.src = false

/-- The transmit queue takes `n` more frames without displacing or refusing one (R167, R168). -/
def Room (n : Nat) (s : State) : Prop := queueLength s.bus + n ≤ Config.transmitQueue

/-- R178: a delivered frame is counted. -/
def counted (s : State) : State := { s with bus := { s.bus with received := s.bus.received + 1 } }

/-- A frame with this payload waits for a station. -/
def Waits (dest : Byte) (p : Payload) (s : State) : Prop := ∃ q ∈ s.bus.waiting, q.dest = dest ∧ q.payload = p

/-- R40: the outstanding request is a READ under this number, for the record in a slot or for one that has left. -/
def ReadOutstanding (number : Byte) (slot : Option Nat) (s : State) : Prop :=
  ∃ timer, s.reader.outstanding = some ⟨number, .read slot, timer⟩

/-- R1: a sample of the encoder lines that is a count, in a node state that applies counts. -/
structure CountComes (a b forward : Bool) (s : State) : Prop where
  ready : Ready s
  applies : acting s = true
  direction : quadrature s.lines.encA s.lines.encB a b = some forward

/-- R1: where a count takes D. -/
def movedTo (forward : Bool) (s : State) : Pos := if forward then s.belt.d + um (cfg s).scale else s.belt.d - um (cfg s).scale

/-- The sample taken and D moved, nothing reported yet. -/
def countMoved (a b forward : Bool) (s : State) : State :=
  { s with lines := { s.lines with encA := a, encB := b }, belt := { s.belt with d := movedTo forward s } }

/-- R1, R5, R13, R15: what a count does beside its reports: D and n move, a running quiet timer starts again, and the first forward
count with the restart report armed clears the hold-off. -/
def countTaken (a b forward : Bool) (s : State) : State :=
  { s with
    lines := { s.lines with encA := a, encB := b }
    belt := { s.belt with d := movedTo forward s, n := if forward then s.belt.n + 1 else s.belt.n - 1,
                          restartArmed := s.belt.restartArmed && !forward }
    drive := { s.drive with quiet := s.drive.quiet.map (fun _ => 100) }
    holdOff := s.holdOff && !(forward && s.belt.restartArmed) }

/-- R4: a count reaches the registered position of an item, and that of no other registration. -/
structure ReachesOnly (i : Item) (p : Pos) (forward : Bool) (s : State) : Prop where
  held : (⟨i, p⟩ : Registration) ∈ s.belt.register
  here : reached (movedTo forward s) p = true
  others : ∀ y ∈ s.belt.register, y ≠ ⟨i, p⟩ → reached (movedTo forward s) y.position = false

/-- R3: the register once the registrations of some items are removed. -/
def registerWithout (items : List Item) (s : State) : List Registration :=
  s.belt.register.filter (fun y => decide (y.item ∉ items))

/-- R3, R4: the registrations of a list are reported to their owners one after another, each removed with its report. The pending
trailing edge of EYE_IN may be delivered between two of them, once it has passed the chatter filter (R7), and free values may be
taken (log 6). -/
inductive Reports : State → List Registration → State → Prop where
  | finish (s : State) : Reports s [] s
  | report {s t : State} {r : Registration} {l : List Registration} (held : r ∈ s.belt.register)
      (here : reached s.belt.d r.position = true) (rest : Reports (reportPosition r.item (withdraw r.item s)) l t) :
      Reports s (r :: l) t
  | edge {s t : State} {p : Pos} {l : List Registration} (pending : s.belt.eyes.entry.trailing = some p)
      (passed : 20000 ≤ posDiff s.belt.d p) (rest : Reports (deliverTrailing .entry s) l t) : Reports s l t
  | choose {s t : State} {l : List Registration} (rest : Reports (spendChoice s) l t) : Reports s l t

/-- R4: a list of reports in order: each item is told once, and of one owner's positions that first passed by D comes first, of two
equal ones the earlier registered. -/
structure ReportOrder (register l : List Registration) : Prop where
  once : (l.map Registration.item).Nodup
  passed : l.Pairwise (fun x y => itemOwner x.item = itemOwner y.item →
    0 < posDiff y.position x.position ∨ (y.position = x.position ∧ [x, y].Sublist register))

/-- The leading edge of an eye is the next command. -/
def EdgeWaits (e : Eye) (s : State) : Prop := ∃ rest, s.pending = .eyeLeadingEdge e :: rest

/-- The first of a list to satisfy a test. -/
def FirstOf {α : Type} (test : α → Prop) (l : List α) (x : α) : Prop :=
  ∃ pre post, l = pre ++ x :: post ∧ test x ∧ ∀ y ∈ pre, ¬ test y

/-- R106, step 2: a record is bound for a diverter placed before a position in mm. -/
def BoundBefore (s : State) (position : Nat) (b : BagRecord) : Prop :=
  ∃ k x, b.chosen = some (outletOfDiverter k) ∧ diverterCfg s k = some x ∧ x.position < position

/-- R102: the gap in micrometres of a bag with an entry position behind another; 0 while the length ahead is not known. -/
def gapTo (e : Pos) (ahead : Pos) (length : Option Nat) : Int :=
  match length with
  | none => 0
  | some l => posDiff e (ahead + mm l)

/-- The windows of a node with windows at one diverter only. -/
def windowsAt (k : Diverter) (w : DiverterWindows) : PerDiverter DiverterWindows :=
  PerDiverter.set ⟨{}, {}, {}⟩ k w

/-- The gates of a node with a gate at one outlet at most. -/
def gatesAt (o : Outlet) (g : Option Gate) : PerOutlet (Option Gate) := PerOutlet.set ⟨none, none, none, none⟩ o g

/-- R147: the point before which the only bag of a segment queue stops at an outlet: the exit eye for outlet 0, the fire point
of its unfired window for a diverter outlet. -/
def StopsBefore (s : State) (b : BagRecord) (o : Outlet) (point : Pos) : Prop :=
  (o = .o0 ∧ point = b.entry + mm (cfg s).exitPosition) ∨
    ∃ k w z, o = outletOfDiverter k ∧ s.divert.windows = windowsAt k ⟨some w, none⟩ ∧ w.fired = false ∧ w.bags = [z] ∧
      z.slot = b.slot ∧ z.departed = false ∧ point = w.fire

/-- R147: the stop position before a point at a speed: stop distance and hold margin ahead of it. -/
def stopAt (s : State) (point : Pos) (v : Nat) : Pos := point - (um (v ^ 2 * 1000 / (2 * (cfg s).aDn)) + mm (cfg s).holdMargin)

/-- R96: a destination is in the advertised reach: it is in the effective reach of an outlet that is not the exception outlet,
open if TERMINAL, UP if PEER. -/
def Advertised (s : State) (d : Nat) : Prop :=
  ∃ o r, row s o = some r ∧ o ≠ (cfg s).exceptionOutlet ∧ r.reach.getLsbD d = true ∧
    (r.kind = .terminal → r.closed = false) ∧
    (r.kind = .peer → r.learned.getLsbD d = true ∧ peerDown s r.peer = false)

/-- The law of R96 and R138: while a route table is in force the advertised reach is that of the rows, else there is no row and
it is empty; the Flow Controller keeps it. -/
structure ReachLaw (s : State) : Prop where
  idle : acting s = false → s.routes.rows = ⟨none, none, none, none⟩ ∧ s.routes.advertised = 0
  reach : ∀ d < 48, (s.routes.advertised.getLsbD d = true ↔ Advertised s d)
  kept : s.flow.reach = s.routes.advertised

/-- The law of R144: a hold lapses at most 5,100 ms after the time. -/
def ExpiryLaw (s : State) : Prop := ∀ o r e, row s o = some r → r.holdExpiry = some e → e ≤ s.time + 5100

/-- R145, R148: a gate stands at every gated outlet and at no other, and HOLD (BLOCKED) is in the stop-reason set exactly while
a latched gate stands at a held (blocked) outlet; with what it rests on: no row where the blocks do not act (R78). -/
structure GateLaw (s : State) : Prop where
  idle : acting s = false → s.routes.rows = ⟨none, none, none, none⟩
  made : ∀ o, (gateOf s o).isSome = gated s o
  hold : s.drive.reasons.hold = true ↔ ∃ o g, gateOf s o = some g ∧ g.latched = true ∧ heldOutlet s o = true
  blocked : s.drive.reasons.blocked = true ↔ ∃ o g, gateOf s o = some g ∧ g.latched = true ∧ blockedOutlet s o = true

/-- R79, R96, R138: after a route table change the advertised reach is that of the rows; one that has changed is handed to the
Flow Controller, which keeps it and in RUNNING sends it to every source. -/
structure ReachFollows (s t : State) : Prop where
  reach : ∀ d < 48, (t.routes.advertised.getLsbD d = true ↔ Advertised t d)
  same : t.routes.advertised = s.routes.advertised → t.flow.reach = s.flow.reach
  handed : t.routes.advertised ≠ s.routes.advertised → t.flow.reach = t.routes.advertised
  sent : t.routes.advertised ≠ s.routes.advertised → s.loader.node = .running →
    ∀ x ∈ (cfg s).sources, Waits x.station (.path t.routes.advertised) t

/-- R63: the ways of a set with an entry written over a way of some rank: that way takes rank 0, the ways of lower rank rise by
1 (R59). -/
def written (pre : List Way) (rank : Nat) (e : CacheEntry) (post : List Way) : List Way :=
  let risen := List.map (fun (w : Way) => if w.rank < rank then { w with rank := w.rank + 1 } else w)
  risen pre ++ ⟨0, some e⟩ :: risen post

/-- R63, R56: what the installation of an entry makes of the ways of its set. A way that holds the plate is written over by a
newer revision, or when it is of another epoch, and stands else. With none, the lowest empty way is written; with none empty, of
the ways of another epoch the one of highest rank; with none of these either, the way of rank 3. -/
structure Installs (epoch : Byte) (e : CacheEntry) (ways ways' : List Way) : Prop where
  held : ∀ pre r old post, ways = pre ++ ⟨r, some old⟩ :: post → old.plate = e.plate →
    (∀ w ∈ pre, wayHolds e.plate w = false) →
    ways' = (if (1 ≤ (e.part.revision - old.part.revision).toNat ∧ (e.part.revision - old.part.revision).toNat ≤ 32767) ∨
      old.epoch ≠ epoch then written pre r e post else ways)
  empty : (∀ w ∈ ways, wayHolds e.plate w = false) → ∀ pre r post, ways = pre ++ ⟨r, none⟩ :: post →
    (∀ w ∈ pre, w.entry ≠ none) → ways' = written pre r e post
  old : (∀ w ∈ ways, wayHolds e.plate w = false ∧ w.entry ≠ none) → ∀ pre r x post, ways = pre ++ ⟨r, some x⟩ :: post →
    x.epoch ≠ epoch → (∀ w ∈ pre ++ post, wayOld epoch w = true → w.rank < r) → ways' = written pre r e post
  last : (∀ w ∈ ways, wayHolds e.plate w = false ∧ w.entry ≠ none ∧ wayOld epoch w = false) →
    ∀ pre x post, ways = pre ++ ⟨3, some x⟩ :: post → (∀ w ∈ pre ++ post, w.rank < 3) → ways' = written pre 3 e post

/-- R62: an offer that was requested here, or whose destination a configured reach holds (R81). -/
def OfInterest (s : State) (requested : Bool) (part : ManifestPart) : Prop :=
  requested = true ∨ ∃ o x, (cfg s).outlets.get o = some x ∧ x.reach.getLsbD part.destination = true

/-- R62, R63: what an offer makes of the cache: of the current epoch and of interest it is installed in the set of its plate;
else nothing changes. -/
structure OfferTaken (plate : Nat) (part : ManifestPart) (epoch : Byte) (requested : Bool) (s t : State) : Prop where
  installed : epoch = s.cache.epoch → OfInterest s requested part →
    ∃ ways, Installs s.cache.epoch ⟨plate, part, epoch⟩ (s.cache.sets.getD (plate % 64) emptySet) ways ∧
      t.cache = { s.cache with sets := s.cache.sets.set (plate % 64) ways }
  ignored : epoch ≠ s.cache.epoch ∨ ¬ OfInterest s requested part → t.cache = s.cache

/-- R92, R93, R95: what a re-decision makes of a record, but for what the Divert Scheduler and the Flow Controller then do with
it. A DECIDED record keeps the same outlet, at the exception outlet with the new reason, elsewhere as no stray of this node's;
another is taken, and what an earlier decision here had set is taken back. A fired bag refuses another with OVERRIDE_LATE. -/
def redecided (s : State) (b : BagRecord) : BagRecord :=
  let oc := decideLines s b
  if b.tracking = .decided then
    if b.decision.outlet ≠ some oc.outlet then
      { b with decision := ⟨some oc.outlet, oc.assigned, oc.assigned.isSome⟩
               reason := oc.assigned.or (if b.decision.straySet then none else b.reason)
               flags := { b.flags with stray := (b.flags.stray && !b.decision.straySet) || oc.assigned.isSome } }
    else if oc.outlet = (cfg s).exceptionOutlet then
      { b with reason := oc.assigned.or b.reason, decision := { b.decision with assigned := oc.assigned } }
    else { b with decision := { b.decision with straySet := false } }
  else if (b.tracking = .diverting ∨ b.tracking = .releasedUnconfirmed) ∧ b.decision.outlet ≠ some oc.outlet then
    { b with flags := { b.flags with overrideLate := true } }
  else b

/-- A record without its chosen outlet and the marks of the Divert Scheduler and of the gates. -/
def BagRecord.unscheduled (b : BagRecord) : BagRecord :=
  { b with chosen := none, gatePassed := none, flags := { b.flags with atRisk := false, overrideLate := false } }

/-- R93: a re-decision moves a DECIDED record that stands in no window, or alone in the one window there is, unfired. -/
structure Moves (s : State) (r : BagRecord) : Prop where
  decided : r.tracking = .decided
  differs : r.decision.outlet ≠ some (decideLines s r).outlet
  window : s.divert.windows = ⟨{}, {}, {}⟩ ∨ ∃ k w x, s.divert.windows = windowsAt k ⟨some w, none⟩ ∧ w.fired = false ∧
    w.bags = [x] ∧ x.slot = r.slot ∧ x.departed = false ∧ r.chosen = some (outletOfDiverter k)

/-- R89, R93, R108: the only record of the queue moved by a re-decision in s: it takes the new outcome and leaves its window,
and a new reason makes a stray record, but for one that was bound for the exception outlet already. -/
def Moved (s : State) (r : BagRecord) (t : State) : Prop :=
  let oc := decideLines s r
  ∃ r', t.tracker = { s.tracker with segment := [r'] } ∧ r'.unscheduled = (redecided s r).unscheduled ∧
    r'.flags.atRisk = r.flags.atRisk ∧ (r'.chosen = some oc.outlet ∨ r'.chosen = some .o0) ∧
    (oc.outlet = .o0 → r'.chosen = some .o0 ∧ t.divert.windows = ⟨{}, {}, {}⟩ ∧
      (∀ k n, s.divert.windows.get k = ⟨some n, none⟩ →
        isHeld (.firePoint k n.number) t = false ∧ isHeld (.releasePoint k n.number) t = false)) ∧
    (∀ reason, oc.assigned = some reason → r.decision.outlet ≠ some (cfg s).exceptionOutlet →
      ∃ y, t.exc.strays.head? = some y ∧ y.reason = reason ∧ y.slot = some r.slot ∧ y.sequence = s.exc.nextSeq) ∧
    (oc.assigned = none ∨ r.decision.outlet = some (cfg s).exceptionOutlet → t.exc.strays = s.exc.strays)

/-- The records of a queue that a re-decision moves (R92). -/
def movers (s : State) (l : List BagRecord) : List BagRecord :=
  l.filter (fun b => decide (b.tracking = .decided ∧ b.decision.outlet ≠ some (decideLines s b).outlet))

/-- The frames that the re-decision of a queue may offer: a STRAY frame for each record moved, an ALERT for each counter that an
event of it freezes. -/
def redecisionFrames (s : State) (l : List BagRecord) : Nat := (movers s l).length + if l.any isDecided then 2 else 0

/-- R90, R92, R93, R95: every decided record of u is decided afresh, after a change that makes no gate. Where no window stands,
each of a queue in order near D takes its outcome, whatever its bag is then scheduled for; where none is moved all stand,
windows or not; the only record of the queue may be moved out of its window. -/
structure DecidedAfresh (u t : State) : Prop where
  every : RisingQueue u → u.divert.windows = ⟨{}, {}, {}⟩ →
    t.tracker.segment.map BagRecord.unscheduled = u.tracker.segment.map (fun b => (redecided u b).unscheduled)
  stand : movers u u.tracker.segment = [] →
    (∀ o, gated u o = true → gateOf u o = none → ∀ b ∈ u.tracker.segment, b.chosen ≠ some o) →
    t.tracker = { u.tracker with segment := u.tracker.segment.map (redecided u) } ∧ t.divert = u.divert
  moved : ∀ b, u.tracker.segment = [b] → Moves u b → Moved u b t

/-- R79, R96, R138: a route table change that has written u from s: the advertised reach follows the rows, and every decided
record is decided afresh. -/
structure TableChanged (s u t : State) : Prop where
  handoff : t.handoff = u.handoff
  reach : ReachFollows s t
  afresh : DecidedAfresh u t

/-- R66, R70, R74: a bag record and an expected entry given a manifest part, the record with the over-length rule of R23. -/
def BagRecord.given (part : ManifestPart) (b : BagRecord) : BagRecord :=
  { b with part := some (holdClass b.overLength part), status := .resolved }

def ExpectedEntry.given (part : ManifestPart) (e : ExpectedEntry) : ExpectedEntry :=
  { e with part := some part, status := .resolved }

/-- R56: a revision is newer than another. -/
def newerThan (new old : ManifestPart) : Bool :=
  decide (1 ≤ (new.revision - old.revision).toNat ∧ (new.revision - old.revision).toNat ≤ 32767)

/-- R66, R70, R73, R74, R90: a frame gives a manifest part to the bag records and expected entries of two tests, and the query
entry of its plate retires. The others stand. A decided record among those given is decided afresh with its part, as in
DecidedAfresh. Where none is decided, nothing else changes. -/
structure GivesPart (plate : Nat) (part : ManifestPart) (bags : BagRecord → Bool) (entries : ExpectedEntry → Bool)
    (s t : State) : Prop where
  queries : t.queries = s.queries.filter (fun q => decide (q.plate ≠ plate))
  expected : t.handoff =
    { s.handoff with expected := s.handoff.expected.map (fun e => if entries e then e.given part else e) }
  undecided : (∀ b ∈ s.tracker.segment, bags b = true → isDecided b = false) →
    t.tracker = { s.tracker with segment := s.tracker.segment.map (fun b => if bags b then b.given part else b) } ∧
    { t with tracker := s.tracker, handoff := s.handoff, queries := s.queries, cache := s.cache, pins := s.pins } = counted s
  every : RisingQueue s → s.divert.windows = ⟨{}, {}, {}⟩ →
    Room ((movers s ((s.tracker.segment.filter bags).map (BagRecord.given part))).length + 2) s →
    t.tracker.segment.map BagRecord.unscheduled = s.tracker.segment.map (fun b =>
      (if bags b then redecided s (b.given part) else b).unscheduled)
  stand : Room 2 s → movers s ((s.tracker.segment.filter bags).map (BagRecord.given part)) = [] →
    t.tracker = { s.tracker with segment := s.tracker.segment.map (fun b =>
      if bags b then redecided s (b.given part) else b) } ∧
    t.divert = s.divert ∧ t.flow = s.flow ∧ t.belt = s.belt ∧ t.drive = s.drive ∧ t.routes = s.routes
  moved : Room 3 s → ∀ b, s.tracker.segment = [b] → bags b = true → Moves s (b.given part) → Moved s (b.given part) t

/-- R119, R179: the flags byte of a HANDOFF; CLAIMABLE is not sent. -/
def flagsNumber (f : BagFlags) : Nat :=
  let one := fun (b : Bool) => if b then 1 else 0
  one f.duplicate + 2 * one f.mismatch + 4 * one f.ambiguous + 8 * one f.stray + 16 * one f.atRisk + 32 * one f.uncertain +
    64 * one f.overrideLate

/-- R119: the payload of the HANDOFF that a departing record opens, by its fields: its part while it is RESOLVED, its length or
else the announced one. -/
def handoffOf (id : Byte) (b : BagRecord) : HandoffPayload :=
  let sent := if b.status = .resolved then b.part else none
  { id := id, plate := BitVec.ofNat 40 b.plate, present := if sent.isSome then 1 else 0
    part := match sent with
      | some p => ⟨BitVec.ofNat 8 p.ship, BitVec.ofNat 16 p.cabin, BitVec.ofNat 8 p.destination, classCode p.cls, p.revision⟩
      | none => ⟨0, 0, 0, 0, 0⟩
    passCount := BitVec.ofNat 8 b.passCount, flags := BitVec.ofNat 8 (flagsNumber b.flags)
    length := BitVec.ofNat 16 (match b.length with
      | some l => l
      | none => b.announced.getD 0)
    reason := match b.reason with
      | some r => reasonCode r
      | none => 0 }

/-- No live record holds a plate. -/
def NoneHolds (plate : Nat) (s : State) : Prop :=
  (∀ b ∈ s.tracker.segment, b.plate ≠ plate) ∧ ∀ e ∈ s.handoff.expected, e.plate ≠ plate

/-- The header of a command that is a received frame (R174). -/
def frameHeader : Instr → Option Header
  | .handoffReceived h _ | .acceptReceived h _ | .retryReceived h _ | .pathReceived h _ | .holdReceived h _
  | .answerReceived h _ | .updateReceived h _ | .epochReceived h _ | .destCloseReceived h _ _ | .missingReceived h _ _
  | .foundReceived h _ | .statusReqReceived h _ _ | .counterClearReceived h | .announceReceived h _ | .queryReceived h _
  | .strayReceived h _ | .statusReplyReceived h _ _ _ | .alertReceived h _ => some h
  | _ => none

/-- R152: one stray record has been made: it heads the exception list under the next sequence number. -/
def MadeStray (i : StrayInfo) (s t : State) : Prop :=
  t.exc.strays = (⟨s.exc.nextSeq, BitVec.ofNat 32 (s.time / 1000), i.reason, i.plate, i.destination, i.disposition, i.related,
    i.slot⟩ :: s.exc.strays).take 32 ∧ t.exc.nextSeq = s.exc.nextSeq + 1

/-- R179: a number as k bytes, the most significant first. -/
def bigEndian (k n : Nat) : List Byte := (List.range k).map (fun i => BitVec.ofNat 8 (n / 256 ^ (k - 1 - i)))

/-- R179: a destination set as 6 bytes, the least significant first. -/
def setBytes (x : DestSet) : List Byte := (List.range 6).map (fun i => BitVec.ofNat 8 (x.toNat / 256 ^ i))

/-! ## The configuration image by its bytes (section 11.3) -/

/-- A byte of an image, and the number in two bytes, the most significant first. -/
def byteAt (img : List Byte) (i : Nat) : Nat := (img.getD i 0).toNat

def wordAt (img : List Byte) (i : Nat) : Nat := byteAt img i * 256 + byteAt img (i + 1)

/-- The configured diverters: bit k − 1 of the mask, byte 3. -/
def maskedDiverters (img : List Byte) : List Diverter :=
  ([(.d1, 0), (.d2, 1), (.d3, 2)] : List (Diverter × Nat)).filterMap (fun x =>
    if (byteAt img 3).testBit x.2 then some x.1 else none)

/-- d, the number of configured diverters. -/
def diverterCount (img : List Byte) : Nat := (maskedDiverters img).length

/-- The diverter blocks with the byte each starts at: 12 bytes each, behind header, node and belt. -/
def diverterBlocks (img : List Byte) : List (Diverter × Nat) := (maskedDiverters img).zipIdx.map (fun x => (x.1, 50 + 12 * x.2))

/-- The outlet route blocks, 9 bytes each: outlet 0, then the outlet of each configured diverter. -/
def outletBlocks (img : List Byte) : List (Outlet × Nat) :=
  (.o0 :: (maskedDiverters img).map outletOfDiverter).zipIdx.map (fun x => (x.1, 50 + 12 * diverterCount img + 9 * x.2))

/-- The source blocks, 6 bytes each. -/
def sourceBlocks (img : List Byte) : List Nat :=
  (List.range (byteAt img 4)).map (fun i => 50 + 12 * diverterCount img + 9 * (1 + diverterCount img) + 6 * i)

/-- The fields at the given bytes lie within the given ranges. -/
def InRanges (read : Nat → Nat) (ranges : List (Nat × Nat × Nat)) : Prop :=
  ∀ x ∈ ranges, x.2.1 ≤ read x.1 ∧ read x.1 ≤ x.2.2

/-- R182: the ten checks, by the bytes of the image; the edges of check 4 are log 22's. -/
structure ImageChecks (station : Byte) (img : List Byte) : Prop where
  format : byteAt img 0 = 1
  size : byteAt img 4 ≤ 3 ∧ wordAt img 1 = 61 + 21 * diverterCount img + 6 * byteAt img 4 ∧ img.length = wordAt img 1
  checksum : wordAt img (img.length - 2) = ((img.take (img.length - 2)).map BitVec.toNat).sum % 65536
  order : [byteAt img 6, byteAt img 7, byteAt img 8, byteAt img 9].Perm [0, 1, 2, 3]
  bytes : InRanges (byteAt img) [(13, 1, 48), (14, 0, 47), (15, 2, 255), (16, 1, 7), (19, 0, 12), (22, 0, 12), (25, 0, 1)]
  words : InRanges (wordAt img) [(17, 0, 1000), (20, 1, 65535), (23, 1, 65535), (26, 50, 4000), (28, 100, 4000),
    (30, 1, 1000), (32, 100, 5000), (34, 100, 5000), (36, 100, 4000), (38, 200, 5000), (40, 1000, 30000), (42, 20, 1000),
    (44, 0, 29999), (46, 1, 29999), (48, 0, 30000)]
  diverters : ∀ x ∈ diverterBlocks img, InRanges (fun i => wordAt img (x.2 + i))
    [(0, 1, 29999), (2, 0, 500), (4, 0, 1000), (6, 0, 1000), (8, 0, 1000), (10, 100, 5000)]
  outlets : ∀ x ∈ outletBlocks img, InRanges (fun i => byteAt img (x.2 + i)) [(0, 1, 2), (8, 0, 1)]
  sources : ∀ i ∈ sourceBlocks img, wordAt img (i + 1) ≤ 30000 ∧ 20 ≤ wordAt img (i + 3) ∧ wordAt img (i + 3) ≤ 5000 ∧
    byteAt img (i + 5) ≤ 1
  exception : ∃ x ∈ outletBlocks img, outletNumber x.1 = byteAt img 5
  peers : ∀ x ∈ outletBlocks img, byteAt img x.2 = 2 →
    1 ≤ byteAt img (x.2 + 1) ∧ byteAt img (x.2 + 1) ≤ 125 ∧ byteAt img (x.2 + 1) ≠ station.toNat
  senders : ∀ i ∈ sourceBlocks img, 1 ≤ byteAt img i ∧ byteAt img i ≤ 125 ∧ byteAt img i ≠ station.toNat
  distinct : ((sourceBlocks img).map (byteAt img)).Nodup
  positions : ((diverterBlocks img).map (fun x => wordAt img x.2) ++ [wordAt img 40]).Pairwise (· < ·) ∧ wordAt img 40 ≤ 30000
  lengths : wordAt img 36 < wordAt img 38 ∧ wordAt img 38 < wordAt img 46 ∧ wordAt img 44 < wordAt img 46 ∧
    wordAt img 46 + wordAt img 42 < wordAt img 40
  leads : ∀ x ∈ diverterBlocks img, wordAt img 46 * 1000 +
    (wordAt img 28 * wordAt img (x.2 + 2) + wordAt img 32 * wordAt img (x.2 + 2) ^ 2 / 2000) + 100000 ≤ wordAt img x.2 * 1000
  occupancy : byteAt img 14 < byteAt img 13

/-- Section 11.3, notes 1 and 2: a configuration that holds the fields of an image. -/
structure ImageFields (img : List Byte) (c : JunctionConfig) : Prop where
  exception : outletNumber c.exceptionOutlet = byteAt img 5
  preferred : c.preferred.map outletNumber = [byteAt img 6, byteAt img 7, byteAt img 8, byteAt img 9]
  flags : c.loopHead = (byteAt img 10).testBit 0 ∧ c.readerPresent = (byteAt img 10).testBit 1
  ships : c.ships.toNat = wordAt img 11
  marks : c.highMark = byteAt img 13 ∧ c.lowMark = byteAt img 14
  limits : c.holdQuanta = byteAt img 15 ∧ c.passLimit = byteAt img 16 ∧ c.holdMargin = wordAt img 17
  counter1 : (eventByte c.counter1.event).toNat = byteAt img 19 ∧ c.counter1.limit = wordAt img 20 ∧ c.counter1.chained = false
  counter2 : (eventByte c.counter2.event).toNat = byteAt img 22 ∧ c.counter2.limit = wordAt img 23 ∧
    c.counter2.chained = decide (byteAt img 25 = 1)
  belt : c.scale = wordAt img 26 ∧ c.vMax = wordAt img 28 ∧ c.rRun = wordAt img 30 ∧ c.aUp = wordAt img 32 ∧
    c.aDn = wordAt img 34 ∧ c.lMax = wordAt img 36 ∧ c.lJam = wordAt img 38
  places : c.exitPosition = wordAt img 40 ∧ c.exitTolerance = wordAt img 42 ∧ c.readerPosition = wordAt img 44 ∧
    c.decisionPosition = wordAt img 46 ∧ c.claimDistance = wordAt img 48
  diverters : ∀ k, c.diverters.get k = ((diverterBlocks img).lookup k).map (fun i =>
    { position := wordAt img i, travel := wordAt img (i + 2), close := wordAt img (i + 4), release := wordAt img (i + 6),
      approach := wordAt img (i + 8), confirm := wordAt img (i + 10) })
  outlets : ∀ o, (c.outlets.get o = none ↔ (outletBlocks img).lookup o = none) ∧
    ∀ i x, (outletBlocks img).lookup o = some i → c.outlets.get o = some x →
      (x.kind = .peer ↔ byteAt img i = 2) ∧ x.peer = img.getD (i + 1) 0 ∧ x.narrow = decide (byteAt img (i + 8) = 1) ∧
      ∀ d < 48, x.reach.getLsbD d = (byteAt img (i + 2 + d / 8)).testBit (d % 8)
  sources : c.sources = (sourceBlocks img).map (fun i =>
    { station := img.getD i 0, leadIn := wordAt img (i + 1), tolerance := wordAt img (i + 3),
      loopReturn := decide (byteAt img (i + 5) = 1) })

/-! ## Frames: what an event leaves as it was -/

/-- What an event of the belt, the bus or a peer leaves: the time, the queue of commands, the field lines, the Loader, D, the
late set, the epoch. -/
structure Keeps (s t : State) : Prop where
  time : t.time = s.time
  inReset : t.inReset = s.inReset
  pending : t.pending = s.pending
  lines : t.lines = s.lines
  loader : t.loader = s.loader
  d : t.belt.d = s.belt.d
  late : t.routes.late = s.routes.late
  epoch : t.cache.epoch = s.cache.epoch

/-- A bag record without its route status, its routing and scheduling, and its stray marks. -/
def BagRecord.fixed (b : BagRecord) : BagRecord :=
  { b with status := .pending, passCount := 0,
           flags := { b.flags with stray := false, atRisk := false, overrideLate := false },
           reason := none, chosen := none, tracking := .entering, decision := {}, gatePassed := none, confirm := none,
           lateStrayMade := false }

/-- An expected entry without its route status. -/
def ExpectedEntry.fixed (e : ExpectedEntry) : ExpectedEntry := { e with status := .pending }

/-- A departure without the course of its handoff. -/
def Departure.fixed (d : Departure) : Departure := { d with state := .none, attempts := 0, outgoing := none }

/-- The state with everything erased that routing, scheduling, gates, handoff courses, queries, stray records and the queue of
frames may change. What is left: the time, the lines, the Loader, D, v, n and the eyes, ESTOP, JAM, STALL and NOT_RUNNING, the
tracker's counts, every record's identity part, length and place, the history, the reader link, the cache, the rows and the late
set, the expected entries, the run counts, the transmitter and the counts of the bus but queue-drop. -/
def steady (s : State) : State :=
  { s with
    belt := { s.belt with register := [] }
    drive := { reasons := { s.drive.reasons with hold := false, blocked := false } }
    tracker := { s.tracker with segment := s.tracker.segment.map BagRecord.fixed,
                                history := s.tracker.history.map Departure.fixed }
    queries := [], routes := { s.routes with advertised := 0 }, divert := {}
    handoff := { s.handoff with peers := [], giveUps := 0, expected := s.handoff.expected.map ExpectedEntry.fixed }
    flow := { runs := s.flow.runs }, exc := {}
    bus := { s.bus with waiting := [], reports := [], due := [], queueDrop := 0 }, owed := []
    serial := { s.serial with window := 0 }, pins := {} }

/-- R28, R29: a record has departed through an outlet: it is counted, its slot is free, the others stand in their order, and the
departure heads the history. -/
structure Departs (o : Outlet) (b : BagRecord) (s t : State) : Prop where
  keeps : Keeps s t
  departed : t.tracker.departed = s.tracker.departed + 1
  entered : t.tracker.entered = s.tracker.entered
  lost : t.tracker.lost = s.tracker.lost
  slots : segmentSlots t = (segmentSlots s).filter (fun i => decide (i ≠ b.slot))
  history : t.tracker.history.head?.map Departure.fixed = some
    { plate := b.plate, outlet := o, destination := b.part.map ManifestPart.destination,
      time := BitVec.ofNat 32 (s.time / 1000), peer := (peerOf s o).getD 0, id := (peerOf s o).map (fun _ => s.handoff.nextId),
      state := .none, attempts := 0, outgoing := none }

end Sys2Proof.Machine
end

