-- ==== Sys2Proof/Certificates/Slice0/Obligations.lean ====
section
/-! DEFINITION. The statements for the provers. Where a conclusion reads `.next (drivePins u)`, u is the state the command
leaves and its output lines follow it (R10, R101, R162, R166). A count said to reach one position reaches no other that is registered
(ReachesOnly); several reached by one count are EncoderCountMovesTheBelt's (R4). -/

section
open Sys2Proof Sys2Proof.Machine

/-! ## The machine -/

/-- A step with a command waiting is that command's effect on the state with the queue's rest. -/
def Obligations.StepRunsFrontCommand : Prop :=
  ∀ (c : Instr) (rest : List Instr) (s : State), s.pending = c :: rest → step s = exec c { s with pending := rest }

/-- The model's choice (logs 1, 6) of what a step does with no command waiting: a timer that has run out queues its command, one
of several by the free choice; STALL_DETECTED is due at a count of 200 (log 30). With none a millisecond passes: every running
timer has one less, the waits of the open handoffs (R118, R120) among them, and the confirm timers in ACCEL from its entry on
(log 45); R9: two agreeing samples of a line queue its command; R136: the run counts follow FULL1 to FULL3. The boundary's
commands are queued in that step, those of the timers that reach 0 in it only in a later one (log 56). -/
def Obligations.EmptyQueueRunsTheTimeBase : Prop :=
  ∀ s : State, s.pending = [] →
    (s.inReset = true → step s = .next s) ∧
    (∀ c, s.inReset = false → dueCommands s = [c] → step s = .next { s with pending := [c] }) ∧
    (s.inReset = false → 2 ≤ (dueCommands s).length →
      ∃ c ∈ dueCommands s, step s = .next { s with pending := [c], serial := { s.serial with choice := s.serial.choice + 1 } }) ∧
    (∀ c, c ∈ dueCommands s ↔
      (c = .configReaddress ∧ s.loader.node = .loading ∧ s.loader.readdress = some 0) ∨
      (c = .listenTimeout ∧ s.loader.node = .joining ∧ s.loader.listen = some 0) ∨
      (c = .haltQuietTimeout ∧ s.drive.quiet = some 0) ∨
      (c = .stallDetected ∧ 200 ≤ s.drive.stall) ∨
      (c = .readTimeout ∧ ∃ n slot, s.reader.outstanding = some ⟨n, .read slot, 0⟩) ∨
      (c = .pollTimeout ∧ ∃ n, s.reader.outstanding = some ⟨n, .poll, 0⟩) ∨
      (c = .idleTimeout ∧ s.reader.outstanding = none ∧ s.reader.idle = some 0) ∨
      (∃ q ∈ s.queries, q.deadline ≤ s.time ∧ c = .queryDeadline q.plate) ∨
      (∃ b ∈ s.tracker.segment, b.tracking = .diverting ∧ b.confirm = some 0 ∧ c = .confirmTimeout b.slot) ∨
      (∃ d ∈ s.tracker.history, d.state = .awaitingAccept ∧ ∃ id payload, d.id = some id ∧
        ((d.outgoing = some ⟨payload, .answer 0⟩ ∧ c = .answerWaitTimeout d.peer id) ∨
          (d.outgoing = some ⟨payload, .retry 0⟩ ∧ c = .retryDelayTimeout d.peer id))) ∨
      (∃ o r e, row s o = some r ∧ r.kind = .peer ∧ r.holdExpiry = some e ∧ e ≤ s.time ∧ c = .holdExpiry o) ∨
      (c = .holdRefreshTimeout ∧ s.loader.node = .running ∧ s.flow.refresh = some 0)) ∧
    (s.inReset = false → dueCommands s = [] → ∃ taken runs queued,
      step s = .next { s with
        time := s.time + 1
        drive := { s.drive with quiet := s.drive.quiet.map (fun n => n - 1) }
        loader := { s.loader with readdress := s.loader.readdress.map (fun n => n - 1),
                                  listen := s.loader.listen.map (fun n => n - 1) }
        reader := { s.reader with idle := s.reader.idle.map (fun n => n - 1),
                                  outstanding := s.reader.outstanding.map (fun o => { o with timer := o.timer - 1 }) }
        tracker := { s.tracker with
          segment := if s.drive.state = .stopped ∨ s.drive.state = .halted then s.tracker.segment
            else s.tracker.segment.map (fun b => { b with confirm := b.confirm.map (fun n => n - 1) })
          history := s.tracker.history.map (fun d => { d with outgoing := d.outgoing.map (fun g =>
            { g with wait := match g.wait with
              | .answer ms => .answer (ms - 1)
              | .retry ms => .retry (ms - 1) }) }) }
        flow := { s.flow with refresh := s.flow.refresh.map (fun n => n - 1), runs := runs }
        lines := { s.lines with estopSample := s.lines.estop, jamclrSample := s.lines.jamclr, jamclrTaken := taken }
        pending := queued } ∧
      taken = (s.lines.jamclrTaken && (s.lines.jamclr || s.lines.jamclrSample)) ∧
      (Instr.estopAsserted ∈ queued ↔
        s.lines.estop = true ∧ s.lines.estopSample = true ∧ s.drive.reasons.estop = false) ∧
      (Instr.estopDeasserted ∈ queued ↔
        s.lines.estop = false ∧ s.lines.estopSample = false ∧ s.drive.reasons.estop = true) ∧
      (Instr.jamclrActivation ∈ queued ↔
        s.lines.jamclr = true ∧ s.lines.jamclrSample = true ∧ s.lines.jamclrTaken = false) ∧
      (∀ k,
        let closed := (row s (outletOfDiverter k)).any RouteRow.closed
        let follows := acting s && isTerminal s (outletOfDiverter k)
        runs.get k = (if follows = true ∧ s.lines.full.get k ≠ closed then s.flow.runs.get k + 1 else 0) ∧
        (Instr.chuteFullClose k ∈ queued ↔ follows = true ∧ closed = false ∧ 500 ≤ runs.get k) ∧
        (Instr.chuteFullReopen k ∈ queued ↔ follows = true ∧ closed = true ∧ 2000 ≤ runs.get k)) ∧
      (Instr.speedWindowEnd ∈ queued ↔ (s.time + 1) % 10 = 0) ∧ (Instr.rampStep ∈ queued ↔ (s.time + 1) % 10 = 0) ∧
      (Instr.epochWalkStep ∈ queued ↔ s.cache.walk.isSome = true) ∧
      (Instr.watchLapse ∈ queued ↔ (s.time + 1) % 1000 = 0 ∧
        ∃ w ∈ s.exc.watch, 600 ≤ (BitVec.ofNat 32 ((s.time + 1) / 1000) - w.added).toNat))

/-- R180, R181, R185: with a station number of 1 to 125 the part leaves reset in LOADING with every block empty and every output
at rest. With 0, 126 or 127 the node is in CONFIG_FAULT at once, with no image, an empty queue of frames and ALERT_N asserted.
The operand of RESET and the queue that outlives it are the model's (logs 4, 6). -/
def Obligations.ResetLeavesEveryBlockEmpty : Prop :=
  (∀ (r : ResetLines) (s : State), stationNumber (r.straps.setWidth 8) = true →
     exec (.reset r) s = .next { State.reset with
       pending := s.pending
       serial := { creation := 0, window := 0, choice := s.serial.choice }
       lines := { straps := r.straps, fuses := r.fuses, encA := r.encA, encB := r.encB, estop := r.estop,
                  estopSample := r.estop, jamclr := r.jamclr, jamclrSample := r.jamclr, jamclrTaken := r.jamclr,
                  full := ⟨r.full1, r.full2, r.full3⟩ }
       loader := { State.reset.loader with station := r.straps.setWidth 8, factoryId := r.fuses }
       belt := { State.reset.belt with eyes :=
         { entry := ⟨r.eyeIn, false, none⟩, exit := ⟨r.eyeX0, false, none⟩,
           confirm := ⟨⟨r.cfm1, false, none⟩, ⟨r.cfm2, false, none⟩, ⟨r.cfm3, false, none⟩⟩ } }
       drive := { State.reset.drive with reasons := ⟨r.estop, false, false, false, false, true⟩ }
       holdOff := r.estop
       bus := { State.reset.bus with lfsr := if r.fuses.setWidth 16 = 0 then 1 else r.fuses.setWidth 16 } }) ∧
  (∀ (r : ResetLines) (s : State), stationNumber (r.straps.setWidth 8) = false →
     ∃ t, exec (.reset r) s = .next t ∧ t.loader.node = .configFault ∧ t.loader.reading = false ∧ t.loader.image = none ∧
       t.loader.config = none ∧ t.loader.station = r.straps.setWidth 8 ∧ t.bus.waiting = [] ∧ t.bus.attempt = none ∧
       t.drive = { State.reset.drive with reasons := ⟨r.estop, false, false, false, false, true⟩ } ∧
       t.tracker = State.reset.tracker ∧ t.cache = State.reset.cache ∧ t.queries = [] ∧ t.routes = State.reset.routes ∧
       t.handoff = State.reset.handoff ∧ t.flow = State.reset.flow ∧ t.exc = State.reset.exc ∧ t.belt.register = [] ∧
       t.belt.eyes.entry = ⟨r.eyeIn, r.eyeIn, none⟩ ∧ t.pins = { State.reset.pins with alert := true })

/-- R180: while RESET_N is asserted the outputs are at rest and no command but RESET and RESET_N has an effect. That the state
stands until RESET clears it is the model's choice (log 9). -/
def Obligations.HeldInResetNothingHappens : Prop :=
  (∀ s : State, exec .resetNAsserted s = .next { s with inReset := true, pins := State.reset.pins }) ∧
    ∀ (c : Instr) (s : State), s.inReset = true → (∀ r, c ≠ .reset r) → c ≠ .resetNAsserted → exec c s = .next s

/-- The laws of the device hold right after reset. -/
def Obligations.LawsHoldAtReset : Prop :=
  DriveLaw State.reset.drive ∧ QueueLaw State.reset.bus ∧ EstopLaw State.reset ∧ SegmentLaw State.reset.tracker ∧
    RankLaw State.reset.cache ∧ ListLaw State.reset.exc ∧ ExpectedLaw State.reset.handoff ∧ PinLaw State.reset ∧
    State.reset.owed = [] ∧ SpeedLaw State.reset.belt ∧ HistoryLaw State.reset.tracker ∧ QueryLaw State.reset.queries ∧
    WindowLaw State.reset ∧ OrderLaw State.reset.handoff ∧ OccupancyLaw State.reset ∧ QuietLaw State.reset ∧ HoldLaw State.reset ∧
    DuplicateLaw State.reset ∧ EndLaw State.reset ∧ AwaitLaw State.reset ∧ PlateLaw State.reset.cache ∧ WaiterLaw State.reset ∧
    DemandLaw State.reset ∧ OrderedQueue State.reset ∧ DecidedLaw State.reset ∧ ReachLaw State.reset ∧ ExpiryLaw State.reset ∧
    GateLaw State.reset

/-- File 95: a command is taken whole, so each answers a next state, in every state. That one whose event cannot happen has no
effect (log 3) and one whose operands are not well formed is taken as it stands (log 10) is the model's choice. So is the queue:
that a command leaves the waiting commands as they are (logs 4, 5, 6). -/
def Obligations.EveryCommandAnswersNext : Prop :=
  ∀ (c : Instr) (s : State), ∃ t, exec c s = .next t ∧ t.pending = s.pending

/-! ## Laws that every step keeps -/

/-- R11, R13: the reference is 0 at rest, a halting reason means rest, no run is commanded while the set is not empty. R101,
R115: while ESTOP is in the set the output hold-off is set and nothing can clear it. R5: v is at most 4,000. -/
def Obligations.EveryStepKeepsDriveAndEstopLaws : Prop :=
  ∀ s t : State, step s = .next t → (DriveLaw s.drive → DriveLaw t.drive) ∧ (EstopLaw s → EstopLaw t) ∧
    (SpeedLaw s.belt → SpeedLaw t.belt)

/-- R168: the transmit queue holds at most 16 frames. -/
def Obligations.EveryStepKeepsQueueLaw : Prop :=
  ∀ s t : State, QueueLaw s.bus → step s = .next t → QueueLaw t.bus

/-- R17, R39: distinct slots, at most 32 records, as many as entered less departed less lost. R17: while the positions lie near
D the records stand in the order of their entry positions, the known trailing end of one no later than the entry position of any
behind it. R141: with no pair expected twice and sources of the configured ranges, the occupancy is the number of records and
expected entries. -/
def Obligations.EveryStepKeepsSegmentLaw : Prop :=
  (∀ s t : State, SegmentLaw s.tracker → step s = .next t → SegmentLaw t.tracker) ∧
  (∀ s t : State, OrderedQueue s → NearQueue s → step s = .next t → NearQueue t → OrderedQueue t) ∧
  (∀ s t : State, OccupancyLaw s → step s = .next t → OccupancyLaw t)

/-- R58, R59, R129, R152, R153: the ranks of every set of the route cache stay a permutation of 0 to 3, and the lists stay
within 16 expected entries, 32 stray records and 16 watch entries. R58: a plate stands in its own set, and in one valid way at
most. R64: eight queries of distinct plates at most, each with one to four waiters; every waiter is a live record that is
AWAITING_ANSWER for that plate, and none asks for a plate that the cache holds with the current epoch. R97: a window holds one
to four bags, a next one stands behind an active one only. R30: 32 departures at most. R129: the expected list stays in the
order of X while its positions lie near each other; of two live records with one nonzero plate the later created carries
DUPLICATE (R51 too); while the window ends lie near ahead of D each is registered and none lies behind D. R89, R91, R107: a
decided record has a decided outlet, the exception outlet where a reason is assigned, and its chosen outlet differs from it by
being 0 only. R96, R138: the advertised reach, which the Flow Controller keeps, is that of the rows, with no table in force
empty. R144: a hold lapses at most 5,100 ms after the time. R145: gates stand at the gated outlets; R148: HOLD (BLOCKED) is in
the set exactly while a latched one stands at a held (blocked) outlet. -/
def Obligations.EveryStepKeepsTheTables : Prop :=
  ∀ s t : State, step s = .next t →
    (RankLaw s.cache → RankLaw t.cache) ∧ (ListLaw s.exc → ListLaw t.exc) ∧ (ExpectedLaw s.handoff → ExpectedLaw t.handoff) ∧
    (QueryLaw s.queries → QueryLaw t.queries) ∧ (WindowLaw s → WindowLaw t) ∧ (HistoryLaw s.tracker → HistoryLaw t.tracker) ∧
    (OrderLaw s.handoff → NearLaw t.handoff → OrderLaw t.handoff) ∧ (DuplicateLaw s → DuplicateLaw t) ∧
    (EndLaw s → AwaitLaw s → SourceLaw s → EndsNear s → EndLaw t) ∧ (PlateLaw s.cache → PlateLaw t.cache) ∧
    (WaiterLaw s → WaiterLaw t) ∧ (DecidedLaw s → DecidedLaw t) ∧ (ReachLaw s → ReachLaw t) ∧ (ExpiryLaw s → ExpiryLaw t) ∧
    (GateLaw s → GateLaw t)

/-- The output lines follow the state after every step, and no report stays owed or still to be delivered (log 7). Reports held
back for an edge of the same count wait only while that edge is the next command: the model's form of what R37 and R134 leave
open (log 40). -/
def Obligations.EveryStepKeepsPinsInStep : Prop :=
  ∀ s t : State, step s = .next t → (PinLaw s → PinLaw t) ∧ (s.owed = [] → t.owed = []) ∧ (s.bus.due = [] → t.bus.due = []) ∧
    (AwaitLaw s → AwaitLaw t)

/-! ## Rules of the whole machine -/

/-- R11, R12: while the stop-reason set is not empty no command but RESET raises the reference. -/
def Obligations.ReferenceNeverRisesWhileStopped : Prop :=
  ∀ (c : Instr) (s t : State), DriveLaw s.drive → noReasons s.drive.reasons = false → exec c s = .next t →
    t.drive.r ≤ s.drive.r

/-- R1, R180, R182, R80, R75: D changes by an encoder count or at reset alone, the station number and factory ID at reset alone,
the configuration in force with a completed read too, the late set with a DEST_CLOSE, the epoch with an EPOCH. -/
def Obligations.SettingsChangeByTheirCommandsOnly : Prop :=
  ∀ (c : Instr) (s t : State), exec c s = .next t → (∀ r, c ≠ .reset r) →
    (t.belt.d = s.belt.d ∨
      ((∃ a b, c = .encoderCount a b) ∧ (t.belt.d = s.belt.d + um (cfg s).scale ∨ t.belt.d = s.belt.d - um (cfg s).scale))) ∧
    t.loader.station = s.loader.station ∧ t.loader.factoryId = s.loader.factoryId ∧
    ((∀ bytes, c ≠ .configReadComplete bytes) → t.loader.config = s.loader.config ∧ t.loader.image = s.loader.image) ∧
    ((∀ h d a, c ≠ .destCloseReceived h d a) → t.routes.late = s.routes.late) ∧
    ((∀ h e, c ≠ .epochReceived h e) → t.cache.epoch = s.cache.epoch)

/-- R180 to R185: every change of the node state, with the commands that make it: DUPLICATE by OWN_NUMBER_FRAME, or by a
received frame whose SRC is this station's number (log 10). CONFIG_FAULT and DUPLICATE last until reset. -/
def Obligations.NodeStateMoves : Prop :=
  ∀ (c : Instr) (s t : State), exec c s = .next t → (∀ r, c ≠ .reset r) → t.loader.node ≠ s.loader.node →
    (s.loader.node = .loading ∧ t.loader.node = .configFault ∧
        (c = .configAddressNack ∨ ∃ bytes, c = .configReadComplete bytes)) ∨
      (s.loader.node = .loading ∧ t.loader.node = .joining ∧ ∃ bytes, c = .configReadComplete bytes) ∨
      (s.loader.node = .joining ∧ t.loader.node = .running ∧ c = .listenTimeout) ∨
      (s.loader.node = .joining ∧ t.loader.node = .duplicate ∧
        ((∃ dest kind payload, c = .ownNumberFrame dest kind payload) ∨
          ∃ h, frameHeader c = some h ∧ h.src = s.loader.station))

/-- R162: after every command to a part out of reset, ALERT_N is asserted exactly while a counter is frozen or the node state is
DUPLICATE or CONFIG_FAULT; right after reset it is deasserted. -/
def Obligations.AlertLineFollowsItsCauses : Prop :=
  (∀ (c : Instr) (s t : State), exec c s = .next t → t.inReset = false →
    (t.pins.alert = true ↔ t.exc.counter1.frozen = true ∨ t.exc.counter2.frozen = true ∨ t.loader.node = .duplicate ∨
      t.loader.node = .configFault)) ∧
  State.reset.pins.alert = false ∧
  ∀ (r : ResetLines) (s t : State), stationNumber (r.straps.setWidth 8) = true → exec (.reset r) s = .next t →
    t.pins.alert = false

/-- R10, R101, R166, R171: after every command to a part out of reset: DIVk is energized exactly while the hold-off is clear and
the active window of k has fired; the drive lines follow the drive state; BUS_EN is asserted exactly while a frame or a jam is
sent. BUS_TX then carries ten bits for each byte of the frame, a 0, the bits of the byte from the least significant on and a 1,
or the 16 zeros of the jam (when each bit is sent is left out, log 11). -/
def Obligations.OutputLinesFollowTheState : Prop :=
  ∀ (c : Instr) (s t : State), exec c s = .next t → t.inReset = false →
    (∀ k, t.pins.div.get k = true ↔ t.holdOff = false ∧ ∃ w, (t.divert.windows.get k).active = some w ∧ w.fired = true) ∧
    t.pins.drvRef = t.drive.r ∧
    (t.pins.drvRun = true ↔ t.drive.state = .accel ∨ t.drive.state = .run ∨ t.drive.state = .decel) ∧
    (t.pins.busEn = true ↔ ∃ a, t.bus.attempt = some a ∧ (a.phase = .sending ∨ a.phase = .jamming)) ∧
    (EstopLaw t → t.drive.reasons.estop = true → ∀ k, t.pins.div.get k = false) ∧
    (t.pins.busEn = false → t.pins.busTx = []) ∧
    (∀ a, t.bus.attempt = some a →
      (a.phase = .sending → t.pins.busTx = (frameBytes t.loader.station a.frame.dest a.frame.payload).flatMap (fun b =>
        [false, b.getLsbD 0, b.getLsbD 1, b.getLsbD 2, b.getLsbD 3, b.getLsbD 4, b.getLsbD 5, b.getLsbD 6, b.getLsbD 7, true])) ∧
      (a.phase = .jamming → t.pins.busTx = List.replicate 16 false))

/-! ## Start-up -/

/-- R181, R182, R185: an unacknowledged address below the limit waits 5 ms, after which the memory is addressed again. The
third, or an image that fails a check, gives CONFIG_FAULT with an ANNOUNCE and an empty PATH to 127; the levels of the eyes
become the delivered ones (R6). An image passes exactly when the ten checks of R182 hold of its bytes. The checksum the ANNOUNCE
carries for a short copy (log 21) and the images at the edges of check 4 (log 22) are the model's reading. -/
def Obligations.LoadRetriesAndFails : Prop :=
  (∀ (station : Byte) (img : List Byte), imagePasses station img = true ↔ ImageChecks station img) ∧
  ∀ s : State, Ready s → s.loader.node = .loading →
    let faulted := fun (l : Loader) => { s with
      loader := { l with node := .configFault, reading := false, readdress := none }
      belt := { s.belt with eyes := adoptLevels s.belt.eyes }
      bus := { s.bus with waiting :=
        [⟨127, .announce ⟨l.factoryId, l.station, 3, announcedChecksum l⟩, 0⟩, ⟨127, .path 0, 0⟩] } }
    (s.loader.reading = true → s.loader.nacks + 1 < 3 →
      exec .configAddressNack s = .next (drivePins { s with
        loader := { s.loader with nacks := s.loader.nacks + 1, reading := false, readdress := some 5 } })) ∧
    (s.loader.readdress.isSome = true →
      exec .configReaddress s = .next (drivePins { s with loader := { s.loader with reading := true, readdress := none } })) ∧
    (s.loader.reading = true → stationNumber s.loader.station = true → s.bus.waiting = [] → s.bus.attempt = none →
      s.bus.reports = [] →
      (3 ≤ s.loader.nacks + 1 →
        exec .configAddressNack s = .next (drivePins (faulted { s.loader with nacks := s.loader.nacks + 1 }))) ∧
      (∀ bytes, imagePasses s.loader.station (bytesRead bytes) = false →
        exec (.configReadComplete bytes) s = .next (drivePins (faulted { s.loader with image := some (bytesRead bytes) }))))

/-- R182, R183: an image that passes the checks (ImageChecks; at the edges of check 4 by log 22) comes into force: the node
enters JOINING, its routes, peers and counters are those of the image, the listen time runs and an ANNOUNCE is offered. R78,
R118: each configured outlet has a row of its fields, the learned reach of a PEER outlet as configured, closed no, no hold; each
peer station stands once, UP, with no give-ups. R27: with EYE_IN blocked a jam point is registered L_jam ahead of D, and no
record is made. The configuration holds every field that section 11.3 places in the image: node, belt, diverter, outlet and
source blocks. -/
def Obligations.GoodImageEntersJoining : Prop :=
  (∀ (station : Byte) (img : List Byte), ImageChecks station img → ImageFields img (readConfig img)) ∧
  ∀ (bytes : List Byte) (s : State), Ready s → s.loader.node = .loading → s.loader.reading = true →
    ImageChecks s.loader.station (bytesRead bytes) → s.tracker.segment = [] → s.belt.register = [] →
    s.flow.gates = ⟨none, none, none, none⟩ → s.drive.reasons.hold = false → s.drive.reasons.blocked = false → Room 1 s →
    let img := bytesRead bytes
    let c := readConfig img
    ∃ t, exec (.configReadComplete bytes) s = .next t ∧
      t.loader = { s.loader with node := .joining, reading := false, readdress := none, image := some img, config := some c,
                                 listen := some 300 } ∧
      (∀ o, (row t o = none ↔ c.outlets.get o = none) ∧ ∀ x, c.outlets.get o = some x → ∃ r, row t o = some r ∧
        r.kind = x.kind ∧ r.peer = x.peer ∧ r.reach = x.reach ∧ r.narrow = x.narrow ∧ (x.kind = .peer → r.learned = x.reach) ∧
        r.closed = false ∧ r.holdExpiry = none) ∧
      (t.handoff.peers.map PeerState.station).Nodup ∧
      (∀ n, n ∈ t.handoff.peers.map PeerState.station ↔ ∃ o x, c.outlets.get o = some x ∧ x.kind = .peer ∧ x.peer = n) ∧
      (∀ p ∈ t.handoff.peers, p.down = false ∧ p.giveUps = 0) ∧
      t.routes.late = s.routes.late ∧ (∀ d < 48, (t.routes.advertised.getLsbD d = true ↔ Advertised t d)) ∧
      t.handoff = { s.handoff with peers := t.handoff.peers } ∧
      t.exc = { s.exc with counter1 := ⟨c.counter1.event, c.counter1.limit, c.counter1.chained, 0, false⟩
                           counter2 := ⟨c.counter2.event, c.counter2.limit, c.counter2.chained, 0, false⟩ } ∧
      t.reader = { s.reader with idle := if c.readerPresent then some 500 else none } ∧
      t.belt = { s.belt with
        eyes := adoptLevels s.belt.eyes
        register := if s.belt.eyes.entry.present then [⟨.jamPoint, s.belt.d + mm c.lJam⟩] else [] } ∧
      t.bus = { s.bus with waiting := s.bus.waiting ++
        [⟨127, .announce ⟨s.loader.factoryId, s.loader.station, 1, imageChecksum img⟩, 0⟩] } ∧
      t.drive = s.drive ∧ t.tracker = s.tracker ∧ t.cache = s.cache ∧ t.queries = s.queries ∧ t.divert = s.divert ∧
      t.holdOff = s.holdOff ∧ t.lines = s.lines ∧ t.time = s.time

/-- R183, R138, R143: the listen time ends: RUNNING, NOT_RUNNING leaves the set and a PATH of the advertised reach waits for
every source, a HOLD too where the hold value is not 0. A drive stopped by NOT_RUNNING alone starts up. -/
def Obligations.ListenTimeEndsInRunning : Prop :=
  ∀ s : State, Ready s → s.loader.node = .joining → s.loader.listen.isSome = true → Room (2 * (cfg s).sources.length) s →
    ∃ t, exec .listenTimeout s = .next t ∧ t.loader = { s.loader with node := .running, listen := none } ∧
      (∀ x ∈ (cfg s).sources, Waits x.station (.path s.flow.reach) t ∧
        (0 < s.flow.holdValue → Waits x.station (.hold (byteOf s.flow.holdValue)) t)) ∧
      t.flow = { s.flow with refresh := if 0 < s.flow.holdValue then some (s.flow.holdValue / 2 * 20) else none } ∧
      t.drive.reasons = { s.drive.reasons with notRunning := false } ∧
      (s.drive.state = .stopped → noReasons { s.drive.reasons with notRunning := false } = true →
        s.drive.reasons.notRunning = true → (cfg s).rRun ≠ 0 → t.drive.state = .accel ∧ t.drive.r = 0 ∧ t.pins.drvRun = true) ∧
      t.belt = s.belt ∧ t.tracker = s.tracker ∧ t.reader = s.reader ∧ t.cache = s.cache ∧ t.queries = s.queries ∧
      t.routes = s.routes ∧ t.divert = s.divert ∧ t.handoff = s.handoff ∧ t.exc = s.exc ∧ t.time = s.time

/-- R184: a frame bearing this station's number counts; in JOINING it gives DUPLICATE and empties the queue of frames, in
RUNNING it draws an ANNOUNCE unless one waits. -/
def Obligations.OwnNumberFrameIsCounted : Prop :=
  ∀ (dest kind : Byte) (payload : List Byte) (s : State), Ready s → onLine s.bus = false →
    (s.loader.node = .joining → exec (.ownNumberFrame dest kind payload) s = .next (drivePins { s with
      loader := { s.loader with duplicates := s.loader.duplicates + 1, node := .duplicate, listen := none }
      bus := { s.bus with waiting := [], attempt := none, reports := [] } })) ∧
    (s.loader.node = .running → announceWaits s = false → Room 1 s → exec (.ownNumberFrame dest kind payload) s =
      .next (drivePins { s with
        loader := { s.loader with duplicates := s.loader.duplicates + 1 }
        bus := { s.bus with waiting := s.bus.waiting ++
          [⟨127, .announce ⟨s.loader.factoryId, s.loader.station, 2, announcedChecksum s.loader⟩, 0⟩] } })) ∧
    (s.loader.node ≠ .joining → (s.loader.node = .running → announceWaits s = true) →
      exec (.ownNumberFrame dest kind payload) s =
        .next (drivePins { s with loader := { s.loader with duplicates := s.loader.duplicates + 1 } }))

/-! ## Belt distance and drive -/

/-- R1, R13, R15: a count moves D by S, whatever it reaches. It moves n by 1, restarts a running quiet timer, and the first forward
count with the restart report armed clears the hold-off; with nothing reached that is all. R4, R3: of what it reaches it reports
each position to its owner and removes it: once each, of one owner the position first passed by D first, of two equal ones the
earlier registered; left is only what an edge of the same count holds back (log 40), and reports that withdraw nothing leave out
none. Which owner comes first is a free choice (log 6). A sample that is no count, or in a node state that counts nothing, moves
nothing. ENC_A leads for forward travel. -/
def Obligations.EncoderCountMovesTheBelt : Prop :=
  (∀ (a b : Bool) (s : State), Ready s → (quadrature s.lines.encA s.lines.encB a b = none ∨ acting s = false) →
    exec (.encoderCount a b) s = .next (drivePins { s with lines := { s.lines with encA := a, encB := b } })) ∧
  (∀ (a b forward : Bool) (s : State), Ready s → acting s = true →
    quadrature s.lines.encA s.lines.encB a b = some forward →
    (∀ y ∈ s.belt.register, reached (movedTo forward s) y.position = false) →
    (∀ e p, (eyeOf s e).trailing = some p → posDiff (movedTo forward s) p < 20000) →
    exec (.encoderCount a b) s = .next (drivePins (countTaken a b forward s))) ∧
  (∀ (a b forward : Bool) (s : State), CountComes a b forward s →
    (∀ e p, e ≠ .entry → (eyeOf s e).trailing = some p → posDiff (movedTo forward s) p < 20000) →
    let d := movedTo forward s
    let taken := countTaken a b forward s
    ∃ l awaited choice v, exec (.encoderCount a b) s = .next (settle v) ∧
      Reports { taken with belt := { taken.belt with awaited := awaited }, serial := { taken.serial with choice := choice } } l v ∧
      ReportOrder s.belt.register l ∧
      (∀ r ∈ l, r ∈ s.belt.register ∧ reached d r.position = true) ∧
      (∀ r ∈ v.belt.register, reached d r.position = true →
        ∃ e, awaited = some e ∧ EdgeWaits e s ∧ itemOwner r.item = edgeOwner e ∧ r.position = d) ∧
      ((∀ e, ¬ EdgeWaits e s) → (∀ p, s.belt.eyes.entry.trailing = some p → posDiff d p < 20000) →
        (s.belt.register.map Registration.item).Nodup →
        (∀ r ∈ s.belt.register, reached d r.position = true →
          (∀ slot, r.item ≠ .decisionPosition slot ∧ r.item ≠ .lostPoint slot) ∧ ∀ k n, r.item ≠ .firePoint k n) →
        ∀ r ∈ s.belt.register, reached d r.position = true → r ∈ l)) ∧
  (∀ (a b forward : Bool) (s : State), Ready s → acting s = true → quadrature s.lines.encA s.lines.encB a b = some forward →
    ∃ t, exec (.encoderCount a b) s = .next t ∧
      Keeps { s with lines := { s.lines with encA := a, encB := b },
                     belt := { s.belt with
                       d := if forward then s.belt.d + um (cfg s).scale else s.belt.d - um (cfg s).scale } } t) ∧
  (∀ a b a' b', quadrature a b a' b' = some true ↔
    (a, b, a', b') ∈ [(false, false, true, false), (true, false, true, true), (true, true, false, true), (false, true, false, false)]) ∧
  (∀ a b a' b', quadrature a b a' b' = some false ↔ quadrature a' b' a b = some true)

/-- R5, R14: the window's speed is n × S / 10 in mm/s, at most 4,000, a higher one counted; n starts at 0 again and in RUN the
speed is judged; that the count goes to 200 at most, stays there, and STALL joins by its own command is the model's choice (log
30). R99: the fire point of every unfired window is computed afresh from the new v and registered; one already reached fires. -/
def Obligations.SpeedWindowEndMeasuresSpeed : Prop :=
  ∀ s : State, Ready s →
    let raw := s.belt.n.toNat * (cfg s).scale / 10
    let belt := { s.belt with n := 0, v := min 4000 raw,
                              overspeed := if 4000 < raw then min 65535 (s.belt.overspeed + 1) else s.belt.overspeed }
    (∃ t, exec .speedWindowEnd s = .next t ∧ steady t = steady { s with belt := belt }) ∧
    (s.divert.windows = ⟨{}, {}, {}⟩ → s.flow.gates = ⟨none, none, none, none⟩ →
      exec .speedWindowEnd s = .next (drivePins { s with
        belt := belt
        drive := { s.drive with stall :=
          if s.drive.state = .run then
            (if min 4000 raw < (cfg s).rRun * (cfg s).vMax / 1000 / 2 then min 200 (s.drive.stall + 1)
              else if s.drive.stall < 200 then 0 else s.drive.stall)
          else s.drive.stall } })) ∧
    (WindowLaw s → s.flow.gates = ⟨none, none, none, none⟩ →
      ∃ t, exec .speedWindowEnd s = .next t ∧ t.belt.d = s.belt.d ∧ t.exc = s.exc ∧ t.bus = s.bus ∧
        ∀ k x, diverterCfg s k = some x →
          (windowList (t.divert.windows.get k)).map Window.number = (windowList (s.divert.windows.get k)).map Window.number ∧
          ∀ w ∈ windowList (s.divert.windows.get k),
            (w.fired = true → w ∈ windowList (t.divert.windows.get k)) ∧
            (w.fired = false → ∀ head rest, w.bags = head :: rest →
              let fire := head.entry + mm x.position - um (leadOf { s with belt := belt } x)
              (reached s.belt.d fire = false → { w with fire := fire } ∈ windowList (t.divert.windows.get k) ∧
                isHeld (.firePoint k w.number) t = true ∧
                ∀ r ∈ t.belt.register, r.item = .firePoint k w.number → r.position = fire) ∧
              (reached s.belt.d fire = true → { w with fire := fire, fired := true } ∈ windowList (t.divert.windows.get k) ∧
                isHeld (.firePoint k w.number) t = false)))

/-- R14, R13, R8: STALL joins the set: the drive halts, the pending trailing edge of EYE_IN is discarded, the window count is 0.
So it does in RUN, where the command says that the count is 200 (logs 2, 30), and in every drive state once the count has
reached 200: a halt or DECEL of the same window end leaves it owed. Below 200 in another drive state it has no effect (log 3).
R27, R13: a count that reaches the jam point halts the drive with JAM; a drive already HALTED keeps its quiet timer. -/
def Obligations.StallHaltsTheDrive : Prop :=
  (∀ s : State, Ready s →
    (s.drive.state ≠ .run → s.drive.stall < 200 → exec .stallDetected s = .next (drivePins s)) ∧
    (s.drive.state = .run ∨ 200 ≤ s.drive.stall →
      (s.drive.reasons.stall = true →
        exec .stallDetected s = .next (drivePins { s with drive := { s.drive with stall := 0 } })) ∧
      (s.drive.reasons.stall = false → ∃ t, exec .stallDetected s = .next t ∧
        steady t = steady { s with
          drive := { s.drive with reasons := { s.drive.reasons with stall := true } }
          belt := { s.belt with eyes := { s.belt.eyes with entry := { s.belt.eyes.entry with trailing := none } } } } ∧
        t.drive.state = .halted ∧ t.drive.stall = 0 ∧ t.pins.drvRun = false ∧
        (s.drive.state ≠ .halted → t.drive.r = 0 ∧ t.drive.quiet = some 100 ∧ t.pins.drvRef = 0) ∧
        (s.drive.state = .halted → t.drive.r = s.drive.r ∧ t.drive.quiet = s.drive.quiet)))) ∧
  (∀ (a b forward : Bool) (p : Pos) (s : State), CountComes a b forward s → (∀ e, (eyeOf s e).trailing = none) →
    ReachesOnly .jamPoint p forward s → Room ((cfg s).sources.length + 2) s →
    ∃ t, exec (.encoderCount a b) s = .next t ∧ Keeps (countMoved a b forward s) t ∧
      t.belt.register = registerWithout [.jamPoint] s ∧ t.belt.eyes = s.belt.eyes ∧ t.tracker = s.tracker ∧ t.divert = s.divert ∧
      t.drive.reasons = { s.drive.reasons with jam := true } ∧
      (s.drive.reasons.jam = false → t.drive.state = .halted ∧
        (s.drive.state ≠ .halted → t.drive.r = 0 ∧ t.drive.quiet = some 100 ∧ t.pins.drvRun = false ∧
          t.drive.stall = if s.drive.stall < 200 then 0 else s.drive.stall) ∧
        (s.drive.state = .halted → t.drive.r = s.drive.r ∧ t.drive.quiet = s.drive.quiet.map (fun _ => 100))))

/-- R11, R12, R13: a ramp step raises r by step_up to r_run at most and lowers it by step_dn to 0 at least; at r_run ACCEL
becomes RUN, at 0 DECEL becomes STOPPED. In the other states nothing moves. The quiet timer runs out: STOPPED, or ACCEL from 0
when the set has emptied; one that does not run has no effect (log 3). -/
def Obligations.RampStepAndQuietTimer : Prop :=
  ∀ s : State, Ready s →
    let c := cfg s
    let up := max 1 (10 * c.aUp / c.vMax)
    let down := max 1 (10 * c.aDn / c.vMax)
    (s.drive.state = .accel → exec .rampStep s = .next (drivePins { s with drive :=
      { s.drive with r := min c.rRun (s.drive.r + up), state := if c.rRun ≤ s.drive.r + up then .run else .accel } })) ∧
    (s.drive.state = .decel → down < s.drive.r →
      exec .rampStep s = .next (drivePins { s with drive := { s.drive with r := s.drive.r - down } })) ∧
    (s.drive.state = .decel → s.drive.r ≤ down → noReasons s.drive.reasons = false →
      exec .rampStep s = .next (drivePins { s with drive := { s.drive with r := 0, state := .stopped } })) ∧
    (s.drive.state = .decel → s.drive.r ≤ down → noReasons s.drive.reasons = true → c.rRun ≠ 0 →
      exec .rampStep s = .next (drivePins { s with drive := { s.drive with r := 0, state := .accel } })) ∧
    (s.drive.state = .stopped ∨ s.drive.state = .run ∨ s.drive.state = .halted → exec .rampStep s = .next (drivePins s)) ∧
    (s.drive.quiet = none → exec .haltQuietTimeout s = .next (drivePins s)) ∧
    (s.drive.quiet.isSome = true → noReasons s.drive.reasons = false →
      exec .haltQuietTimeout s = .next (drivePins { s with drive := { s.drive with state := .stopped, quiet := none } })) ∧
    (s.drive.quiet.isSome = true → noReasons s.drive.reasons = true → c.rRun ≠ 0 →
      exec .haltQuietTimeout s =
        .next (drivePins { s with drive := { s.drive with state := .accel, r := 0, quiet := none } }))

/-- R15, R115, R13: ESTOP joins: the drive halts, every diverter output drops, the restart report is disarmed, and exactly the
live bags of fired windows whose pass position E + Lk has been reached, by the comparison of R2, gain UNCERTAIN; windows,
registrations and all else stand, a stall count of 200 too (log 30). ESTOP leaves: the restart report is armed; a halted drive
stays halted, a stopped one stays or starts by the set. Either command sets the line and its sample (log 32). -/
def Obligations.EstopJoinsAndLeaves : Prop :=
  (∀ s : State, Ready s → s.drive.reasons.estop = false →
     ∃ t, exec .estopAsserted s = .next t ∧
       { t with tracker := s.tracker, pins := s.pins } = { s with
         lines := { s.lines with estop := true, estopSample := true }
         belt := { s.belt with restartArmed := false }
         drive := { reasons := { s.drive.reasons with estop := true }, state := .halted,
                    r := if s.drive.state = .halted then s.drive.r else 0,
                    quiet := if s.drive.state = .halted then s.drive.quiet else some 100,
                    stall := if s.drive.state = .halted ∨ 200 ≤ s.drive.stall then s.drive.stall else 0 }
         holdOff := true } ∧
       { t.tracker with segment := s.tracker.segment } = s.tracker ∧
       (∀ k, t.pins.div.get k = false) ∧ t.pins.drvRun = false ∧
       ∃ marked : BagRecord → Bool,
         (∀ b, marked b = true ↔ ∃ k, ∃ x, diverterCfg s k = some x ∧ ∃ w ∈ windowList (s.divert.windows.get k),
           w.fired = true ∧ b.slot ∈ liveSlots w ∧ 0 ≤ posDiff s.belt.d (b.entry + mm x.position)) ∧
         t.tracker.segment = s.tracker.segment.map (fun b =>
           { b with flags := { b.flags with uncertain := b.flags.uncertain || marked b } })) ∧
  (∀ s : State, Ready s → s.drive.reasons.estop = true →
     let released := { s with lines := { s.lines with estop := false, estopSample := false },
                              belt := { s.belt with restartArmed := true } }
     let left := { s.drive.reasons with estop := false }
     (s.drive.state = .halted ∨ (s.drive.state = .stopped ∧ noReasons left = false) →
       exec .estopDeasserted s = .next (drivePins { released with drive := { s.drive with reasons := left } })) ∧
     (s.drive.state = .stopped → noReasons left = true → (cfg s).rRun ≠ 0 →
       exec .estopDeasserted s =
         .next (drivePins { released with drive := { s.drive with reasons := left, state := .accel, r := 0 } })))

/-- R9, R8, R6: an activation of JAMCLR_N removes JAM and STALL; EYE_IN, found clear, has its trailing edge pending. Found
blocked, it gets a new jam point (R27) where that level was delivered, and delivers its leading edge at D where it was not: a
record, or an overrun at a full queue. With neither in the set only the line's level is taken (log 32). -/
def Obligations.JamClearRemovesJamAndStall : Prop :=
  ∀ s : State, Ready s →
    let taken := { s with lines := { s.lines with jamclr := true, jamclrSample := true, jamclrTaken := true } }
    (s.drive.reasons.jam = false → s.drive.reasons.stall = false →
      exec .jamclrActivation s = .next (drivePins taken)) ∧
    (s.drive.reasons.jam = true ∨ s.drive.reasons.stall = true → s.belt.eyes.entry.present = false →
      ∃ t, exec .jamclrActivation s = .next t ∧
        steady t = steady { taken with
          drive := { s.drive with reasons := { s.drive.reasons with jam := false, stall := false } }
          belt := { s.belt with eyes := { s.belt.eyes with entry := { s.belt.eyes.entry with
            trailing := if s.belt.eyes.entry.delivered then some s.belt.d else s.belt.eyes.entry.trailing } } } } ∧
        (s.drive.state = .halted → t.drive = { s.drive with reasons := t.drive.reasons, stall := 0 })) ∧
    (s.drive.reasons.jam = true ∨ s.drive.reasons.stall = true → s.belt.eyes.entry.present = true →
      reached s.belt.d (s.belt.d + mm (cfg s).lJam) = false →
      (s.belt.eyes.entry.delivered = true → ∃ t, exec .jamclrActivation s = .next t ∧
        steady t = steady { taken with
          drive := { s.drive with reasons := { s.drive.reasons with jam := false, stall := false } } } ∧
        (⟨.jamPoint, s.belt.d + mm (cfg s).lJam⟩ : Registration) ∈ t.belt.register) ∧
      (s.belt.eyes.entry.delivered = false → acting s = true → (∀ n ∈ [(cfg s).readerPosition, (cfg s).decisionPosition,
          (cfg s).exitPosition + (cfg s).exitTolerance],
          reached s.belt.d (entryPosition s.tracker s.belt.d + mm n) = false) →
        ∃ t, exec .jamclrActivation s = .next t ∧ t.drive.reasons.jam = false ∧ t.drive.reasons.stall = false ∧
          t.belt.eyes = { s.belt.eyes with entry := { s.belt.eyes.entry with delivered := true } } ∧
          (⟨.jamPoint, s.belt.d + mm (cfg s).lJam⟩ : Registration) ∈ t.belt.register ∧
          (s.tracker.segment.length < 32 → t.tracker.entered = s.tracker.entered + 1 ∧
            segmentSlots t = segmentSlots s ++ [freeSlot s] ∧ t.tracker.overrun = s.tracker.overrun) ∧
          (32 ≤ s.tracker.segment.length → t.tracker.entered = s.tracker.entered ∧ segmentSlots t = segmentSlots s ∧
            t.tracker.overrun = s.tracker.overrun + 1)))

/-! ## Photo-eyes and the segment queue -/

/-- R6, R7: edges that deliver nothing: an eye already at the level, an eye not followed, a reblock within 20 mm (absorbed), a
leading edge of an eye whose delivered level is blocked; a trailing edge makes T pending where the delivered level is blocked.
-/
def Obligations.EyeEdgesThatDeliverNothing : Prop :=
  ∀ (e : Eye) (s : State), Ready s →
    let x := eyeOf s e
    (x.present = true → exec (.eyeLeadingEdge e) s = .next (drivePins s)) ∧
    (x.present = false → followsEye s e = false →
      exec (.eyeLeadingEdge e) s = .next (drivePins (updateEye e (fun x => { x with present := true }) s))) ∧
    (∀ p, x.present = false → followsEye s e = true → x.trailing = some p → posDiff s.belt.d p < 20000 →
      exec (.eyeLeadingEdge e) s = .next (drivePins (updateEye e (fun x => { x with present := true, trailing := none }) s))) ∧
    (x.present = false → followsEye s e = true → x.trailing = none → x.delivered = true →
      exec (.eyeLeadingEdge e) s = .next (drivePins (updateEye e (fun x => { x with present := true }) s))) ∧
    (x.present = false → exec (.eyeTrailingEdge e) s = .next (drivePins s)) ∧
    (x.present = true → followsEye s e = true → x.delivered = true → exec (.eyeTrailingEdge e) s =
      .next (drivePins (updateEye e (fun x => { x with present := false, trailing := some s.belt.d }) s))) ∧
    (x.present = true → followsEye s e = false ∨ x.delivered = false →
      exec (.eyeTrailingEdge e) s = .next (drivePins (updateEye e (fun x => { x with present := false }) s)))

/-- R20, R21, R27, R131: an arrival with no announcement makes a record at the end of the queue in the lowest free slot, with E
the position of the edge or the entry floor; it is CLAIMABLE up to its claim end, and its positions are registered. With Kc 0
the flag is cleared in the same event, wherever E lies, and no claim end is held. R22, R152: at a full queue it makes no record:
the overrun is counted and a stray record OVERRUN heads the exception list. A count that reaches the claim end of a record
clears its CLAIMABLE. -/
def Obligations.ArrivalMakesARecordOrAnOverrun : Prop :=
  (∀ (a b forward : Bool) (slot : Nat) (p : Pos) (s : State), CountComes a b forward s → (∀ e, (eyeOf s e).trailing = none) →
    ReachesOnly (.claimEnd slot) p forward s →
    ∃ t, exec (.encoderCount a b) s = .next t ∧ Keeps (countMoved a b forward s) t ∧
      t.belt.register = registerWithout [.claimEnd slot] s ∧
      t.tracker = { s.tracker with segment := s.tracker.segment.map (fun r =>
        if r.slot = slot then { r with flags := { r.flags with claimable := false } } else r) } ∧
      t.handoff = s.handoff ∧ t.divert = s.divert ∧ t.flow = s.flow ∧ t.exc = s.exc ∧ t.bus = s.bus) ∧
  ∀ s : State, Ready s → acting s = true → jammed s = false → s.belt.eyes.entry = ⟨false, false, none⟩ →
    reached s.belt.d (s.belt.d + mm (cfg s).lJam) = false →
    let e := entryPosition s.tracker s.belt.d
    let slot := freeSlot s
    let c := cfg s
    (s.tracker.segment = [] ∨ s.tracker.floor = none → e = s.belt.d) ∧
    (∀ f, s.tracker.segment ≠ [] → s.tracker.floor = some f → e = if 0 < posDiff s.belt.d f then s.belt.d else f) ∧
    (s.tracker.segment.length < 32 → slot < 32 ∧ slot ∉ segmentSlots s ∧ ∀ i < slot, i ∈ segmentSlots s) ∧
    (s.tracker.segment.length < 32 → s.handoff.expected = [] → Room (c.sources.length + 2) s →
      reached s.belt.d (e + mm c.readerPosition) = false → reached s.belt.d (e + mm c.decisionPosition) = false →
      reached s.belt.d (e + mm (c.exitPosition + c.exitTolerance)) = false →
      (c.claimDistance ≠ 0 → reached s.belt.d (e + mm c.claimDistance) = false) →
      ∃ t, exec (.eyeLeadingEdge .entry) s = .next t ∧
        t.tracker = { s.tracker with
          segment := s.tracker.segment ++ [{ newRecord s e with flags := { claimable := decide (c.claimDistance ≠ 0) } }]
          entered := s.tracker.entered + 1 } ∧
        (∀ r ∈ [(⟨.jamPoint, s.belt.d + mm c.lJam⟩ : Registration), ⟨.readerPosition slot, e + mm c.readerPosition⟩,
            ⟨.decisionPosition slot, e + mm c.decisionPosition⟩,
            ⟨.lostPoint slot, e + mm (c.exitPosition + c.exitTolerance)⟩], r ∈ t.belt.register) ∧
        (c.claimDistance ≠ 0 → (⟨.claimEnd slot, e + mm c.claimDistance⟩ : Registration) ∈ t.belt.register) ∧
        (c.claimDistance = 0 → isHeld (.claimEnd slot) t = false) ∧
        t.belt.eyes = { s.belt.eyes with entry := ⟨true, true, none⟩ } ∧ t.flow.occupancy = s.flow.occupancy + 1 ∧
        Keeps s t ∧ t.drive = s.drive ∧ t.reader = s.reader ∧ t.cache = s.cache ∧ t.queries = s.queries ∧
        t.routes = s.routes ∧ t.divert = s.divert ∧ t.handoff = s.handoff) ∧
    (32 ≤ s.tracker.segment.length → Room 3 s →
      ∃ t, exec (.eyeLeadingEdge .entry) s = .next t ∧ t.tracker = { s.tracker with overrun := s.tracker.overrun + 1 } ∧
        t.exc.strays = (⟨s.exc.nextSeq, BitVec.ofNat 32 (s.time / 1000), .overrun, none, none, .unknownObject, none, none⟩ ::
          s.exc.strays).take 32 ∧
        t.exc.nextSeq = s.exc.nextSeq + 1 ∧ (⟨.jamPoint, s.belt.d + mm c.lJam⟩ : Registration) ∈ t.belt.register ∧
        Keeps s t ∧ t.drive = s.drive ∧ t.reader = s.reader ∧ t.cache = s.cache ∧ t.queries = s.queries ∧
        t.routes = s.routes ∧ t.divert = s.divert ∧ t.handoff = s.handoff ∧ t.flow = s.flow)

/-- R23 to R26, R7, R27: the pending trailing edge of EYE_IN, delivered by the count that takes the belt 20 mm past it, closes
the length of the open record and raises the entry floor; one that does not lie past E loses the record; with no open record it
only withdraws the jam point. -/
def Obligations.TrailingEdgeClosesTheLength : Prop :=
  ∀ (a b forward : Bool) (edge : Pos) (s : State), CountComes a b forward s →
    (∀ e, e ≠ .entry → (eyeOf s e).trailing = none) → s.belt.eyes.entry.trailing = some edge →
    20000 ≤ posDiff (movedTo forward s) edge → s.divert.windows = ⟨{}, {}, {}⟩ →
    (∀ r ∈ s.belt.register, reached (movedTo forward s) r.position = false) →
    let register := s.belt.register.filter (fun r => decide (r.item ≠ .jamPoint))
    ∃ t, exec (.encoderCount a b) s = .next t ∧ Keeps (countMoved a b forward s) t ∧
      t.belt.eyes = { s.belt.eyes with entry := { s.belt.eyes.entry with delivered := false, trailing := none } } ∧
      (openRecord s = none → t.tracker = s.tracker ∧ t.belt.register = register ∧ t.flow = s.flow ∧ t.exc = s.exc ∧ t.bus = s.bus) ∧
      ∀ pre r, s.tracker.segment = pre ++ [r] → r.length = none → (∀ x ∈ pre, x.slot ≠ r.slot) →
        (0 < posDiff edge r.entry →
          let len := min (cfg s).lJam (max 20 ((posDiff edge r.entry).toNat / 1000))
          let wide := r.overLength || decide ((cfg s).lMax < len)
          let back := r.entry + mm len
          t.tracker = { s.tracker with
            segment := pre ++ [{ r with length := some len, overLength := wide, part := r.part.map (holdClass wide),
                                        tracking := if r.tracking = .entering then .onBelt else r.tracking }]
            floor := some (match s.tracker.floor with
              | none => back
              | some f => if 0 < posDiff back f then back else f) } ∧
          t.belt.register = register ∧ t.flow = s.flow ∧ t.exc = s.exc ∧ t.bus = s.bus ∧ t.divert = s.divert) ∧
        (posDiff edge r.entry ≤ 0 →
          t.tracker.lost = s.tracker.lost + 1 ∧ t.tracker.entered = s.tracker.entered ∧
            t.tracker.departed = s.tracker.departed ∧ segmentSlots t = pre.map BagRecord.slot)

/-- R130: an arrival within the window of expected entries takes the identity of the one with the smallest X, of equal ones the
earlier in the list; the entry leaves the list with its window end, and its place on a waiter list passes to the record. The
others stand. Where another live record holds the plate the record, made later, carries DUPLICATE. -/
def Obligations.ArrivalTakesItsAnnouncement : Prop :=
  ∀ (x : ExpectedEntry) (pre post : List ExpectedEntry) (s : State), Ready s → acting s = true → jammed s = false →
    s.belt.eyes.entry = ⟨false, false, none⟩ → s.tracker.segment.length < 32 → s.handoff.expected = pre ++ x :: post →
    PairLaw s.handoff → (segmentSlots s).Nodup → Room (3 * (cfg s).sources.length + 2) s →
    let e := entryPosition s.tracker s.belt.d
    let slot := freeSlot s
    let c := cfg s
    let inWindow := fun (y : ExpectedEntry) => (posDiff e y.x).natAbs ≤ y.halfWidth
    let elsewhere := x.plate ≠ 0 ∧
      ((∃ b ∈ s.tracker.segment, b.plate = x.plate) ∨ ∃ y ∈ pre ++ post, y.plate = x.plate)
    (∀ y ∈ pre, inWindow y → posDiff x.x y.x < 0) → (∀ y ∈ post, inWindow y → 0 ≤ posDiff y.x x.x) →
    reached s.belt.d (s.belt.d + mm c.lJam) = false → reached s.belt.d (e + mm c.readerPosition) = false →
    reached s.belt.d (e + mm c.decisionPosition) = false →
    reached s.belt.d (e + mm (c.exitPosition + c.exitTolerance)) = false →
    inWindow x →
    ∃ t r, exec (.eyeLeadingEdge .entry) s = .next t ∧
      t.tracker = { s.tracker with segment := s.tracker.segment ++ [r], entered := s.tracker.entered + 1 } ∧
      (elsewhere → r.flags.duplicate = true) ∧ (¬ elsewhere → r.flags.duplicate = x.flags.duplicate) ∧
      r = { newRecord s e with
        plate := x.plate, identity := .announced, source := x.source, sourceId := some x.id, part := x.part,
        status := x.status, passCount := x.passCount, reason := x.reason, announced := x.announced,
        flags := { duplicate := r.flags.duplicate, mismatch := x.flags.mismatch, ambiguous := x.flags.ambiguous,
                   stray := x.flags.stray } } ∧
      t.handoff = { s.handoff with expected := pre ++ post } ∧ isHeld (.windowEnd x.source x.id) t = false ∧
      t.queries = s.queries.map (fun q =>
        { q with waiters := q.waiters.map (fun w => if w = .entry x.source x.id then .bag slot else w) }) ∧
      Keeps s t ∧ t.drive = s.drive ∧ t.reader = s.reader ∧ t.cache = s.cache ∧ t.routes = s.routes ∧ t.divert = s.divert

/-- R31: a CFMk edge accounts for the oldest DIVERTING record bound there whose confirm timer runs. R33: an EYE_X0 edge for the
oldest within the exit tolerance that is ON_BELT, DECIDED or RELEASED_UNCONFIRMED, and with none for the oldest DIVERTING one
there. R29: it departs: its slot is free, departed rises by 1, the departure heads the history. R119: through a PEER outlet it
opens a handoff under the next id, attempt 1 with its payload. R35: at EYE_X0 a record not DECIDED for outlet 0 is misrouted: a
stray with its reason; R38: another that carries UNCERTAIN makes one stray record. R32, R36: with no record due an unknown
object is counted and no record's identity part changes; at a PEER outlet it heads the history under the next id, and a HANDOFF
of plate 0 with STRAY goes to the peer. R30: at 32 departures the oldest goes, and an open handoff that goes with it has given
up. -/
def Obligations.OutletEyesAccountForObjects : Prop :=
  (∀ (k : Diverter) (b : BagRecord) (s : State), confirmable s k = some b ↔ FirstOf (fun y =>
    y.tracking = .diverting ∧ y.chosen = some (outletOfDiverter k) ∧ y.confirm ≠ none) s.tracker.segment b) ∧
  (∀ (p : Pos) (b : BagRecord) (s : State),
    let near := fun (y : BagRecord) =>
      ((cfg s).exitPosition * 1000 : Int) - (cfg s).exitTolerance * 1000 ≤ posDiff p y.entry ∧
        posDiff p y.entry ≤ (cfg s).exitPosition * 1000 + (cfg s).exitTolerance * 1000
    let first := fun (y : BagRecord) =>
      (y.tracking = .onBelt ∨ y.tracking = .decided ∨ y.tracking = .releasedUnconfirmed) ∧ near y
    exitMatch s p = some b ↔ FirstOf first s.tracker.segment b ∨
      ((∀ y ∈ s.tracker.segment, ¬ first y) ∧ FirstOf (fun y => y.tracking = .diverting ∧ near y) s.tracker.segment b)) ∧
  ∀ (e : Eye) (o : Outlet) (due : Option BagRecord) (s : State), Ready s → acting s = true →
    eyeOf s e = ⟨false, false, none⟩ →
    (e = .exit ∧ o = .o0 ∧ due = exitMatch s s.belt.d) ∨ (∃ k, e = .confirm k ∧ o = outletOfDiverter k ∧ due = confirmable s k) →
    ∃ t, exec (.eyeLeadingEdge e) s = .next t ∧
      (∀ b, due = some b → Departs o b s t) ∧
      (∀ b, due = some b → Room ((cfg s).sources.length + 4) s → (∀ q ∈ s.handoff.peers, q.giveUps < 2) →
        s.tracker.history.length < 32 ∨ (∀ old, s.tracker.history.getLast? = some old → old.state ≠ .awaitingAccept) →
        let misrouted := e = .exit ∧ ¬ (b.tracking = .decided ∧ b.chosen = some .o0)
        let reason : StrayReason := if b.flags.uncertain then .uncertain else .misrouted
        let gone := if misrouted then { b with flags := { b.flags with stray := true }, reason := some reason } else b
        let stray := fun (reason : StrayReason) (disposition : Disposition) => MadeStray ⟨reason, disposition,
          if b.plate = 0 then none else some b.plate, b.part.map ManifestPart.destination,
          if b.source = 0 then none else some b.source, some b.slot⟩ s t
        let left : Departure := ⟨b.plate, o, b.part.map ManifestPart.destination, BitVec.ofNat 32 (s.time / 1000), 0, none, .none, 0,
          none⟩
        (misrouted → stray reason (if b.flags.uncertain then .uncertain else if (peerOf s .o0).isSome then .forwardedFlagged
          else if (cfg s).exceptionOutlet = .o0 then .exceptionOutlet else .uncertain)) ∧
        (¬ misrouted → b.flags.uncertain = true → stray .uncertain .uncertain) ∧
        (¬ misrouted → b.flags.uncertain = false → t.exc.strays = s.exc.strays) ∧
        (peerOf s o = none → t.tracker.history = left :: s.tracker.history.take 31 ∧ t.handoff.nextId = s.handoff.nextId) ∧
        (∀ peer, peerOf s o = some peer → openDeparture peer s.handoff.nextId s = none → t.tracker.history =
            { left with peer := peer, id := some s.handoff.nextId, state := .awaitingAccept, attempts := 1,
                        outgoing := some ⟨handoffOf s.handoff.nextId gone, .answer 50⟩ } :: s.tracker.history.take 31 ∧
          t.handoff.nextId = s.handoff.nextId + 1 ∧
          (s.loader.node ≠ .duplicate → Waits peer (.handoff (handoffOf s.handoff.nextId gone)) t))) ∧
      (due = none → peerOf s o = none →
        steady t = steady (updateEye e (fun x => { x with present := true, delivered := true })
          { s with tracker := { s.tracker with unknown := s.tracker.unknown + 1 } })) ∧
      (∀ peer, due = none → peerOf s o = some peer → openDeparture peer s.handoff.nextId s = none →
        s.loader.node ≠ .duplicate → Room 4 s →
        (∀ q ∈ s.handoff.peers, q.giveUps < 2) →
        let sent : HandoffPayload := ⟨s.handoff.nextId, 0, 0, ⟨0, 0, 0, 0, 0⟩, 0, 8, 0, 15⟩
        let entry : Departure := ⟨0, o, none, BitVec.ofNat 32 (s.time / 1000), peer, some s.handoff.nextId, .awaitingAccept, 1,
          some ⟨sent, .answer 50⟩⟩
        t.tracker.unknown = s.tracker.unknown + 1 ∧ t.tracker.departed = s.tracker.departed ∧
        t.tracker.segment = s.tracker.segment ∧ t.handoff.nextId = s.handoff.nextId + 1 ∧ Waits peer (.handoff sent) t ∧
        MadeStray ⟨.unknownAtOutlet, .unknownObject, none, none, some peer, none⟩ s t ∧
        (s.tracker.history.length < 32 →
          t.tracker.history = entry :: s.tracker.history ∧ t.handoff.giveUps = s.handoff.giveUps) ∧
        (32 ≤ s.tracker.history.length → ∀ old, s.tracker.history.getLast? = some old →
          t.tracker.history = entry :: s.tracker.history.take 31 ∧
          (old.state ≠ .awaitingAccept → t.handoff.giveUps = s.handoff.giveUps ∧ t.handoff.peers = s.handoff.peers) ∧
          (old.state = .awaitingAccept → t.handoff.giveUps = s.handoff.giveUps + 1 ∧
            t.handoff.peers = s.handoff.peers.map (fun q =>
              if q.station = old.peer then { q with giveUps := q.giveUps + 1 } else q))))

/-- R112, R37: a confirm timer runs out: RELEASED_UNCONFIRMED, and LOST at once where the lost point has been passed. A record
with no running timer is left alone (log 3). R37, R38: a count that reaches a lost point: a record whose confirm timer runs has
passed it; another is LOST, with a stray record that names LOST, or UNCERTAIN for one that carries it. Where the count ends at
the lost point itself and the next command is an edge of EYE_X0, either may be taken first (the form of this: log 40): the
record is LOST, or the edge is taken before it, and where the edge matches the record it departs and is not lost. -/
def Obligations.ConfirmTimerRunsOut : Prop :=
  (∀ (slot : Nat) (s : State), Ready s →
    (∀ b, findBag s slot = some b → b.tracking = .diverting → b.confirm.isSome = true → b.lostPointPassed = false →
      exec (.confirmTimeout slot) s =
        .next (drivePins (updateBag slot (fun b => { b with tracking := .releasedUnconfirmed, confirm := none }) s))) ∧
    (∀ b, findBag s slot = some b → b.tracking = .diverting → b.confirm.isSome = true → b.lostPointPassed = true →
      ∃ t, exec (.confirmTimeout slot) s = .next t ∧ t.tracker.lost = s.tracker.lost + 1 ∧
        t.tracker.departed = s.tracker.departed ∧ t.tracker.entered = s.tracker.entered ∧
        segmentSlots t = (segmentSlots s).filter (fun i => decide (i ≠ slot)) ∧ Keeps s t) ∧
    ((∀ b, findBag s slot = some b → b.tracking ≠ .diverting ∨ b.confirm = none) →
      exec (.confirmTimeout slot) s = .next (drivePins s))) ∧
  (∀ (a b forward : Bool) (p : Pos) (slot : Nat) (x : BagRecord) (s : State), CountComes a b forward s →
    (∀ e, (eyeOf s e).trailing = none) → ReachesOnly (.lostPoint slot) p forward s →
    findBag s slot = some x → (p = movedTo forward s → ¬ EdgeWaits .exit s) →
    (x.tracking = .diverting → x.confirm.isSome = true →
      ∃ t, exec (.encoderCount a b) s = .next t ∧ Keeps (countMoved a b forward s) t ∧
        t.tracker = (updateBag slot (fun b => { b with lostPointPassed := true }) s).tracker ∧
        t.belt.register = registerWithout [.lostPoint slot] s ∧
        t.flow = s.flow ∧ t.exc = s.exc ∧ t.divert = s.divert ∧ t.bus = s.bus) ∧
    (x.tracking ≠ .diverting ∨ x.confirm = none → Room ((cfg s).sources.length + 3) s →
      ∃ t, exec (.encoderCount a b) s = .next t ∧ Keeps (countMoved a b forward s) t ∧
        t.tracker.lost = s.tracker.lost + 1 ∧ t.tracker.departed = s.tracker.departed ∧ t.tracker.entered = s.tracker.entered ∧
        segmentSlots t = (segmentSlots s).filter (fun i => decide (i ≠ slot)) ∧ t.flow.occupancy = s.flow.occupancy - 1 ∧
        MadeStray ⟨if x.flags.uncertain then .uncertain else .lost, if x.flags.uncertain then .uncertain else .notPresent,
          if x.plate = 0 then none else some x.plate, x.part.map ManifestPart.destination,
          if x.source = 0 then none else some x.source, some slot⟩ s t)) ∧
  (∀ (a b forward : Bool) (slot : Nat) (x : BagRecord) (rest : List Instr) (s : State), CountComes a b forward s →
    (∀ e, (eyeOf s e).trailing = none) → ReachesOnly (.lostPoint slot) (movedTo forward s) forward s →
    s.pending = .eyeLeadingEdge .exit :: rest → s.belt.eyes.exit = ⟨false, false, none⟩ → findBag s slot = some x →
    s.divert.windows = ⟨{}, {}, {}⟩ →
    x.tracking ≠ .diverting ∨ x.confirm = none →
    ∃ t, exec (.encoderCount a b) s = .next t ∧ Keeps (countMoved a b forward s) t ∧
      ((t.belt.awaited = none ∧ t.tracker.lost = s.tracker.lost + 1 ∧ t.tracker.departed = s.tracker.departed) ∨
        (t.belt.awaited = some .exit ∧ t.tracker = s.tracker ∧ t.belt.register = s.belt.register ∧
          ∃ u, exec (.eyeLeadingEdge .exit) { t with pending := rest } = .next u ∧ u.belt.awaited = none ∧
            (exitMatch s (movedTo forward s) = some x →
              u.tracker.departed = s.tracker.departed + 1 ∧ u.tracker.lost = s.tracker.lost) ∧
            ((∀ y, exitMatch s (movedTo forward s) = some y → y.slot ≠ slot) → u.tracker.lost = s.tracker.lost + 1))))

/-! ## Reader link -/

/-- R41, R43 to R48: requests with no record to tell: a reply that is not whole is discarded; one that answers nothing
outstanding only clears the misses; the answer of a POLL, or of a READ whose record has left, ends the request; a time-out is a
miss, the third sets READER_DOWN; the idle timer sends a POLL. A timer that does not run has no effect (log 3). R47:
READER_DOWN, as it is set, gives every queued request NO_READ. R42: a count that reaches the reader position of a record sends
its READ, queues it behind an outstanding request, or at once gives NO_READ: with no reader, with READER_DOWN, or with four
queued. -/
def Obligations.ReaderLinkWithoutAResult : Prop :=
  (∀ (a b forward : Bool) (p : Pos) (slot : Nat) (x : BagRecord) (s : State), CountComes a b forward s →
    (∀ e, (eyeOf s e).trailing = none) → ReachesOnly (.readerPosition slot) p forward s →
    findBag s slot = some x →
    ∃ t, exec (.encoderCount a b) s = .next t ∧ Keeps (countMoved a b forward s) t ∧
      t.belt.register = registerWithout [.readerPosition slot] s ∧
      segmentSlots t = segmentSlots s ∧
      ((cfg s).readerPresent = true → s.reader.down = false →
        (s.reader.outstanding = none → t.tracker = s.tracker ∧ t.reader = { s.reader with
          number := s.reader.number + 1, outstanding := some ⟨s.reader.number + 1, .read (some slot), 80⟩, idle := none }) ∧
        (s.reader.outstanding.isSome = true → s.reader.queue.length < 4 →
          t.tracker = s.tracker ∧ t.reader = { s.reader with queue := s.reader.queue ++ [slot] })) ∧
      ((cfg s).readerPresent = false ∨ s.reader.down = true ∨
          (s.reader.outstanding.isSome = true ∧ 4 ≤ s.reader.queue.length) →
        t.reader = s.reader ∧ ∃ x', findBag t slot = some x' ∧ x'.held = some .noRead ∧ x'.plate = x.plate ∧
          x'.identity = (if isDecided x = true then x.identity else if x.plate = 0 then .unidentified else .announced))) ∧
  (∀ (number : Byte) (s : State), Ready s → s.reader.down = false → 2 ≤ s.reader.misses →
    let flushed := fun (t : State) => Keeps s t ∧ segmentSlots t = segmentSlots s ∧
      t.reader = { s.reader with outstanding := none, idle := some 500, misses := 3, down := true, queue := [] } ∧
      ∀ slot ∈ s.reader.queue, ∀ x, findBag s slot = some x → ∃ x', findBag t slot = some x' ∧ x'.held = some .noRead ∧
        x'.plate = x.plate ∧
        x'.identity = (if isDecided x = true then x.identity else if x.plate = 0 then .unidentified else .announced)
    (ReadOutstanding number none s → ∃ t, exec .readTimeout s = .next t ∧ flushed t) ∧
    (∀ timer, s.reader.outstanding = some ⟨number, .poll, timer⟩ → ∃ t, exec .pollTimeout s = .next t ∧ flushed t)) ∧
  ∀ (number : Byte) (plates : List Nat) (s : State), Ready s → linkActs s = true → plates.length ≤ 4 →
    let answered := { s.reader with misses := 0, down := false }
    let idled := { answered with outstanding := none, idle := some 500 }
    exec (.readReply false number plates) s = .next (drivePins s) ∧
    exec (.pollReply false number) s = .next (drivePins s) ∧
    ((∀ slot, ¬ ReadOutstanding number slot s) →
      exec (.readReply true number plates) s = .next (drivePins { s with reader := answered })) ∧
    ((∀ timer, s.reader.outstanding ≠ some ⟨number, .poll, timer⟩) →
      exec (.pollReply true number) s = .next (drivePins { s with reader := answered })) ∧
    (s.reader.queue = [] →
      (ReadOutstanding number none s →
        exec (.readReply true number plates) s = .next (drivePins { s with reader := idled })) ∧
      (∀ timer, s.reader.outstanding = some ⟨number, .poll, timer⟩ →
        exec (.pollReply true number) s = .next (drivePins { s with reader := idled }))) ∧
    (∀ slot rest, s.reader.queue = slot :: rest →
      let sent := { answered with queue := rest, number := s.reader.number + 1, idle := none,
                                  outstanding := some ⟨s.reader.number + 1, .read (some slot), 80⟩ }
      (ReadOutstanding number none s →
        exec (.readReply true number plates) s = .next (drivePins { s with reader := sent })) ∧
      (∀ timer, s.reader.outstanding = some ⟨number, .poll, timer⟩ →
        exec (.pollReply true number) s = .next (drivePins { s with reader := sent }))) ∧
    (s.reader.queue = [] →
      let missed := { idled with misses := min 3 (s.reader.misses + 1), down := s.reader.down || decide (3 ≤ s.reader.misses + 1) }
      (ReadOutstanding number none s → exec .readTimeout s = .next (drivePins { s with reader := missed })) ∧
      (∀ timer, s.reader.outstanding = some ⟨number, .poll, timer⟩ →
        exec .pollTimeout s = .next (drivePins { s with reader := missed }))) ∧
    (s.reader.outstanding = none →
      exec .readTimeout s = .next (drivePins s) ∧ exec .pollTimeout s = .next (drivePins s)) ∧
    (s.reader.outstanding = none → s.reader.idle.isSome = true →
      exec .idleTimeout s = .next (drivePins { s with reader := { s.reader with
        number := s.reader.number + 1, outstanding := some ⟨s.reader.number + 1, .poll, 80⟩, idle := none } }))

/-- R44, R49, R50: the answer to a READ of an undecided record is held in it and resolves its identity: no plate, one plate, or
several. A READ that times out resolves it with no plate (R45). R51: of a plate that it gains here and that another live record
holds, the one made later carries DUPLICATE. R52: of a decided record it changes neither the chosen outlet nor the tracking
state; a plate that differs, or several, sets STRAY and makes one stray record, a second never (log 29). -/
def Obligations.ReadReplyResolvesIdentity : Prop :=
  (∀ (number : Byte) (plates : List Nat) (slot : Nat) (b : BagRecord) (s : State), Ready s → linkActs s = true →
    plates.length ≤ 4 → ReadOutstanding number (some slot) s → findBag s slot = some b → isDecided b = false →
    ∃ t b', exec (.readReply true number plates) s = .next t ∧ Keeps s t ∧ t.reader.misses = 0 ∧ t.reader.down = false ∧
      segmentSlots t = segmentSlots s ∧ findBag t slot = some b' ∧ b'.held = some (readResult plates) ∧
      b'.entry = b.entry ∧ b'.length = b.length ∧ b'.source = b.source ∧
      (readResult plates = .noRead → b'.plate = b.plate ∧
        b'.identity = (if b.plate = 0 then .unidentified else .announced) ∧ b'.flags.mismatch = b.flags.mismatch ∧
        b'.flags.ambiguous = b.flags.ambiguous) ∧
      (∀ p, readResult plates = .one p →
        (b.plate = 0 → b'.plate = p ∧ b'.identity = .read ∧ b'.flags.mismatch = b.flags.mismatch) ∧
        (b.plate = p → p ≠ 0 → b'.plate = p ∧ b'.identity = .confirmed ∧ b'.flags.mismatch = b.flags.mismatch) ∧
        (b.plate ≠ 0 → b.plate ≠ p → b'.plate = b.plate ∧ b'.identity = .announced ∧ b'.flags.mismatch = true) ∧
        (b.plate = 0 → (segmentSlots s).Nodup → PairLaw s.handoff →
          (∀ y ∈ s.tracker.segment, y.slot ≠ slot → y.plate = p → (y.created ≤ b.created → b'.flags.duplicate = true) ∧
            (b.created < y.created → ∃ y', findBag t y.slot = some y' ∧ y'.flags.duplicate = true)) ∧
          (∀ y ∈ s.handoff.expected, y.plate = p → (y.created ≤ b.created → b'.flags.duplicate = true) ∧
            (b.created < y.created → ∃ y', findEntry t y.source y.id = some y' ∧ y'.flags.duplicate = true)) ∧
          (NoneHolds p s → b'.flags.duplicate = b.flags.duplicate))) ∧
      (∀ ps, readResult plates = .several ps → b'.plate = b.plate ∧ b'.flags.ambiguous = true ∧
        b'.flags.mismatch = b.flags.mismatch) ∧
      ∃ u b'', exec .readTimeout s = .next u ∧ Keeps s u ∧ u.reader.misses = min 3 (s.reader.misses + 1) ∧
        findBag u slot = some b'' ∧ b''.held = some .noRead ∧ b''.plate = b.plate ∧
        b''.identity = (if b.plate = 0 then .unidentified else .announced)) ∧
  (∀ (number : Byte) (plates : List Nat) (slot : Nat) (b : BagRecord) (s : State), Ready s → linkActs s = true →
    plates.length ≤ 4 → ReadOutstanding number (some slot) s → findBag s slot = some b → isDecided b = true →
    let late := fun (reason : StrayReason) (b' : BagRecord) (t : State) =>
      (b.lateStrayMade = true → b'.flags.stray = b.flags.stray ∧ b'.reason = b.reason ∧ t.exc.strays = s.exc.strays) ∧
      (b.lateStrayMade = false → b'.flags.stray = true ∧ b'.reason = some (b.reason.getD reason) ∧ b'.lateStrayMade = true ∧
        MadeStray ⟨reason,
          match b.chosen with
          | none => .uncertain
          | some o => if (peerOf s o).isSome then .forwardedFlagged
              else if o = (cfg s).exceptionOutlet then .exceptionOutlet else .uncertain,
          if b.plate = 0 then none else some b.plate, b.part.map ManifestPart.destination,
          if b.source = 0 then none else some b.source, some slot⟩ s t)
    ∃ t b', exec (.readReply true number plates) s = .next t ∧ Keeps s t ∧ segmentSlots t = segmentSlots s ∧
      t.divert = s.divert ∧ t.queries = s.queries ∧ t.cache = s.cache ∧ findBag t slot = some b' ∧
      b'.held = some (readResult plates) ∧ b'.chosen = b.chosen ∧ b'.tracking = b.tracking ∧ b'.status = b.status ∧
      b'.part = b.part ∧
      (readResult plates = .noRead → b'.plate = b.plate ∧ b'.identity = b.identity ∧ b'.flags = b.flags ∧
        t.exc.strays = s.exc.strays) ∧
      (∀ p, readResult plates = .one p →
        (b.plate = 0 → b'.plate = p ∧ b'.identity = .read ∧ t.exc.strays = s.exc.strays) ∧
        (b.plate = p → p ≠ 0 → b'.plate = p ∧ b'.flags = b.flags ∧ t.exc.strays = s.exc.strays ∧
          b'.identity = (if b.identity = .announced then .confirmed else b.identity)) ∧
        (b.plate ≠ 0 → b.plate ≠ p →
          b'.plate = b.plate ∧ b'.identity = b.identity ∧ b'.flags.mismatch = true ∧ late .mismatch b' t)) ∧
      (∀ ps, readResult plates = .several ps →
        b'.plate = b.plate ∧ b'.identity = b.identity ∧ b'.flags.ambiguous = true ∧ late .ambiguous b' t))

/-! ## Route cache and queries -/

/-- R68: a deadline: the first attempt is made again with a new deadline and a QUERY frame; after the second the entry is
failed, and in DUPLICATE at once: it leaves the table and its waiting records become UNRESOLVED. R60, R61, R64: a record that
reads the only plate of its kind is looked up: a current way gives its manifest part; a miss joins the waiters of the plate's
entry, or makes an entry with a QUERY, or fails where four wait or eight entries stand. -/
def Obligations.QueryDeadlinePasses : Prop :=
  (∀ (plate : Nat) (q : QueryEntry) (s : State), Ready s → queryFor plate s = some q →
    (q.attempts = 1 → s.loader.node ≠ .duplicate → Room 1 s →
      exec (.queryDeadline plate) s = .next (drivePins { s with
        queries := s.queries.map (fun x => if x.plate = plate then { x with attempts := 2, deadline := s.time + 200 } else x)
        bus := { s.bus with
          waiting := s.bus.waiting ++ [⟨126, .query (BitVec.ofNat 40 plate), 0⟩]
          reports := s.bus.reports.filter (fun r => decide (r ≠ .query (BitVec.ofNat 40 plate))) } })) ∧
    (q.attempts ≠ 1 ∨ s.loader.node = .duplicate → Room (2 * q.waiters.length) s →
      ∃ t, exec (.queryDeadline plate) s = .next t ∧
        t.queries = s.queries.filter (fun x => decide (x.plate ≠ plate)) ∧
        t.tracker.segment = s.tracker.segment.map (fun b =>
          if .bag b.slot ∈ q.waiters then { b with status := .unresolved } else b) ∧
        t.handoff.expected = s.handoff.expected.map (fun e =>
          if .entry e.source e.id ∈ q.waiters then { e with status := .unresolved } else e) ∧
        steady t = steady s ∧ t.drive = s.drive ∧ t.divert = s.divert ∧ t.flow = s.flow ∧ t.belt = s.belt)) ∧
  (∀ (number : Byte) (plates : List Nat) (slot p : Nat) (b : BagRecord) (s : State), Ready s → linkActs s = true →
    plates.length ≤ 4 → readResult plates = .one p → ReadOutstanding number (some slot) s → findBag s slot = some b →
    isDecided b = false → b.plate = 0 → b.part = none → b.status = .pending → NoneHolds p s → Room 6 s →
    let holding := (getSet s (p % 64)).filter (wayHolds p)
    let missed := { s.cache with misses := s.cache.misses + 1 }
    ∃ t b', exec (.readReply true number plates) s = .next t ∧ findBag t slot = some b' ∧ b'.plate = p ∧
      b'.flags = b.flags ∧ segmentSlots t = segmentSlots s ∧ t.handoff = s.handoff ∧
      (∀ rank part, holding = [⟨rank, some ⟨p, part, s.cache.epoch⟩⟩] →
        b'.status = .resolved ∧ b'.part = some (holdClass b.overLength part) ∧ t.queries = s.queries ∧
        t.cache.hits = s.cache.hits + 1 ∧ t.cache.misses = s.cache.misses) ∧
      (holding = [] ∨ (∃ rank part epoch, holding = [⟨rank, some ⟨p, part, epoch⟩⟩] ∧ epoch ≠ s.cache.epoch) →
        t.cache = missed ∧ b'.part = none ∧
        (∀ q, queryFor p s = some q →
          (q.waiters.length < 4 → b'.status = .awaitingAnswer ∧
            t.queries = s.queries.map (fun x => if x.plate = p then { x with waiters := x.waiters ++ [.bag slot] } else x)) ∧
          (4 ≤ q.waiters.length → b'.status = .unresolved ∧ t.queries = s.queries)) ∧
        (queryFor p s = none →
          (s.loader.node ≠ .duplicate → s.queries.length < 8 → b'.status = .awaitingAnswer ∧
            t.queries = s.queries ++ [⟨p, 1, s.time + 200, [.bag slot]⟩] ∧ Waits 126 (.query (BitVec.ofNat 40 p)) t) ∧
          (s.loader.node = .duplicate ∨ 8 ≤ s.queries.length → b'.status = .unresolved ∧ t.queries = s.queries))))

/-- R75, R76, R59: an EPOCH with another number becomes the current epoch and begins the walk at set 0; no way is touched yet.
One with the current number changes nothing. R75 step 2, R66: a query entry whose plate stands in a way of the new epoch is
served from it: its waiter takes the manifest part, with the over-length rule, and is RESOLVED, and the entry retires; the other
entries stand. A decided waiter is decided afresh by R66 and R90, which R75 leaves open (log 49): the same outlet stands, a
fired bag refuses another with OVERRIDE_LATE, and one alone in the queue is moved to it. A step of the walk empties the
old-epoch ways of its set and no other way; then the walk goes on to the next set or ends. -/
def Obligations.EpochTurnsOverByTheWalk : Prop :=
  (∀ (h : Header) (e : Byte) (s : State), Taken h s → acting s = true →
    (e = s.cache.epoch → exec (.epochReceived h e) s = .next (drivePins (counted s))) ∧
    (e ≠ s.cache.epoch →
      let absent := fun (q : QueryEntry) =>
        ∀ w ∈ getSet s (q.plate % 64), ∀ x, w.entry = some x → x.plate = q.plate → x.epoch ≠ e
      let turned := { counted s with cache := { s.cache with epoch := e, walk := some 0 } }
      ((∀ q ∈ s.queries, absent q) → exec (.epochReceived h e) s = .next (drivePins turned)) ∧
      (∃ t, exec (.epochReceived h e) s = .next t ∧ t.cache = turned.cache) ∧
      ∀ pre q post l rank part, s.queries = pre ++ q :: post → (∀ y ∈ pre ++ post, absent y ∧ y.plate ≠ q.plate) →
        q.waiters = [l] → (getSet s (q.plate % 64)).filter (wayHolds q.plate) = [⟨rank, some ⟨q.plate, part, e⟩⟩] →
        let served := { turned with queries := pre ++ post }
        let given := BagRecord.given part
        (∀ source id, l = .entry source id → exec (.epochReceived h e) s = .next (drivePins { served with
          handoff := { s.handoff with expected := s.handoff.expected.map (fun x =>
            if x.source = source ∧ x.id = id then { x with part := some part, status := .resolved } else x) } })) ∧
        (∀ slot b, l = .bag slot → findBag s slot = some b → isDecided b = false →
          exec (.epochReceived h e) s = .next (drivePins { served with
            tracker := { s.tracker with segment := s.tracker.segment.map (fun x => if x.slot = slot then given x else x) } })) ∧
        (∀ slot b, l = .bag slot → findBag s slot = some b → (segmentSlots s).Nodup → isDecided b = true →
          Room ((movers s [given b]).length + 2) s →
          ∃ t, exec (.epochReceived h e) s = .next t ∧ t.queries = pre ++ post ∧
            (movers s [given b] = [] → t.divert = s.divert ∧ t.tracker = { s.tracker with
              segment := s.tracker.segment.map (fun x => if x.slot = slot then redecided s (given x) else x) }) ∧
            (s.tracker.segment = [b] → Moves s (given b) → Moved s (given b) t)))) ∧
  (∀ (i : Nat) (s : State), Ready s → s.cache.walk = some i → i < 64 → s.cache.sets.length = 64 →
    ∃ ways, exec .epochWalkStep s = .next (drivePins { s with cache := { s.cache with
        sets := s.cache.sets.set i ways, walk := if i = 63 then none else some (i + 1) } }) ∧
      ways.map Way.entry = (getSet s i).map (fun w =>
        if w.entry.any (fun e => decide (e.epoch ≠ s.cache.epoch)) then none else w.entry) ∧
      (((getSet s i).map Way.rank).Perm [0, 1, 2, 3] → (ways.map Way.rank).Perm [0, 1, 2, 3]))

/-- R70, R66, R23: an ANSWER of kind found serves every waiter of its query, then every live record of the plate that is
UNRESOLVED: each takes the manifest part, a bag record with the over-length rule, and is RESOLVED; the entry leaves the table.
R66, R90, R92, R93, R95: a decided record among them, in a queue in order, is decided afresh: the same outlet stands, a fired
bag refuses another with OVERRIDE_LATE, and one alone in the queue is moved to it. R67: the answer of an unknown plate fails
every waiter. R62, R63: the part, of the current epoch, is then installed in the cache; one that was not requested here only
where a configured reach holds its destination. An installation writes over a way that holds the plate by a newer revision or
another epoch; else the lowest empty way, else the way of another epoch of highest rank, else that of rank 3; R59 ranks the set.
-/
def Obligations.AnswerServesTheWaiter : Prop :=
  ∀ (h : Header) (p : AnswerPayload) (s : State), Taken h s → acting s = true → plateValid p.plate.toNat = true →
    (segmentSlots s).Nodup → PairLaw s.handoff →
    let plate := p.plate.toNat
    let waiter := fun (l : Live) => (queryFor plate s).any (fun q => decide (l ∈ q.waiters))
    (∀ part, p.found = 1 → readManifest p.part = some part → RankLaw s.cache → s.cache.sets.length = 64 →
      ∃ t, exec (.answerReceived h p) s = .next t ∧ OfferTaken plate part p.epoch (queryFor plate s).isSome s t ∧
        GivesPart plate part (fun b => waiter (.bag b.slot) || decide (b.plate = plate ∧ b.status = .unresolved))
          (fun e => waiter (.entry e.source e.id) || decide (e.plate = plate ∧ e.status = .unresolved)) s t) ∧
    (p.found = 0 → Room 2 s →
      ∃ t, exec (.answerReceived h p) s = .next t ∧
        t.tracker = { s.tracker with segment := s.tracker.segment.map (fun x =>
          if waiter (.bag x.slot) then { x with status := .unresolved } else x) } ∧
        t.handoff = { s.handoff with expected := s.handoff.expected.map (fun e =>
          if waiter (.entry e.source e.id) then { e with status := .unresolved } else e) } ∧
        t.queries = s.queries.filter (fun x => decide (x.plate ≠ plate)) ∧ t.cache = s.cache ∧
        steady t = steady (counted s)) ∧
    (p.found ≠ 0 → (p.found = 1 → readManifest p.part = none) →
      exec (.answerReceived h p) s = .next (drivePins (counted s)))

/-- R72, R73, R74, R56: an UPDATE serves every waiter of the query for its plate, as one requested here, and the entry leaves
the table; then it gives its manifest part to every live record of the plate that is UNRESOLVED, or RESOLVED with an older
revision. The others it leaves. R66, R90, R92, R93, R95: a decided record among those given, in a queue in order, is decided
afresh: the same outlet stands, a fired bag refuses another with OVERRIDE_LATE, and one alone in the queue is moved to it. R62,
R63: the part is offered to the cache; not requested here, it is installed where its epoch is the current one and a configured
reach holds its destination. One that is not well-formed is discarded (R55). -/
def Obligations.UpdateReplacesOlderParts : Prop :=
  ∀ (h : Header) (p : UpdatePayload) (s : State), Taken h s → acting s = true → plateValid p.plate.toNat = true →
    (segmentSlots s).Nodup → PairLaw s.handoff →
    let plate := p.plate.toNat
    let waiter := fun (l : Live) => (queryFor plate s).any (fun q => decide (l ∈ q.waiters))
    (∀ part, readManifest p.part = some part → RankLaw s.cache → s.cache.sets.length = 64 →
      let changes := fun (status : RouteStatus) (old : Option ManifestPart) =>
        decide (status = .unresolved) || (decide (status = .resolved) && old.any (newerThan part))
      ∃ t, exec (.updateReceived h p) s = .next t ∧ OfferTaken plate part p.epoch (queryFor plate s).isSome s t ∧
        GivesPart plate part (fun b => waiter (.bag b.slot) || (decide (b.plate = plate) && changes b.status b.part))
          (fun e => waiter (.entry e.source e.id) || (decide (e.plate = plate) && changes e.status e.part)) s t) ∧
    (readManifest p.part = none → exec (.updateReceived h p) s = .next (drivePins (counted s)))

/-! ## Routes, diverters and holds -/

/-- R136: a chute-full line that closes or reopens a TERMINAL outlet writes its closed field and sets its run count to 0; the
row of every other outlet stands. At another outlet only the level of the line is taken. Where the field stands nothing else
changes. Where it changes: R79, R96, R138: the advertised reach follows, and a changed one is kept and sent to every source in
RUNNING; R90, R92, R93, R95: every decided record of a queue in order is decided afresh: the same outlet stands, a fired bag
refuses another with OVERRIDE_LATE, and one alone in the queue is moved to it. -/
def Obligations.ChuteFullWritesClosed : Prop :=
  ∀ (k : Diverter) (closed : Bool) (s : State), Ready s →
    let command := if closed then Instr.chuteFullClose k else Instr.chuteFullReopen k
    let taken := { s with lines := { s.lines with full := s.lines.full.set k closed } }
    let written := { taken with
      flow := { s.flow with runs := s.flow.runs.set k 0 }
      routes := { s.routes with
        rows := s.routes.rows.set (outletOfDiverter k)
          ((row s (outletOfDiverter k)).map (fun r => { r with closed := closed })) } }
    (followsChute s k = false → exec command s = .next (drivePins taken)) ∧
    (followsChute s k = true → ∃ t, exec command s = .next t ∧ steady t = steady written ∧
      ∀ r, row s (outletOfDiverter k) = some r →
        (r.closed = closed → t.routes = s.routes ∧ t.flow.reach = s.flow.reach ∧ t.bus = s.bus) ∧
        (r.closed ≠ closed → (segmentSlots s).Nodup →
          Room ((cfg s).sources.length + redecisionFrames written s.tracker.segment) s → TableChanged s written t))

/-- R80, R140, R144: a PATH writes the learned reach, a HOLD the hold expiry, of every PEER outlet whose peer sent it, and of no
other; a HOLD of 0 ends the hold. R79, R96, R138: a PATH that changes learned reaches, one table change (log 44), moves the
advertised reach, and a changed one is kept and sent to every source in RUNNING; a HOLD or a DEST_CLOSE leaves it (R96).
DEST_CLOSE with action 1 adds its destinations to the late set, with action 0 removes them, with another action does nothing.
R90, R92, R93, R95: where a learned reach or the late set changes every decided record of a queue in order is decided afresh:
the same outlet stands, a fired bag refuses another with OVERRIDE_LATE, and one alone in the queue is moved to it. R58, R118,
R120, R121, R153: in LOADING and CONFIG_FAULT these frames and the others whose owners take none there are counted and no more.
-/
def Obligations.FramesWriteTheRouteTable : Prop :=
  (∀ (h : Header) (s : State), Taken h s → acting s = true →
    let rows := fun (f : RouteRow → RouteRow) =>
      let on := fun (r : RouteRow) => if r.kind = .peer ∧ r.peer = h.src then f r else r
      (⟨s.routes.rows.o0.map on, s.routes.rows.o1.map on, s.routes.rows.o2.map on, s.routes.rows.o3.map on⟩ :
        PerOutlet (Option RouteRow))
    (∀ reach, ∃ t, exec (.pathReceived h reach) s = .next t ∧
      let written := { counted s with routes := { s.routes with rows := rows (fun r => { r with learned := reach }) } }
      steady t = steady written ∧
      ((∀ o r, row s o = some r → r.kind = .peer → r.peer = h.src → r.learned = reach) →
        t.routes = s.routes ∧ t.flow.reach = s.flow.reach ∧ t.bus = (counted s).bus) ∧
      ((∃ o r, row s o = some r ∧ r.kind = .peer ∧ r.peer = h.src ∧ r.learned ≠ reach) →
        (segmentSlots s).Nodup → Room ((cfg s).sources.length + redecisionFrames written s.tracker.segment) s →
        TableChanged s written t)) ∧
    (∀ quanta, ∃ t, exec (.holdReceived h quanta) s = .next t ∧
      let expiry := if quanta = 0 then none else some (s.time + quanta.toNat * 20)
      steady t = steady { counted s with routes := { s.routes with rows := rows (fun r => { r with holdExpiry := expiry }) } } ∧
      ((∀ b ∈ s.tracker.segment, isDecided b = false) → t.routes.advertised = s.routes.advertised ∧
        t.flow.reach = s.flow.reach ∧ t.bus = (counted s).bus)) ∧
    (∀ (d : DestSet) (action : Byte),
      (∃ t, exec (.destCloseReceived h d action) s = .next t ∧
        let late :=
          if action = 1 then s.routes.late ||| d else if action = 0 then s.routes.late &&& ~~~d else s.routes.late
        let written := { counted s with routes := { s.routes with late := late } }
        steady t = steady written ∧ t.routes = written.routes ∧ t.flow.reach = s.flow.reach ∧
        (late = s.routes.late ∨ (∀ b ∈ s.tracker.segment, isDecided b = false) → t.bus = (counted s).bus) ∧
        (late ≠ s.routes.late → (segmentSlots s).Nodup → Room (redecisionFrames written s.tracker.segment) s →
          DecidedAfresh written t)) ∧
      (action ≠ 0 → action ≠ 1 → exec (.destCloseReceived h d action) s = .next (drivePins (counted s))))) ∧
  (∀ (h : Header) (c : Instr) (s : State), Ready s → Delivered h s →
    s.loader.node = .loading ∨ s.loader.node = .configFault →
    (∃ id, c = .acceptReceived h id ∨ c = .retryReceived h id) ∨ (∃ reach, c = .pathReceived h reach) ∨
      (∃ quanta, c = .holdReceived h quanta) ∨ (∃ p, c = .answerReceived h p) ∨ (∃ p, c = .updateReceived h p) ∨
      (∃ e, c = .epochReceived h e) ∨ (∃ d a, c = .destCloseReceived h d a) ∨ (∃ p r, c = .missingReceived h p r) ∨
      (∃ p, c = .foundReceived h p) ∨ (∃ p, c = .handoffReceived h p) →
    exec c s = .next (drivePins (counted s)))

/-- R144, R145: a hold lapses: the outlet is no longer held, and its gate goes unless the outlet is blocked. An outlet that is
not held is left alone (log 3). The gate of outlet 0, or of a diverter outlet at which the bag's window has not fired: R145 to
R147, R149: the HOLD that makes it takes up the first record bound there, at E + L0, or at the fire point of its window, less
the stop distance and the hold margin; one past it is an overrun. R147: a speed window moves the stop position, at a diverter
with the new fire point; a window that fires there frees its bag (R146). R148: a count that reaches it latches the gate, and
HOLD or BLOCKED joins the set; R150: they leave with the gate. -/
def Obligations.HoldLapses : Prop :=
  (∀ (o : Outlet) (s : State), Ready s →
    (heldOutlet s o = false → exec (.holdExpiry o) s = .next (drivePins s)) ∧
    (heldOutlet s o = true → ∃ t, exec (.holdExpiry o) s = .next t ∧ heldOutlet t o = false ∧
      (blockedOutlet s o = false → gateOf t o = none) ∧
      steady t = steady { s with routes := { s.routes with
        rows := s.routes.rows.set o ((row s o).map (fun r => { r with holdExpiry := none })) } })) ∧
  (∀ (o : Outlet) (b : BagRecord) (point : Pos) (s : State), Ready s → acting s = true → s.tracker.segment = [b] →
    b.chosen = some o → b.tracking = .decided → b.gatePassed ≠ some o → StopsBefore s b o point →
    let gate := fun (p : Pos) (latched : Bool) => (⟨some b.slot, some p, latched⟩ : Gate)
    (∀ (h : Header) (r : RouteRow) (quanta : Byte), Taken h s → row s o = some r → r.kind = .peer → r.peer = h.src →
      quanta ≠ 0 → heldOutlet s o = false → blockedOutlet s o = false → s.flow.gates = ⟨none, none, none, none⟩ →
      (∀ o', o' ≠ o → ∀ r', row s o' = some r' → r'.kind = .terminal) → Room 2 s →
      ∃ t, exec (.holdReceived h quanta) s = .next t ∧
        (reached s.belt.d (stopAt s point s.belt.v) = false →
          t.flow.gates = gatesAt o (some (gate (stopAt s point s.belt.v) false)) ∧ t.flow.overruns = s.flow.overruns ∧
          (⟨.stopPosition o, stopAt s point s.belt.v⟩ : Registration) ∈ t.belt.register ∧ t.tracker = s.tracker) ∧
        (reached s.belt.d (stopAt s point s.belt.v) = true →
          t.flow.gates = gatesAt o (some ⟨none, none, false⟩) ∧ t.flow.overruns = s.flow.overruns + 1 ∧
          t.tracker = { s.tracker with segment := [{ b with gatePassed := some o }] })) ∧
    (∀ (x y forward : Bool) (p : Pos), CountComes x y forward s → (∀ e, (eyeOf s e).trailing = none) →
      ReachesOnly (.stopPosition o) p forward s →
      s.flow.gates = gatesAt o (some (gate p false)) →
      ∃ t, exec (.encoderCount x y) s = .next t ∧ t.flow = { s.flow with gates := gatesAt o (some (gate p true)) } ∧
        t.drive.reasons = { s.drive.reasons with hold := heldOutlet s o, blocked := blockedOutlet s o } ∧
        t.tracker = s.tracker ∧ t.belt.register = registerWithout [.stopPosition o] s ∧ t.bus = s.bus) ∧
    (∀ p, s.flow.gates = gatesAt o (some (gate p true)) → heldOutlet s o = true → blockedOutlet s o = false →
      ∃ t, exec (.holdExpiry o) s = .next t ∧ t.flow.gates = ⟨none, none, none, none⟩ ∧
        t.drive.reasons = { s.drive.reasons with hold := false, blocked := false }) ∧
    (∀ p, s.flow.gates = gatesAt o (some (gate p false)) →
      let v := min 4000 (s.belt.n.toNat * (cfg s).scale / 10)
      let moved := fun (point : Pos) (t : State) => t.belt.v = v ∧
        t.flow.gates = gatesAt o (some (gate (stopAt s point v) (reached s.belt.d (stopAt s point v)))) ∧
        (reached s.belt.d (stopAt s point v) = false → (⟨.stopPosition o, stopAt s point v⟩ : Registration) ∈ t.belt.register)
      (o = .o0 → s.divert.windows = ⟨{}, {}, {}⟩ → ∃ t, exec .speedWindowEnd s = .next t ∧ moved point t) ∧
      (∀ k w x z, o = outletOfDiverter k → diverterCfg s k = some x → s.divert.windows = windowsAt k ⟨some w, none⟩ →
        w.fired = false → w.bags = [z] → z.slot = b.slot → z.departed = false →
        let fire := z.entry + mm x.position - um (leadOf { s with belt := { s.belt with v := v } } x)
        ∃ t, exec .speedWindowEnd s = .next t ∧
          (reached s.belt.d fire = false → moved fire t ∧ t.tracker = s.tracker ∧
            t.divert = { s.divert with windows := windowsAt k ⟨some { w with fire := fire }, none⟩ }) ∧
          (reached s.belt.d fire = true → t.flow.gates = gatesAt o (some ⟨none, none, false⟩) ∧
            t.divert = { s.divert with windows := windowsAt k ⟨some { w with fire := fire, fired := true }, none⟩ }))))

/-- R142: the hold value is 255 with JAM or STALL in the set, else the configured quanta under an occupancy demand, else 0;
every step keeps it so. R141, R142: an arrival adds 1 to the occupancy, a lost record takes 1 off; at the high mark or above the
demand is set, at the low mark or below it is cleared, and between them it stands. R143: a new value is told to every source,
and the refresh timer runs for half its quanta: a stall, the clearing that ends one, an occupancy that changes the demand. The
timer's end offers the HOLD again; one that does not run has no effect (log 3). -/
def Obligations.HoldsGoToEverySource : Prop :=
  (∀ s t : State, QuietLaw s → step s = .next t → QuietLaw t ∧ (HoldLaw s → HoldLaw t)) ∧
  (∀ s t : State, DemandLaw s → step s = .next t → DemandLaw t) ∧
  (∀ s : State, wantedHold s = if s.drive.reasons.jam = true ∨ s.drive.reasons.stall = true then 255
    else if s.flow.demand = true then (cfg s).holdQuanta else 0) ∧
  ∀ s : State, Ready s →
    let sent := fun (value : Nat) (t : State) => t.flow.holdValue = value ∧
      t.flow.refresh = (if 0 < value then some (value / 2 * 20) else none) ∧
      ∀ x ∈ (cfg s).sources, Waits x.station (.hold (byteOf value)) t
    let follows := fun (n : Nat) (t : State) =>
      let demand := if (cfg s).highMark ≤ n then true else if n ≤ (cfg s).lowMark then false else s.flow.demand
      let value := if jammed s then 255 else if demand then (cfg s).holdQuanta else 0
      t.flow.occupancy = n ∧ t.flow.demand = demand ∧ (value ≠ s.flow.holdValue → sent value t) ∧
        (value = s.flow.holdValue → t.flow.holdValue = value ∧ t.flow.refresh = s.flow.refresh)
    (s.flow.refresh = none ∨ s.loader.node ≠ .running → exec .holdRefreshTimeout s = .next (drivePins s)) ∧
    (s.loader.node = .running → Room ((cfg s).sources.length + 2) s →
      (s.flow.refresh.isSome = true → ∃ t, exec .holdRefreshTimeout s = .next t ∧ sent s.flow.holdValue t ∧
        { t with bus := s.bus, owed := s.owed, pins := s.pins } = { s with flow := { s.flow with
          refresh := if 0 < s.flow.holdValue then some (s.flow.holdValue / 2 * 20) else none } }) ∧
      (s.drive.state = .run → jammed s = false → s.flow.holdValue ≠ 255 →
        ∃ t, exec .stallDetected s = .next t ∧ sent 255 t) ∧
      (∀ value, jammed s = true → s.belt.eyes.entry.present = false →
        value = (if s.flow.demand then (cfg s).holdQuanta else 0) → value ≠ s.flow.holdValue →
        ∃ t, exec .jamclrActivation s = .next t ∧ sent value t) ∧
      (∀ b, s.tracker.segment = [b] → b.tracking = .diverting → b.confirm.isSome = true → b.lostPointPassed = true →
        Room ((cfg s).sources.length + 4) s →
        ∃ t, exec (.confirmTimeout b.slot) s = .next t ∧ t.tracker.segment = [] ∧ follows (s.flow.occupancy - 1) t) ∧
      (jammed s = false → s.belt.eyes.entry = ⟨false, false, none⟩ → s.tracker.segment.length < 32 →
        s.handoff.expected = [] →
        (∀ n ∈ [(cfg s).readerPosition, (cfg s).decisionPosition, (cfg s).exitPosition + (cfg s).exitTolerance],
          reached s.belt.d (entryPosition s.tracker s.belt.d + mm n) = false) →
        reached s.belt.d (s.belt.d + mm (cfg s).lJam) = false →
        ∃ t, exec (.eyeLeadingEdge .entry) s = .next t ∧ follows (s.flow.occupancy + 1) t))

/-- R84 to R88: the decision lines in their order, the first that applies giving outlet and reason; STRAY joined by a claim or a
late read where a decision here had set it already counts as set here, for the lines and for a re-decision (log 36). R82, R89:
the decision position of an undecided record is reached: it is DECIDED with their outcome, which stands in its decision state;
an assigned reason sets STRAY and heads the exception list. R99, R100, R106: with no window, a bag for a diverter outlet gets
one of its own there, its fire and its release point registered; R102, R106, R107: it is sent through with GAP_CONFLICT where
the record nearest ahead that goes that way leaves less than the opening requirement, with OVERRIDE_LATE where the fire point is
reached. R105: behind the last bag of a window by less than the closing requirement it joins that window, with DIVERTER_BUSY the
fifth bag does not. R103, R104: at a diverter it passes, a bag that close ahead is withdrawn and sent through, or the bag itself
is AT_RISK where that window has fired. R92, R93, R95: a changed late set decides a decided record afresh: the same outlet
stays; another is taken, out of the window it stood alone in (R109); a fired bag refuses it with OVERRIDE_LATE. -/
def Obligations.DecisionWritesTheOutcome : Prop :=
  (∀ (b : BagRecord) (s : State),
    let c := cfg s
    let through := (∃ r, row s .o0 = some r ∧ r.kind = .peer) ∧ c.exceptionOutlet ≠ .o0
    let stray := fun (reason : StrayReason) => (⟨c.exceptionOutlet, some reason⟩ : Outcome)
    let refused := b.flags.duplicate = true ∨ b.flags.mismatch = true ∨ b.flags.ambiguous = true
    let wrongShip := fun (p : ManifestPart) => p.ship = 0 ∨ c.ships.getLsbD p.ship = false
    let held := fun (p : ManifestPart) => p.cls = .cancelled ∨ p.cls = .inspect ∨ wrongShip p ∨
      s.routes.late.getLsbD p.destination = true
    (b.flags.stray = true ∧ b.decision.straySet = false → decideLines s b = ⟨c.exceptionOutlet, none⟩) ∧
    (b.flags.stray = false ∨ b.decision.straySet = true →
      (b.flags.duplicate = true → decideLines s b = stray .duplicate) ∧
      (b.flags.duplicate = false → b.flags.mismatch = true → decideLines s b = stray .mismatch) ∧
      (b.flags.duplicate = false → b.flags.mismatch = false → b.flags.ambiguous = true → decideLines s b = stray .ambiguous) ∧
      (¬ refused → ∀ p, b.part = some p →
        (p.cls = .cancelled → decideLines s b = stray .cancelled) ∧
        (p.cls = .inspect → decideLines s b = stray .inspect) ∧
        (p.cls ≠ .cancelled → p.cls ≠ .inspect → wrongShip p → decideLines s b = stray .wrongShip) ∧
        (p.cls ≠ .cancelled → p.cls ≠ .inspect → ¬ wrongShip p → s.routes.late.getLsbD p.destination = true →
          decideLines s b = stray .late)) ∧
      (¬ refused → (∀ p, b.part = some p → ¬ held p) →
        (c.passLimit ≤ b.passCount → decideLines s b = stray .recircLimit) ∧
        (b.passCount < c.passLimit →
          (b.status ≠ .resolved ∨ b.part = none →
            (through → decideLines s b = ⟨.o0, none⟩) ∧
            (¬ through → decideLines s b =
              stray (if b.plate ≠ 0 then .noManifest else if b.source ≠ 0 then .noRead else .unannounced))) ∧
          (∀ p, b.status = .resolved → b.part = some p →
            (∀ o, bestCandidate s p = some o → decideLines s b = ⟨o, none⟩) ∧
            (bestCandidate s p = none → through → decideLines s b = ⟨.o0, none⟩) ∧
            (bestCandidate s p = none → ¬ through → decideLines s b = stray .noRoute)))))) ∧
  (∀ (a b forward : Bool) (pre post : List BagRecord) (r : BagRecord) (p : Pos) (s : State), CountComes a b forward s →
    (∀ e, (eyeOf s e).trailing = none) → s.flow.gates = ⟨none, none, none, none⟩ →
    ReachesOnly (.decisionPosition r.slot) p forward s →
    s.tracker.segment = pre ++ r :: post → (∀ y ∈ pre ++ post, y.slot ≠ r.slot) → (segmentSlots s).Nodup →
    isDecided r = false → Room 3 s →
    let d := movedTo forward s
    let oc := decideLines s (countPass s r)
    let result := fun (check : State → BagRecord → List BagRecord → Prop) => ∃ t r' pre',
      exec (.encoderCount a b) s = .next t ∧ t.tracker.segment = pre' ++ r' :: post ∧ r'.slot = r.slot ∧ r'.tracking = .decided ∧
        r'.entry = r.entry ∧ check t r' pre'
    let number := s.serial.window
    let windowed := fun (w : PerDiverter DiverterWindows) => { s.divert with windows := w }
    let own : WindowBag := ⟨r.slot, r.entry, r.length, false⟩
    let tooNear := fun (ahead : BagRecord) (x : DiverterConfig) =>
      gapTo r.entry ahead.entry ahead.length < (x.approach * 1000 + leadOf s x : Nat)
    let close := fun (ahead : WindowBag) (x : DiverterConfig) =>
      gapTo r.entry ahead.entry ahead.length < ((x.release + x.approach) * 1000 + s.belt.v * x.close : Nat)
    (∀ k x, oc.outlet = outletOfDiverter k → diverterCfg s k = some x →
      let fire := r.entry + mm x.position - um (leadOf s x)
      let release := r.length.map (fun l => r.entry + mm l + mm (x.position + x.release))
      let made : Window := ⟨number, [own], fire, release, false⟩
      let hasOwn := fun (before : Option Window) => result fun t r' pre' => pre' = pre ∧ r'.chosen = some (outletOfDiverter k) ∧
        t.divert = windowed (windowsAt k (match before with
          | none => ⟨some made, none⟩
          | some w => ⟨some w, some made⟩)) ∧
        (⟨.firePoint k number, fire⟩ : Registration) ∈ t.belt.register ∧
        (∀ q, release = some q → (⟨.releasePoint k number, q⟩ : Registration) ∈ t.belt.register)
      let through := fun (check : State → BagRecord → Prop) => result fun t r' pre' =>
        pre' = pre ∧ r'.chosen = some .o0 ∧ t.divert.windows = s.divert.windows ∧ check t r'
      (s.divert.windows = ⟨{}, {}, {}⟩ →
        (∀ y, FirstOf (fun y => ¬ BoundBefore s x.position y) pre.reverse y → tooNear y x →
          through fun t r' => t.divert.gapConflict = s.divert.gapConflict + 1 ∧ r'.flags.overrideLate = r.flags.overrideLate) ∧
        ((∀ y, FirstOf (fun y => ¬ BoundBefore s x.position y) pre.reverse y → ¬ tooNear y x) →
          (reached d fire = true → through fun t r' => t.divert.lateDivert = s.divert.lateDivert + 1 ∧ r'.flags.overrideLate = true) ∧
          (reached d fire = false → (∀ q, release = some q → reached d q = false) → hasOwn none))) ∧
      (∀ w init z, s.divert.windows = windowsAt k ⟨some w, none⟩ → w.fired = false → w.bags = init ++ [z] →
        (close z x → w.bags.length < 4 → (∀ q, release = some q → reached d q = false) →
          result fun t r' pre' => pre' = pre ∧ r'.chosen = some (outletOfDiverter k) ∧
            t.divert = windowed (windowsAt k ⟨some { w with bags := w.bags ++ [own], release := release }, none⟩) ∧
            ∀ q, release = some q → (⟨.releasePoint k w.number, q⟩ : Registration) ∈ t.belt.register) ∧
        (close z x → 4 ≤ w.bags.length → through fun t _ => t.divert.busy = s.divert.busy + 1) ∧
        (¬ close z x → w.number ≠ number →
          (∀ y ∈ pre, BoundBefore s x.position y ∨ ∃ g ∈ w.bags, g.slot = y.slot ∧ g.departed = false) →
          reached d fire = false → (∀ q, release = some q → reached d q = false) → hasOwn (some w)))) ∧
    (∀ j x w z, oc.outlet = .o0 → diverterCfg s j = some x → s.divert.windows = windowsAt j ⟨some w, none⟩ → w.bags = [z] →
      reached d (r.entry + mm x.position) = false → 0 < posDiff r.entry z.entry →
      (¬ close z x → result fun t r' pre' => pre' = pre ∧ r'.chosen = some .o0 ∧ t.divert = s.divert) ∧
      (close z x → w.fired = true → result fun t r' pre' => pre' = pre ∧ r'.chosen = some .o0 ∧ r'.flags.atRisk = true ∧
        t.divert = { s.divert with atRisk := if r.flags.atRisk then s.divert.atRisk else s.divert.atRisk + 1 }) ∧
      (close z x → w.fired = false → z.departed = false → (∃ y ∈ pre, y.slot = z.slot) →
        result fun t r' pre' => pre' = pre.map (fun y =>
            if y.slot = z.slot then { y with chosen := some .o0, gatePassed := if y.chosen = some .o0 then y.gatePassed else none }
            else y) ∧
          r'.chosen = some .o0 ∧
          t.divert = { windowed ⟨{}, {}, {}⟩ with gapConflict := s.divert.gapConflict + 1 } ∧
          isHeld (.firePoint j w.number) t = false ∧ isHeld (.releasePoint j w.number) t = false))) ∧
  (∀ (a b forward : Bool) (slot : Nat) (p : Pos) (r : BagRecord) (s : State), CountComes a b forward s →
    (∀ e, (eyeOf s e).trailing = none) → s.divert.windows = ⟨{}, {}, {}⟩ → s.flow.gates = ⟨none, none, none, none⟩ →
    ReachesOnly (.decisionPosition slot) p forward s → findBag s slot = some r →
    isDecided r = false → Room 3 s →
    let c := cfg s
    let n := if c.loopHead = true ∧ (∃ x ∈ c.sources, x.station = r.source ∧ x.loopReturn = true) then min 7 (r.passCount + 1)
      else r.passCount
    let oc := decideLines s { r with passCount := n }
    (r.flags.stray = false → r.flags.duplicate = true → oc = ⟨c.exceptionOutlet, some .duplicate⟩) ∧
    (∀ part o, r.flags = {} → r.part = some part → r.status = .resolved → part.cls = .standard → part.ship ≠ 0 →
      c.ships.getLsbD part.ship = true → s.routes.late.getLsbD part.destination = false → n < c.passLimit →
      bestCandidate s part = some o → oc = ⟨o, none⟩) ∧
    ∃ t d, exec (.encoderCount a b) s = .next t ∧ Keeps (countMoved a b forward s) t ∧ segmentSlots t = segmentSlots s ∧
      findBag t slot = some d ∧ d.tracking = .decided ∧ d.passCount = n ∧ d.entry = r.entry ∧ d.plate = r.plate ∧ d.part = r.part ∧
      d.decision = ⟨some oc.outlet, oc.assigned, oc.assigned.isSome⟩ ∧ (d.chosen = some oc.outlet ∨ d.chosen = some .o0) ∧
      d.flags.stray = (r.flags.stray || oc.assigned.isSome) ∧
      (oc.assigned = none → d.reason = r.reason ∧ t.exc.strays = s.exc.strays) ∧
      (∀ reason, oc.assigned = some reason → d.reason = some reason ∧ (r.decision.outlet ≠ some c.exceptionOutlet →
        ∃ y, t.exc.strays.head? = some y ∧ y.reason = reason ∧ y.slot = some slot ∧ y.sequence = s.exc.nextSeq))) ∧
  (∀ (h : Header) (d : DestSet) (r : BagRecord) (s : State), Taken h s → acting s = true → s.tracker.segment = [r] →
    s.routes.late ||| d ≠ s.routes.late → Room 3 s →
    let s1 := { counted s with routes := { s.routes with late := s.routes.late ||| d } }
    let oc := decideLines s1 r
    let written := fun (r' : BagRecord) => (.next (drivePins { s1 with tracker := { s.tracker with segment := [r'] } }) :
      Host.Outcome State Fault Refusal)
    (isDecided r = false → exec (.destCloseReceived h d 1) s = .next (drivePins s1)) ∧
    (isDecided r = true → r.decision.outlet = some oc.outlet →
      exec (.destCloseReceived h d 1) s = written (redecided s1 r)) ∧
    (r.tracking = .diverting ∨ r.tracking = .releasedUnconfirmed → r.decision.outlet ≠ some oc.outlet →
      ∃ t, exec (.destCloseReceived h d 1) s = .next t ∧
        t.tracker = { s.tracker with segment := [{ r with flags := { r.flags with overrideLate := true } }] } ∧
        t.divert = s.divert ∧ t.flow = s.flow ∧ t.belt = s.belt ∧ t.exc.strays = s.exc.strays) ∧
    (Moves s1 r → ∃ t, exec (.destCloseReceived h d 1) s = .next t ∧ Moved s1 r t))

/-- R110, R111, R101: the fire position of a window is reached: it has fired, its live DECIDED bags are DIVERTING with their
pass positions registered, and its output is energized unless held off. The release position of a fired window takes it out;
with no next window the output drops, else the next one is the active one and the output follows whether it has fired. R112: the
pass position of a DIVERTING bag starts its confirm timer at the configured time; of a bag in another state it changes nothing.
R113: a bag that leaves the queue (here at EYE_X0) stays in a fired window as a departed entry; where it is the last and its
length is absent the window releases. From an unfired window it is withdrawn (R108): its own window goes with its registrations,
behind a head the fire point is computed afresh, before a last bag the release point. R114: a closed length is written into the
bag's entry, and gives the window of a last bag its release point; one already reached releases the window. -/
def Obligations.WindowFiresAndReleases : Prop :=
  (∀ (a b forward : Bool) (k : Diverter) (slot : Nat) (x : DiverterConfig) (p : Pos) (s : State), CountComes a b forward s →
    (∀ e, (eyeOf s e).trailing = none) → diverterCfg s k = some x → ReachesOnly (.passPosition k slot) p forward s →
    ∃ t, exec (.encoderCount a b) s = .next t ∧ Keeps (countMoved a b forward s) t ∧
      t.belt.register = registerWithout [.passPosition k slot] s ∧
      t.tracker = { s.tracker with segment := s.tracker.segment.map (fun g =>
        if g.slot = slot ∧ g.tracking = .diverting then { g with confirm := some x.confirm } else g) } ∧
      t.divert = s.divert ∧ t.flow = s.flow ∧ t.exc = s.exc ∧ t.bus = s.bus) ∧
  (∀ (a b forward : Bool) (k : Diverter) (w n : Window) (p : Pos) (s : State), CountComes a b forward s →
    (∀ e, (eyeOf s e).trailing = none) → s.divert.windows.get k = ⟨some w, some n⟩ →
    ReachesOnly (.releasePoint k w.number) p forward s →
    ∃ t, exec (.encoderCount a b) s = .next t ∧ Keeps (countMoved a b forward s) t ∧
      t.belt.register = registerWithout [.releasePoint k w.number, .firePoint k w.number] s ∧
      t.divert = { s.divert with windows := s.divert.windows.set k ⟨some n, none⟩ } ∧
      (t.pins.div.get k = true ↔ t.holdOff = false ∧ n.fired = true) ∧
      t.tracker = s.tracker ∧ t.flow = s.flow ∧ t.exc = s.exc ∧ t.bus = s.bus) ∧
  (∀ (k : Diverter) (w : Window) (next : Option Window) (x : DiverterConfig) (b : BagRecord) (pre post : List WindowBag)
    (z : WindowBag) (s : State), Ready s → acting s = true → s.belt.eyes.exit = ⟨false, false, none⟩ →
    exitMatch s s.belt.d = some b → diverterCfg s k = some x → s.divert.windows = windowsAt k ⟨some w, next⟩ →
    (∀ n, next = some n → n.number ≠ w.number) → w.bags = pre ++ z :: post → z.slot = b.slot → z.departed = false →
    (∀ y ∈ pre ++ post, y.slot ≠ b.slot) → Room ((cfg s).sources.length + 4) s → (∀ q ∈ s.handoff.peers, q.giveUps < 2) →
    let left := fun (w' : Option Window) (t : State) => t.divert = { s.divert with windows := windowsAt k (match w' with
      | none => ⟨next, none⟩
      | some y => ⟨some y, next⟩) }
    let fire := fun (head : Pos) => head + mm x.position - um (leadOf s x)
    let release := fun (y : WindowBag) => y.length.map (fun l => y.entry + mm l + mm (x.position + x.release))
    ∃ t, exec (.eyeLeadingEdge .exit) s = .next t ∧
      (w.fired = true →
        left (if post = [] ∧ z.length = none then none else some { w with bags := pre ++ { z with departed := true } :: post }) t) ∧
      (w.fired = false → pre = [] → post = [] →
        left none t ∧ isHeld (.firePoint k w.number) t = false ∧ isHeld (.releasePoint k w.number) t = false) ∧
      (∀ y rest, w.fired = false → pre = [] → post = y :: rest → reached s.belt.d (fire y.entry) = false →
        left (some { w with bags := post, fire := fire y.entry }) t ∧
          (⟨.firePoint k w.number, fire y.entry⟩ : Registration) ∈ t.belt.register) ∧
      (∀ init y, w.fired = false → pre = init ++ [y] → post = [] → (∀ p, release y = some p → reached s.belt.d p = false) →
        left (some { w with bags := pre, release := release y }) t ∧
          (∀ p, release y = some p → (⟨.releasePoint k w.number, p⟩ : Registration) ∈ t.belt.register) ∧
          (release y = none → isHeld (.releasePoint k w.number) t = false))) ∧
  (∀ (a b forward : Bool) (edge : Pos) (k : Diverter) (w : Window) (x : DiverterConfig) (r : BagRecord) (ahead : List BagRecord)
    (pre post : List WindowBag) (z : WindowBag) (s : State), CountComes a b forward s →
    (∀ e, e ≠ .entry → (eyeOf s e).trailing = none) → s.belt.eyes.entry.trailing = some edge →
    20000 ≤ posDiff (movedTo forward s) edge → (∀ y ∈ s.belt.register, reached (movedTo forward s) y.position = false) →
    s.tracker.segment = ahead ++ [r] → r.length = none → (∀ y ∈ ahead, y.slot ≠ r.slot) → 0 < posDiff edge r.entry →
    diverterCfg s k = some x → s.divert.windows = windowsAt k ⟨some w, none⟩ → w.bags = pre ++ z :: post → z.slot = r.slot →
    z.departed = false → (∀ y ∈ pre ++ post, y.slot ≠ r.slot) →
    let len := min (cfg s).lJam (max 20 ((posDiff edge r.entry).toNat / 1000))
    let bags := pre ++ { z with length := some len } :: post
    let release := z.entry + mm len + mm (x.position + x.release)
    let becomes := fun (w' : Option Window) (t : State) => t.divert = { s.divert with windows := windowsAt k ⟨w', none⟩ }
    ∃ t, exec (.encoderCount a b) s = .next t ∧
      (post ≠ [] → becomes (some { w with bags := bags }) t) ∧
      (post = [] → reached (movedTo forward s) release = false → becomes (some { w with bags := bags, release := some release }) t ∧
        (⟨.releasePoint k w.number, release⟩ : Registration) ∈ t.belt.register) ∧
      (post = [] → reached (movedTo forward s) release = true → becomes none t ∧ t.pins.div.get k = false)) ∧
  ∀ (a b forward : Bool) (k : Diverter) (w : Window) (x : DiverterConfig) (p : Pos) (s : State), CountComes a b forward s →
    (∀ e, (eyeOf s e).trailing = none) → s.flow.gates = ⟨none, none, none, none⟩ → diverterCfg s k = some x →
    s.divert.windows.get k = ⟨some w, none⟩ →
    (w.fired = false → ReachesOnly (.firePoint k w.number) p forward s →
      (∀ slot ∈ liveSlots w, ∀ r, findBag s slot = some r → reached (movedTo forward s) (r.entry + mm x.position) = false) →
      ∃ t, exec (.encoderCount a b) s = .next t ∧ Keeps (countMoved a b forward s) t ∧
        t.divert = { s.divert with windows := s.divert.windows.set k ⟨some { w with fired := true }, none⟩ } ∧
        t.tracker = { s.tracker with segment := s.tracker.segment.map (fun g =>
          if g.slot ∈ liveSlots w ∧ g.tracking = .decided then { g with tracking := .diverting } else g) } ∧
        (∀ slot ∈ liveSlots w, ∀ r, findBag s slot = some r →
          (⟨.passPosition k slot, r.entry + mm x.position⟩ : Registration) ∈ t.belt.register) ∧
        (t.pins.div.get k = true ↔ t.holdOff = false) ∧ t.flow = s.flow ∧ t.exc = s.exc ∧ t.bus = s.bus) ∧
    (w.fired = true → ReachesOnly (.releasePoint k w.number) p forward s →
      ∃ t, exec (.encoderCount a b) s = .next t ∧ Keeps (countMoved a b forward s) t ∧
        t.divert = { s.divert with windows := s.divert.windows.set k {} } ∧ t.pins.div.get k = false ∧
        t.belt.register = registerWithout [.releasePoint k w.number, .firePoint k w.number] s ∧
        t.tracker = s.tracker ∧ t.flow = s.flow ∧ t.exc = s.exc ∧ t.bus = s.bus)

/-- R87, R79: an outlet is usable for a RESOLVED bag when it is configured and no exception outlet, its effective reach holds
the destination, it is neither narrow for an OVERSIZE bag nor closed nor blocked. With a usable outlet in the preferred order
the Route Selector finds one, and only then: a TERMINAL one before any PEER one, the first in the order among equals. -/
def Obligations.BestCandidateIsTerminalFirst : Prop :=
  ∀ (p : ManifestPart) (s : State),
    let usable := fun (o : Outlet) => o ≠ (cfg s).exceptionOutlet ∧ ∃ r, row s o = some r ∧
      r.reach.getLsbD p.destination = true ∧ (r.narrow = true → p.cls ≠ .oversize) ∧
      (r.kind = .terminal → r.closed = false) ∧
      (r.kind = .peer → r.learned.getLsbD p.destination = true ∧ peerDown s r.peer = false)
    (∀ o, bestCandidate s p = some o → o ∈ (cfg s).preferred ∧ usable o ∧
      ∀ pre post o', (cfg s).preferred = pre ++ o' :: post → o' ∉ pre → usable o' → o' ≠ o →
        (isTerminal s o = true ∧ isTerminal s o' = false) ∨ (isTerminal s o = isTerminal s o' ∧ o ∈ pre)) ∧
    ((∃ o ∈ (cfg s).preferred, usable o) → ∃ o, bestCandidate s p = some o)

/-- R98: the lead in each drive state, held at 0 in DECEL, is computed afresh from v at each use; from values in range it lies
in 0 to 2,625,000 micrometres. -/
def Obligations.LeadStaysInRange : Prop :=
  ∀ (s : State) (x : DiverterConfig),
    (s.drive.state = .run ∨ s.drive.state = .stopped ∨ s.drive.state = .halted → leadOf s x = s.belt.v * x.travel) ∧
    (s.drive.state = .accel → leadOf s x = s.belt.v * x.travel + (cfg s).aUp * x.travel ^ 2 / 2000) ∧
    (s.drive.state = .decel → (leadOf s x : Int) =
      max 0 ((s.belt.v * x.travel : Nat) - ((cfg s).aDn * x.travel ^ 2 / 2000 : Nat))) ∧
    (s.belt.v ≤ 4000 → x.travel ≤ 500 → (cfg s).aUp ≤ 5000 → leadOf s x ≤ 2625000)

/-! ## Handoffs -/

/-- R120, R121: an open handoff: RETRY, or the answer wait running out, starts the retry delay while attempts remain; the retry
delay's end makes the next attempt; ACCEPT ends it. A command that matches no open handoff changes nothing more. -/
def Obligations.OpenHandoffTakesItsCourse : Prop :=
  ∀ (h : Header) (id : Byte) (s : State), Taken h s → acting s = true →
    let peer := h.src
    (∀ d payload ms, openDeparture peer id s = some d → d.outgoing = some ⟨payload, .answer ms⟩ → d.attempts < 5 →
      let delayed := updateDeparture peer id (fun d => { d with outgoing := some ⟨payload, .retry 20⟩ })
      exec (.answerWaitTimeout peer id) s = .next (drivePins (delayed s)) ∧
      exec (.retryReceived h id) s = .next (drivePins (delayed (counted s)))) ∧
    (∀ d payload ms, openDeparture peer id s = some d → d.outgoing = some ⟨payload, .retry ms⟩ →
      s.loader.node ≠ .duplicate → Room 1 s →
      exec (.retryDelayTimeout peer id) s = .next (drivePins (acceptFrame ⟨peer, .handoff payload, d.attempts + 1⟩
        (updateDeparture peer id
          (fun x => { x with attempts := x.attempts + 1, outgoing := some ⟨payload, .answer 50⟩ }) s)))) ∧
    (∀ d, openDeparture peer id s = some d →
      exec (.acceptReceived h id) s = .next (drivePins (updatePeer peer (fun p => { p with giveUps := 0 })
        (updateDeparture peer id (fun d => { d with state := .accepted, outgoing := none }) (counted s))))) ∧
    (openDeparture peer id s = none →
      exec (.answerWaitTimeout peer id) s = .next (drivePins s) ∧ exec (.retryDelayTimeout peer id) s = .next (drivePins s) ∧
      exec (.retryReceived h id) s = .next (drivePins (counted s)) ∧
      exec (.acceptReceived h id) s = .next (drivePins (counted s)))

/-- R120, R122: an unanswered fifth attempt ends the handoff as GAVE_UP: the total and the peer's count rise; the peer stays UP
below three, and the third in a row marks it DOWN. R79, R96, R138: then the advertised reach follows, and a changed one is kept
and sent to every source in RUNNING; R90, R92, R93, R95: every decided record of a queue in order is decided afresh: the same
outlet stands, a fired bag refuses another with OVERRIDE_LATE, and one alone in the queue is moved to it. -/
def Obligations.FifthAttemptGivesUp : Prop :=
  ∀ (peer id : Byte) (d : Departure) (payload : HandoffPayload) (ms : Nat) (p : PeerState) (pre post : List PeerState)
    (s : State), Ready s → openDeparture peer id s = some d → d.outgoing = some ⟨payload, .answer ms⟩ → 5 ≤ d.attempts →
    s.handoff.peers = pre ++ p :: post → (∀ y ∈ pre ++ post, y.station ≠ peer) → p.station = peer → p.down = false →
    p.giveUps < 3 → Room 2 s →
    let ended := (updateDeparture peer id (fun d => { d with state := .gaveUp, outgoing := none }) s).tracker
    (p.giveUps < 2 → ∃ t, exec (.answerWaitTimeout peer id) s = .next t ∧ t.tracker = ended ∧
      t.handoff = { s.handoff with giveUps := s.handoff.giveUps + 1,
                                   peers := pre ++ { p with giveUps := p.giveUps + 1 } :: post } ∧
      steady t = steady s ∧ t.drive = s.drive ∧ t.belt = s.belt ∧ t.divert = s.divert ∧ t.flow = s.flow ∧
      t.routes = s.routes ∧ t.queries = s.queries) ∧
    (p.giveUps = 2 →
      let written := { s with
        tracker := ended
        handoff := { s.handoff with giveUps := s.handoff.giveUps + 1,
                                    peers := pre ++ { p with giveUps := 3, down := true } :: post } }
      Room (2 + (cfg s).sources.length + (movers written s.tracker.segment).length) s →
      ∃ t, exec (.answerWaitTimeout peer id) s = .next t ∧ t.tracker.history = ended.history ∧ t.handoff = written.handoff ∧
        steady t = steady s ∧ (s.tracker.segment = [] → t.tracker = ended) ∧
        (acting s = true → (segmentSlots s).Nodup → TableChanged s written t))

/-- R127: a HANDOFF that is neither a resend nor a claim, with 16 expected entries, is refused with RETRY and changes nothing.
-/
def Obligations.HandoffAtAFullListIsRefused : Prop :=
  ∀ (h : Header) (p : HandoffPayload) (x : SourceConfig) (s : State), Taken h s → speaks s = true →
    sourceOf s h.src = some x → findEntry s h.src p.id = none → pairHeld (readHandoff h.src p) s = false →
    claimTarget (readHandoff h.src p) s = none → 16 ≤ s.handoff.expected.length → Room 1 s →
    exec (.handoffReceived h p) s = .next (drivePins { counted s with bus := { (counted s).bus with
      waiting := s.bus.waiting ++ [⟨h.src, .retry p.id, 0⟩] } })

/-- R128, R129, R124: a new HANDOFF makes an expected entry at X = D + lead-in with the tolerance as half-width, behind every
entry whose X is not greater; where another live record, made before, holds its plate the entry carries DUPLICATE. Where no
query and no live record holds its plate it is answered with ACCEPT, its window end is registered and the occupancy rises: the
part it carries is its own (R62, R71); a plate without a part is looked up (R60, R61, R64); plate 0 without a part touches
nothing else. -/
def Obligations.HandoffMakesAnEntry : Prop :=
  ∀ (h : Header) (p : HandoffPayload) (x : SourceConfig) (s : State), Taken h s → speaks s = true →
    sourceOf s h.src = some x → findEntry s h.src p.id = none → pairHeld (readHandoff h.src p) s = false →
    claimTarget (readHandoff h.src p) s = none → s.handoff.expected.length < 16 →
    reached s.belt.d (s.belt.d + mm x.leadIn + um (x.tolerance * 1000)) = false →
    let f := readHandoff h.src p
    let place := fun (e : ExpectedEntry) => (e.source, e.id, e.x)
    let inPlace := fun (e : ExpectedEntry) (t : State) => ∃ pre post, t.handoff.expected = pre ++ e :: post ∧
      s.handoff.expected.map place = pre.map place ++ post.map place ∧
      (∀ y ∈ pre, posDiff y.x e.x ≤ 0) ∧ (∀ y ∈ post.head?, ¬ posDiff y.x e.x ≤ 0)
    (∃ t e, exec (.handoffReceived h p) s = .next t ∧ Keeps s t ∧ segmentSlots t = segmentSlots s ∧
      inPlace e t ∧ e.source = h.src ∧ e.id = p.id ∧ e.plate = f.plate ∧
      e.x = s.belt.d + mm x.leadIn ∧ e.halfWidth = x.tolerance * 1000 ∧
      e.passCount = min 7 p.passCount.toNat ∧ (e.announced = if p.length = 0 then none else some p.length.toNat) ∧
      (f.plate ≠ 0 → (segmentSlots s).Nodup → PairLaw s.handoff →
        (∃ b ∈ s.tracker.segment, b.plate = f.plate ∧ b.created ≤ s.serial.creation) ∨
          (∃ y ∈ s.handoff.expected, y.plate = f.plate ∧ y.created ≤ s.serial.creation) → e.flags.duplicate = true)) ∧
    (p.plate = 0 → p.present.getLsbD 0 = false → (∀ w ∈ s.exc.watch, w.plate ≠ 0) → Room ((cfg s).sources.length + 1) s →
      ∃ t, exec (.handoffReceived h p) s = .next t ∧ Waits h.src (.accept p.id) t ∧
        (∃ pre post e, t.handoff.expected = pre ++ e :: post ∧ s.handoff.expected = pre ++ post ∧ e.source = h.src ∧
          e.id = p.id ∧ e.plate = 0 ∧ e.part = none ∧ e.status = .pending ∧
          (∀ y ∈ pre, posDiff y.x e.x ≤ 0) ∧ (∀ y ∈ post.head?, ¬ posDiff y.x e.x ≤ 0)) ∧
        (⟨.windowEnd h.src p.id, s.belt.d + mm x.leadIn + um (x.tolerance * 1000)⟩ : Registration) ∈ t.belt.register ∧
        t.flow.occupancy = s.flow.occupancy + 1 ∧ Keeps s t ∧ t.tracker = s.tracker ∧ t.reader = s.reader ∧
        t.cache = s.cache ∧ t.queries = s.queries ∧ t.routes = s.routes ∧ t.divert = s.divert ∧ t.exc = s.exc ∧ t.drive = s.drive) ∧
    (f.plate ≠ 0 → queryFor f.plate s = none → NoneHolds f.plate s → Room ((cfg s).sources.length + 5) s →
      ∃ t e, exec (.handoffReceived h p) s = .next t ∧ Waits h.src (.accept p.id) t ∧ inPlace e t ∧ e.source = h.src ∧
        e.id = p.id ∧ e.plate = f.plate ∧ e.flags = f.flags ∧ e.reason = f.reason ∧
        (⟨.windowEnd h.src p.id, s.belt.d + mm x.leadIn + um (x.tolerance * 1000)⟩ : Registration) ∈ t.belt.register ∧
        t.flow.occupancy = s.flow.occupancy + 1 ∧ t.tracker = s.tracker ∧
        (∀ part, f.part = some part → e.part = some part ∧ e.status = .resolved ∧ t.queries = s.queries ∧
          t.cache.hits = s.cache.hits ∧ t.cache.misses = s.cache.misses) ∧
        (f.part = none →
          let holding := (getSet s (f.plate % 64)).filter (wayHolds f.plate)
          (∀ rank part, holding = [⟨rank, some ⟨f.plate, part, s.cache.epoch⟩⟩] →
            e.part = some part ∧ e.status = .resolved ∧ t.queries = s.queries ∧ t.cache.hits = s.cache.hits + 1) ∧
          (holding = [] → t.cache = { s.cache with misses := s.cache.misses + 1 } ∧ e.part = none ∧
            (s.queries.length < 8 → e.status = .awaitingAnswer ∧
              t.queries = s.queries ++ [⟨f.plate, 1, s.time + 200, [.entry h.src p.id]⟩] ∧
              Waits 126 (.query (BitVec.ofNat 40 f.plate)) t) ∧
            (8 ≤ s.queries.length → e.status = .unresolved ∧ t.queries = s.queries))))

/-- R124, R125: a resend of a pair that a record or the recent-missing ring holds is answered with ACCEPT and changes nothing; a
HANDOFF from a station that is no configured source, or in a node state that takes none, is discarded. R125, R71: a resend of a
pair that an expected entry holds updates it in its place, with a part it lacks or a newer one; that a part carried with plate 0
is taken is the model's choice (log 43), and so is that a RESOLVED entry, which by R57 keeps its part but for an UPDATE, takes a newer
one (log 58). R126, R132, R53: with no entry from its source a HANDOFF claims the oldest CLAIMABLE
record, which takes its identity, resolved again with a held read result. -/
def Obligations.HandoffAlreadyKnownIsAccepted : Prop :=
  ∀ (h : Header) (p : HandoffPayload) (s : State), Taken h s →
    let f := readHandoff h.src p
    (speaks s = false ∨ sourceOf s h.src = none → exec (.handoffReceived h p) s = .next (drivePins (counted s))) ∧
    (∀ x, speaks s = true → sourceOf s h.src = some x → findEntry s h.src p.id = none →
      (∃ b ∈ s.tracker.segment, b.source = h.src ∧ b.sourceId = some p.id) ∨ (h.src, p.id) ∈ s.handoff.recentMissing →
      Room 1 s → exec (.handoffReceived h p) s = .next (drivePins { counted s with bus := { (counted s).bus with
        waiting := s.bus.waiting ++ [⟨h.src, .accept p.id, 0⟩] } })) ∧
    (∀ x e, speaks s = true → sourceOf s h.src = some x → findEntry s h.src p.id = some e →
      (∃ t e', exec (.handoffReceived h p) s = .next t ∧ segmentSlots t = segmentSlots s ∧
        t.handoff.expected.map (fun y => (y.source, y.id, y.x, y.halfWidth)) =
          s.handoff.expected.map (fun y => (y.source, y.id, y.x, y.halfWidth)) ∧
        findEntry t h.src p.id = some e' ∧ e'.plate = f.plate ∧ e'.passCount = f.passCount ∧ e'.announced = f.announced ∧
        e'.reason = f.reason ∧ e'.created = e.created) ∧
      (e.plate = f.plate → queryFor f.plate s = none → PairLaw s.handoff →
        f.part.isSome = true ∨ e.status ≠ .pending ∨ f.plate = 0 → Room 2 s →
        let takes := f.part.any (fun q => e.part.all (fun old =>
          decide (1 ≤ (q.revision - old.revision).toNat ∧ (q.revision - old.revision).toNat ≤ 32767)))
        ∃ t, exec (.handoffReceived h p) s = .next t ∧ Waits h.src (.accept p.id) t ∧
          t.handoff = { s.handoff with expected := s.handoff.expected.map (fun y => if y.source = h.src ∧ y.id = p.id then
            { e with plate := f.plate, passCount := f.passCount, announced := f.announced, reason := f.reason,
                     flags := joinFlags e.flags f.flags, part := if takes then f.part else e.part,
                     status := if takes then .resolved else e.status } else y) } ∧
          t.tracker = s.tracker ∧ t.belt = s.belt ∧ t.flow = s.flow ∧ t.divert = s.divert)) ∧
    (∀ x b pre post, speaks s = true → sourceOf s h.src = some x → findEntry s h.src p.id = none → pairHeld f s = false →
      (∀ e ∈ s.handoff.expected, e.source ≠ h.src) → s.tracker.segment = pre ++ b :: post →
      (∀ y ∈ pre, y.flags.claimable = false ∧ y.slot ≠ b.slot) → (∀ y ∈ post, y.slot ≠ b.slot) → b.flags.claimable = true →
      isDecided b = false → b.part = none → queryFor f.plate s = none → Room 2 s →
      let claimed := { b with
        plate := f.plate, source := h.src, sourceId := some p.id, passCount := f.passCount, announced := f.announced,
        reason := b.reason.or f.reason, flags := { joinFlags b.flags f.flags with claimable := false } }
      let result := fun (b' : BagRecord) => ∃ t, exec (.handoffReceived h p) s = .next t ∧ Waits h.src (.accept p.id) t ∧
        t.tracker = { s.tracker with segment := pre ++ b' :: post } ∧ isHeld (.claimEnd b.slot) t = false ∧
        t.handoff = s.handoff ∧ t.flow = s.flow ∧ t.divert = s.divert
      (b.plate = 0 → b.held = none → f.plate = 0 → f.part = none → result { claimed with identity := .announced }) ∧
      (∀ part, f.plate ≠ 0 → f.part = some part →
        (∀ y ∈ pre ++ post, y.plate ≠ f.plate) → (∀ e ∈ s.handoff.expected, e.plate ≠ f.plate) →
        let served := { claimed with part := some (holdClass b.overLength part), status := .resolved }
        (b.held = none → b.plate = 0 → result { served with identity := .announced }) ∧
        (∀ q, b.held = some (.one q) → b.plate = q →
          (q = f.plate → result { served with identity := .confirmed }) ∧
          (q ≠ f.plate → result { served with
            identity := .announced, flags := { served.flags with mismatch := true } }))))

/-! ## The exception unit -/

/-- R153, R155, R158: MISSING of a plate not seen here writes its watch entry as the newest, a 17th removing the oldest; FOUND
PRESENT_HERE removes the plate, DEPARTED_HERE changes nothing; entries of 600 s or more lapse. R154, R155: a plate on the belt
or expected is answered by FOUND PRESENT_HERE and leaves the list, one only in the history by FOUND DEPARTED_HERE and stays; in
DUPLICATE only the entry is made. R156: a watched plate that a READ reply or a new HANDOFF brings is answered by FOUND and
leaves the list. R133: a count that reaches the window end of an entry makes it missing: it leaves the list for the
recent-missing ring, the occupancy falls, a stray record names it, and a plate is searched for from here (R155): watched and
asked for by MISSING, or found at once on this belt. R134: where the count ends at the window end itself and the next command is
an edge of EYE_IN, either may be taken first (the form of this: log 40). -/
def Obligations.WatchListFollowsTheSearch : Prop :=
  (∀ s : State, Ready s →
    let watching := fun (u : State) (w : List WatchEntry) => { u with exc := { u.exc with watch := w } }
    let others := fun (plate : Nat) => s.exc.watch.filter (fun w => decide (w.plate ≠ plate))
    let now := BitVec.ofNat 32 (s.time / 1000)
    exec .watchLapse s =
      .next (drivePins (watching s (s.exc.watch.filter (fun w => decide ((now - w.added).toNat < 600))))) ∧
    ∀ h : Header, Taken h s → acting s = true →
      (∀ (plate : BitVec 40) (reporter : Byte),
        (plateValid plate.toNat = true → stationNumber reporter = true → sighting plate.toNat s = none →
          exec (.missingReceived h plate reporter) s = .next (drivePins (watching (counted s)
            ((others plate.toNat).drop ((others plate.toNat).length - 15) ++ [⟨plate.toNat, now, reporter⟩])))) ∧
        (plateValid plate.toNat = false ∨ stationNumber reporter = false →
          exec (.missingReceived h plate reporter) s = .next (drivePins (counted s)))) ∧
      (∀ p : FoundPayload,
        (plateValid p.plate.toNat = true → p.kind = 1 →
          exec (.foundReceived h p) s = .next (drivePins (watching (counted s) (others p.plate.toNat)))) ∧
        (plateValid p.plate.toNat = false ∨ p.kind ≠ 1 →
          exec (.foundReceived h p) s = .next (drivePins (counted s)))) ∧
      (∀ (plate : BitVec 40) (reporter : Byte), plateValid plate.toNat = true → stationNumber reporter = true →
        let kept := (others plate.toNat).drop ((others plate.toNat).length - 15)
        let entered := kept ++ [⟨plate.toNat, now, reporter⟩]
        let answers := fun (found : FoundPayload) (watch : List WatchEntry) => ∃ t, exec (.missingReceived h plate reporter) s =
          .next t ∧ Waits 127 (.found found) t ∧ t.exc = { s.exc with watch := watch } ∧
          { t with exc := s.exc, bus := s.bus, pins := s.pins } = s
        (s.loader.node = .duplicate →
          exec (.missingReceived h plate reporter) s = .next (drivePins (watching (counted s) entered))) ∧
        (speaks s = true → Room 1 s →
          (∀ b, FirstOf (fun y => y.plate = plate.toNat) s.tracker.segment b → answers ⟨plate, 1, 1, if isDecided b = true then
            outletByte b.chosen else 255, 255, now, 0, 0, 0, reporter⟩ kept) ∧
          ((∀ y ∈ s.tracker.segment, y.plate ≠ plate.toNat) →
            ((∃ e ∈ s.handoff.expected, e.plate = plate.toNat) → answers ⟨plate, 1, 2, 255, 255, now, 0, 0, 0, reporter⟩ kept) ∧
            ((∀ e ∈ s.handoff.expected, e.plate ≠ plate.toNat) →
              ∀ d, FirstOf (fun y => y.plate = plate.toNat) s.tracker.history d → answers ⟨plate, 2, 0, outletByte (some d.outlet),
                BitVec.ofNat 8 (match d.destination with
                  | some n => n
                  | none => 255),
                d.time, d.peer, handoffStateCode d.state, BitVec.ofNat 8 d.attempts, reporter⟩ entered))))) ∧
  (∀ (number : Byte) (plates : List Nat) (slot p : Nat) (b : BagRecord) (w : WatchEntry) (s : State), Ready s →
    linkActs s = true → speaks s = true → plates.length ≤ 4 → ReadOutstanding number (some slot) s → findBag s slot = some b →
    readResult plates = .one p → FirstOf (fun y => y.plate = p) s.exc.watch w → Room 6 s →
    ∃ t, exec (.readReply true number plates) s = .next t ∧ Waits 127 (.found ⟨BitVec.ofNat 40 p, 1, 1,
        if isDecided b = true then outletByte b.chosen else 255, 255, BitVec.ofNat 32 (s.time / 1000), 0, 0, 0, w.reporter⟩) t ∧
      t.exc.watch = s.exc.watch.filter (fun y => decide (y.plate ≠ p))) ∧
  (∀ (h : Header) (q : HandoffPayload) (x : SourceConfig) (w : WatchEntry) (s : State), Taken h s → speaks s = true →
    sourceOf s h.src = some x → findEntry s h.src q.id = none → pairHeld (readHandoff h.src q) s = false →
    claimTarget (readHandoff h.src q) s = none → s.handoff.expected.length < 16 →
    reached s.belt.d (s.belt.d + mm x.leadIn + um (x.tolerance * 1000)) = false →
    let plate := (readHandoff h.src q).plate
    queryFor plate s = none → FirstOf (fun y => y.plate = plate) s.exc.watch w → Room ((cfg s).sources.length + 5) s →
    ∃ t, exec (.handoffReceived h q) s = .next t ∧ Waits 127 (.found ⟨BitVec.ofNat 40 plate, 1, 2, 255, 255,
        BitVec.ofNat 32 (s.time / 1000), 0, 0, 0, w.reporter⟩) t ∧
      t.exc.watch = s.exc.watch.filter (fun y => decide (y.plate ≠ plate))) ∧
  (∀ (a b forward : Bool) (e : ExpectedEntry) (rest : List Instr) (s : State), CountComes a b forward s →
    (∀ y, (eyeOf s y).trailing = none) → s.handoff.expected = [e] → endOf e = movedTo forward s →
    ReachesOnly (.windowEnd e.source e.id) (movedTo forward s) forward s → s.pending = .eyeLeadingEdge .entry :: rest →
    jammed s = false → s.belt.eyes.entry = ⟨false, false, none⟩ → s.tracker.segment.length < 32 →
    let missed := fun (u : State) =>
      u.handoff.expected = [] ∧ u.handoff.recentMissing = ((e.source, e.id) :: s.handoff.recentMissing).take 16
    ∃ t, exec (.encoderCount a b) s = .next t ∧ Keeps (countMoved a b forward s) t ∧
      ((t.belt.awaited = none ∧ missed t) ∨
        (t.belt.awaited = some .entry ∧ t.handoff = s.handoff ∧ t.belt.register = s.belt.register ∧
          ∃ u, exec (.eyeLeadingEdge .entry) { t with pending := rest } = .next u ∧ u.belt.awaited = none ∧
            u.tracker.entered = s.tracker.entered + 1 ∧
            ((posDiff (entryPosition s.tracker (movedTo forward s)) e.x).natAbs ≤ e.halfWidth →
              u.handoff.expected = [] ∧ u.handoff.recentMissing = s.handoff.recentMissing) ∧
            (e.halfWidth < (posDiff (entryPosition s.tracker (movedTo forward s)) e.x).natAbs → missed u)))) ∧
  (∀ (a b forward : Bool) (source id : Byte) (p : Pos) (e : ExpectedEntry) (s : State), CountComes a b forward s →
    (∀ y, (eyeOf s y).trailing = none) → ReachesOnly (.windowEnd source id) p forward s →
    findEntry s source id = some e → (p = movedTo forward s → ¬ EdgeWaits .entry s) →
    Room ((cfg s).sources.length + 5) s →
    let others := s.exc.watch.filter (fun w => decide (w.plate ≠ e.plate))
    let entered := others.drop (others.length - 15) ++ [⟨e.plate, BitVec.ofNat 32 (s.time / 1000), s.loader.station⟩]
    ∃ t, exec (.encoderCount a b) s = .next t ∧ Keeps (countMoved a b forward s) t ∧
      t.belt.register = registerWithout [.windowEnd source id] s ∧
      t.tracker = s.tracker ∧
      t.handoff = { s.handoff with
        expected := s.handoff.expected.filter (fun y => decide (¬ (y.source = source ∧ y.id = id)))
        recentMissing := ((source, id) :: s.handoff.recentMissing).take 16 } ∧
      t.flow.occupancy = s.flow.occupancy - 1 ∧
      (∀ q ∈ t.queries, Live.entry source id ∉ q.waiters) ∧
      MadeStray ⟨.missing, .notPresent, if e.plate = 0 then none else some e.plate, e.part.map ManifestPart.destination,
        if source = 0 then none else some source, none⟩ s t ∧
      (e.plate = 0 → t.exc.watch = s.exc.watch) ∧
      (e.plate ≠ 0 → speaks s = true → Waits 127 (.missing (BitVec.ofNat 40 e.plate) s.loader.station) t ∧
        ((∃ b ∈ s.tracker.segment, b.plate = e.plate) → t.exc.watch = others.drop (others.length - 15) ∧
          ∃ f, Waits 127 (.found f) t ∧ f.plate = BitVec.ofNat 40 e.plate ∧ f.kind = 1 ∧ f.reporter = s.loader.station) ∧
        ((∀ b ∈ s.tracker.segment, b.plate ≠ e.plate) → (∀ y ∈ s.handoff.expected, y.plate = e.plate → y.source = source ∧
          y.id = id) → t.exc.watch = entered)) ∧
      (e.plate ≠ 0 → speaks s = false → t.exc.watch = entered))

/-- R164, R165, R179: an item that the node state answers is answered to the asking station with its data; a request to 127, or
of an item not answered, draws no reply. The data of each item, byte by byte; the page byte is the page asked, 0 for a COUNTERS
page above 1 (log 13). Its data counts the request itself (page 1 of COUNTERS carries the received count): the model's choice of
what R174 and R178 leave open (log 39). -/
def Obligations.StatusRequestDrawsOneReply : Prop :=
  (∀ (h : Header) (item page : Byte) (s : State), Taken h s →
    let node := s.loader.node
    let answered := (node = .joining ∨ node = .running) ∧ 1 ≤ item.toNat ∧ item.toNat ≤ 5 ∨ node = .configFault ∧ item = 1
    (h.dest ≠ 127 → answered → Room 1 s →
      exec (.statusReqReceived h item page) s = .next (drivePins { counted s with bus := { (counted s).bus with
        waiting := s.bus.waiting ++
          [⟨h.src, .statusReply item (statusData s item page).1 (statusData (counted s) item page).2, 0⟩] } })) ∧
    (h.dest = 127 ∨ ¬ answered → exec (.statusReqReceived h item page) s = .next (drivePins (counted s)))) ∧
  (∀ (page : Byte) (s : State),
    let n4 := fun (c : Count) => bigEndian 4 c.toNat
    let one := fun (b : Bool) => if b then 1 else 0
    let r := s.drive.reasons
    let counter := fun (c : EventCounter) => [eventByte c.event] ++ bigEndian 2 c.limit ++
      [BitVec.ofNat 8 (one c.chained + 2 * one c.frozen)] ++ bigEndian 2 c.value
    let carried := if page.toNat ≤ 7 then (s.exc.strays.drop (4 * page.toNat)).take 4 else []
    let reference : BitVec 32 := match carried with
      | [] => 0
      | y :: _ => y.time
    (∃ slots : BitVec 32, (∀ i < 32, slots.getLsbD i = decide (i ∈ segmentSlots s)) ∧
      statusData s 1 page = (page, [nodeCode s.loader.node, driveCode s.drive.state,
      BitVec.ofNat 8 (one r.estop + 2 * one r.jam + 4 * one r.stall + 8 * one r.hold + 16 * one r.blocked + 32 * one r.notRunning),
      BitVec.ofNat 8 s.flow.occupancy] ++
      bigEndian 4 slots.toNat ++ setBytes s.routes.advertised ++ setBytes s.routes.late ++ n4 s.tracker.entered ++ n4 s.tracker.departed ++
      n4 s.tracker.lost ++ n4 s.tracker.unknown ++ n4 s.tracker.overrun)) ∧
    statusData s 2 page = (page, bigEndian 2 s.exc.nextSeq.toNat ++ bigEndian 4 reference.toNat ++
      carried.flatMap (fun y => bigEndian 10 (y.plate.getD 0 % 2 ^ 34 * 2 ^ 46 + (reasonCode y.reason).toNat * 2 ^ 41 +
        (dispositionCode y.disposition).toNat * 2 ^ 38 + y.destination.getD 63 % 64 * 2 ^ 32 +
        (y.related.getD 0).toNat % 128 * 2 ^ 25 + y.slot.getD 63 % 64 * 2 ^ 19 + min 524287 (reference - y.time).toNat))) ∧
    (page ≠ 1 → statusData s 3 page = (0, counter s.exc.counter1 ++ counter s.exc.counter2 ++ bigEndian 2 s.belt.overspeed ++
      n4 s.divert.gapConflict ++ n4 s.divert.busy ++ n4 s.divert.lateDivert ++ n4 s.divert.atRisk ++ n4 s.handoff.giveUps ++
      n4 s.flow.overruns)) ∧
    statusData s 3 1 = (1, n4 s.bus.sent ++ n4 s.bus.received ++ n4 s.bus.collisions ++ n4 s.bus.excess ++ n4 s.bus.crc ++
      n4 s.bus.format ++ n4 s.bus.unknownKind ++ n4 s.bus.queueDrop ++ n4 s.loader.duplicates) ∧
    statusData s 4 page = (page, bigEndian 2 ((s.cache.sets.flatten).countP (fun w => w.entry.isSome)) ++ n4 s.cache.hits ++
      n4 s.cache.misses ++ [s.cache.epoch, BitVec.ofNat 8 (one s.cache.walk.isSome)]) ∧
    statusData s 5 page = (page, ([.o0, .o1, .o2, .o3] : List Outlet).flatMap (fun o =>
      match row s o with
      | none => List.replicate 11 0
      | some x => match x.kind with
        | .terminal => [1, 0, BitVec.ofNat 8 (one x.closed)] ++ List.replicate 8 0
        | .peer => [2, x.peer, BitVec.ofNat 8 (one (peerDown s x.peer))] ++ setBytes x.learned ++ bigEndian 2
            (match x.holdExpiry with
            | none => 0
            | some e => e - s.time))))

/-- R163: COUNTER_CLEAR from any station sets both values to 0 and unfreezes both counters, changes no other count, and in
LOADING does nothing; a chained counter 2 then counts nothing until counter 1 freezes; either order with a counted event. The
frame of a peer in state DOWN brings it UP as well (R123). -/
def Obligations.CounterClearClearsBoth : Prop :=
  ∀ (h : Header) (s : State), Ready s → Delivered h s →
    let cleared := { counted s with exc := { s.exc with
      counter1 := { s.exc.counter1 with value := 0, frozen := false }
      counter2 := { s.exc.counter2 with value := 0, frozen := false } } }
    (s.loader.node ≠ .loading → peerDown s h.src = false ∨ acting s = false →
      exec (.counterClearReceived h) s = .next (drivePins cleared)) ∧
    (acting s = true → peerDown s h.src = true → s.tracker.segment = [] → Room (cfg s).sources.length s →
      ∃ t, exec (.counterClearReceived h) s = .next t ∧ t.exc = cleared.exc ∧ t.tracker = s.tracker ∧
        steady t = steady { counted s with routes := t.routes }) ∧
    (s.loader.node = .loading → exec (.counterClearReceived h) s = .next (drivePins (counted s))) ∧
    ((drivePins cleared).pins.alert = true ↔ s.loader.node = .duplicate ∨ s.loader.node = .configFault) ∧
    (∀ e, s.exc.counter2.chained = true → (countEvent e cleared).exc.counter2 = cleared.exc.counter2) ∧
    (∀ e, acting s = true → s.exc.counter1.event = some e → s.exc.counter1.chained = false →
      (countEvent e cleared).exc.counter1.value = 1)

/-- R160, R161: a counted event raises an unfrozen counter of that event by 1 and freezes it at its limit; a chained counter 2
counts only with counter 1 frozen before the event. Each freeze offers one ALERT frame while the node speaks, and none else.
That of counter 1 is offered first when both freeze in one event: the model's choice (log 42). -/
def Obligations.EventCountersCount : Prop :=
  ∀ (e : CounterEvent) (s : State), acting s = true → s.exc.counter1.chained = false →
    let t := countEvent e s
    let froze := fun (before after : EventCounter) => before.frozen = false ∧ after.frozen = true
    let frame := fun (n : Byte) (c : EventCounter) => (⟨127, .alert ⟨n, eventByte c.event, BitVec.ofNat 16 c.limit⟩, 0⟩ : Queued)
    (let c := s.exc.counter1
     t.exc.counter1 = if c.event = some e ∧ c.frozen = false then
       { c with value := c.value + 1, frozen := decide (c.value + 1 = c.limit) } else c) ∧
    (let c := s.exc.counter2
     t.exc.counter2 =
       if c.event = some e ∧ c.frozen = false ∧ (c.chained = true → s.exc.counter1.frozen = true) then
         { c with value := c.value + 1, frozen := decide (c.value + 1 = c.limit) } else c) ∧
    (speaks s = true → Room 2 s → t.bus.waiting = s.bus.waiting ++
      (if froze s.exc.counter1 t.exc.counter1 then [frame 1 s.exc.counter1] else []) ++
      (if froze s.exc.counter2 t.exc.counter2 then [frame 2 s.exc.counter2] else [])) ∧
    (speaks s = false → t.bus = s.bus) ∧
    { t with exc := { t.exc with counter1 := s.exc.counter1, counter2 := s.exc.counter2 }, bus := s.bus, owed := s.owed } = s

/-! ## The hall bus -/

/-- R170 to R173: the course of a frame: the oldest of the highest class begins, a collision makes it jam, the jam ends in a
backoff of R slots or in waiting, the backoff ends in waiting, a waiting frame begins again, a sent frame leaves. After its 13th
collision it is abandoned and counted, and its owner takes the report: R69: the second QUERY of an entry at attempts 1, the
failure of one at attempts 2; R120: the retry delay of the handoff whose latest attempt it was, or GAVE_UP after the fifth;
R139, R143: in RUNNING a new PATH or HOLD. R177: in the event that sends a frame the pending reports are delivered: in RUNNING
each is answered with a new PATH or HOLD. With no frame in attempt the events of one have no effect (log 3). -/
def Obligations.FrameTakesItsCourse : Prop :=
  ∀ s : State, Ready s →
    (∀ pre q post, s.bus.attempt = none → s.bus.waiting = pre ++ q :: post →
      (∀ x ∈ pre, queuedClass q < queuedClass x) → (∀ x ∈ post, queuedClass q ≤ queuedClass x) →
      exec .transmitStart s =
        .next (drivePins { s with bus := { s.bus with waiting := pre ++ post, attempt := some ⟨q, 0, .sending⟩ } })) ∧
    (∀ q n, s.bus.attempt = some ⟨q, n, .waiting⟩ →
      exec .transmitStart s = .next (drivePins { s with bus := { s.bus with attempt := some ⟨q, n, .sending⟩ } })) ∧
    (∀ q n, s.bus.attempt = some ⟨q, n, .sending⟩ →
      exec .collision s = .next (drivePins { s with bus := { s.bus with
        attempt := some ⟨q, n + 1, .jamming⟩, collisions := s.bus.collisions + 1 } }) ∧
      (s.bus.reports = [] → exec .frameSent s = .next (drivePins { s with bus := { s.bus with
        attempt := none, sent := s.bus.sent + 1 } })) ∧
      ((∀ r ∈ s.bus.reports, ∃ station, r = .hold station ∨ r = .path station) →
        s.bus.waiting.length + s.bus.reports.length ≤ 16 →
        ∃ t, exec .frameSent s = .next t ∧ t.bus.attempt = none ∧ t.bus.sent = s.bus.sent + 1 ∧ t.bus.reports = [] ∧
          { t with bus := s.bus, pins := s.pins } = s ∧
          (s.loader.node ≠ .running → t.bus.waiting = s.bus.waiting) ∧
          (s.loader.node = .running →
            (∀ station, .path station ∈ s.bus.reports → Waits station (.path s.flow.reach) t) ∧
            (∀ station, .hold station ∈ s.bus.reports → Waits station (.hold (byteOf s.flow.holdValue)) t)))) ∧
    (∀ q n, s.bus.attempt = some ⟨q, n, .jamming⟩ → n < 13 →
      let x := s.bus.lfsr
      let next : BitVec 16 := BitVec.ofNat 16 (x.toNat * 2 +
        ((x.toNat / 32768 + x.toNat / 8192 + x.toNat / 4096 + x.toNat / 1024) % 2))
      let slots := next.toNat % 2 ^ min n 8
      exec .jamComplete s = .next (drivePins { s with bus := { s.bus with
        lfsr := next, attempt := some ⟨q, n, if slots = 0 then .waiting else .backoff slots⟩ } })) ∧
    (∀ q n, s.bus.attempt = some ⟨q, n, .jamming⟩ → 13 ≤ n →
      ∃ t, exec .jamComplete s = .next t ∧ t.pins.busEn = false ∧
        steady t = steady { s with bus := { s.bus with attempt := none, excess := s.bus.excess + 1 } }) ∧
    (∀ q n, s.bus.attempt = some ⟨q, n, .jamming⟩ → 13 ≤ n → s.bus.reports = [] → s.loader.node ≠ .duplicate →
      s.bus.waiting.length + 3 ≤ 16 → ∃ t, exec .jamComplete s = .next t ∧
        (∀ plate, q.payload = .query plate →
          (queryFor plate.toNat s = none → t.queries = s.queries ∧ t.tracker = s.tracker) ∧
          (∀ e, queryFor plate.toNat s = some e →
            (e.attempts = 1 → t.tracker = s.tracker ∧ Waits 126 (.query plate) t ∧ t.queries = s.queries.map (fun x =>
              if x.plate = plate.toNat then { x with attempts := 2, deadline := s.time + 200 } else x)) ∧
            (e.attempts ≠ 1 → t.queries = s.queries.filter (fun x => decide (x.plate ≠ plate.toNat)) ∧
              t.tracker.segment = s.tracker.segment.map (fun b =>
                if .bag b.slot ∈ e.waiters then { b with status := .unresolved } else b) ∧
              t.handoff.expected = s.handoff.expected.map (fun y =>
                if .entry y.source y.id ∈ e.waiters then { y with status := .unresolved } else y)))) ∧
        (∀ p, q.payload = .handoff p →
          let ends := fun (f : Departure → Departure) => t.tracker = (updateDeparture q.dest p.id f s).tracker
          (∀ d g ms, openDeparture q.dest p.id s = some d → d.outgoing = some ⟨g, .answer ms⟩ → d.attempts = q.tag →
            (d.attempts < 5 → ends (fun y => { y with outgoing := some ⟨g, .retry 20⟩ }) ∧ t.handoff = s.handoff) ∧
            (5 ≤ d.attempts → (∀ y ∈ s.handoff.peers, y.giveUps < 2) →
              ends (fun y => { y with state := .gaveUp, outgoing := none }) ∧ t.handoff.giveUps = s.handoff.giveUps + 1)) ∧
          ((∀ d, openDeparture q.dest p.id s = some d → d.attempts ≠ q.tag ∨ ∀ g ms, d.outgoing ≠ some ⟨g, .answer ms⟩) →
            t.tracker = s.tracker ∧ t.handoff = s.handoff)) ∧
        (s.loader.node = .running → (∀ v, q.payload = .path v → Waits q.dest (.path s.flow.reach) t) ∧
          (∀ v, q.payload = .hold v → Waits q.dest (.hold (byteOf s.flow.holdValue)) t))) ∧
    (∀ q n slots, s.bus.attempt = some ⟨q, n, .backoff slots⟩ →
      exec .backoffExpiry s = .next (drivePins { s with bus := { s.bus with attempt := some ⟨q, n, .waiting⟩ } })) ∧
    (s.bus.attempt = none →
      exec .collision s = .next (drivePins s) ∧ exec .jamComplete s = .next (drivePins s) ∧
      exec .backoffExpiry s = .next (drivePins s) ∧ exec .frameSent s = .next (drivePins s) ∧
      (s.bus.waiting = [] → exec .transmitStart s = .next (drivePins s)))

/-- R167 to R169, R177: an offer: a HOLD or PATH replaces a waiting one of its kind to its station in place; with room it joins
at the end; at a full queue it displaces the youngest frame of a lower class or is refused, and queue-drop counts. The report of
a HANDOFF or QUERY refused is owed at once, that of a HOLD or PATH stands pending, once, until one is accepted or replaced. When
within the event an owed report is taken, and that one being delivered is cleared in the same way, is the model's (log 7). In
DUPLICATE an offer is discarded. -/
def Obligations.OffersToTheTransmitQueue : Prop :=
  ∀ (q : Queued) (s : State), (s.loader.node = .duplicate → offerFrame q s = s) ∧ (s.loader.node ≠ .duplicate →
    let cleared := fun (reports : List Report) => reports.filter (fun r => match r, q.payload with
      | .hold station, .hold _ => decide (station ≠ q.dest)
      | .path station, .path _ => decide (station ≠ q.dest)
      | .handoff peer id n, .handoff p => decide (¬ (peer = q.dest ∧ id = p.id ∧ n = q.tag))
      | .query plate, .query plate' => decide (plate ≠ plate')
      | _, _ => true)
    let clears := fun (b : Bus) => b.reports = cleared s.bus.reports ∧ b.due = cleared s.bus.due
    (∀ pre x post, s.bus.waiting = pre ++ x :: post → replaces q.dest q.payload x = true →
      (∀ y ∈ pre ++ post, replaces q.dest q.payload y = false) →
      (offerFrame q s).bus.waiting = pre ++ { x with payload := q.payload } :: post ∧
      (offerFrame q s).bus.queueDrop = s.bus.queueDrop ∧ (offerFrame q s).owed = s.owed ∧
      clears (offerFrame q s).bus) ∧
    ((∀ y ∈ s.bus.waiting, replaces q.dest q.payload y = false) →
      (queueLength s.bus < 16 → (offerFrame q s).bus.waiting = s.bus.waiting ++ [q] ∧
        (offerFrame q s).bus.queueDrop = s.bus.queueDrop ∧ (offerFrame q s).owed = s.owed ∧
        clears (offerFrame q s).bus) ∧
      (16 ≤ queueLength s.bus →
        (∀ pre x post, s.bus.waiting = pre ++ x :: post → (∀ y ∈ pre, queuedClass y ≤ queuedClass x) →
          (∀ y ∈ post, queuedClass y < queuedClass x) → queuedClass q < queuedClass x →
          (offerFrame q s).bus.waiting = pre ++ post ++ [q] ∧ (offerFrame q s).bus.queueDrop = s.bus.queueDrop + 1 ∧
          (offerFrame q s).owed = s.owed ++ (unsentReport x).toList ∧ clears (offerFrame q s).bus) ∧
        ((∀ y ∈ s.bus.waiting, queuedClass y ≤ queuedClass q) →
          (offerFrame q s).bus.waiting = s.bus.waiting ∧ (offerFrame q s).bus.queueDrop = s.bus.queueDrop + 1 ∧
          (offerFrame q s).bus.due = s.bus.due ∧
          (∀ r, (∃ v, q.payload = .hold v ∧ r = .hold q.dest) ∨ (∃ v, q.payload = .path v ∧ r = .path q.dest) →
            (offerFrame q s).owed = s.owed ∧
            (offerFrame q s).bus.reports =
              if r ∈ s.bus.reports ∨ r ∈ s.bus.due then s.bus.reports else s.bus.reports ++ [r]) ∧
          (∀ r, (∃ p, q.payload = .handoff p ∧ r = .handoff q.dest p.id q.tag) ∨ (∃ v, q.payload = .query v ∧ r = .query v) →
            (offerFrame q s).owed = s.owed ++ [r] ∧ (offerFrame q s).bus.reports = s.bus.reports)))) ∧
    (offerFrame q s).bus.attempt = s.bus.attempt ∧
    { offerFrame q s with bus := s.bus, owed := s.owed } = s)

/-- R174, R178: a frame the receive checks discard is counted as format, CRC or unknown kind, or not at all, and changes nothing
else but the event counters of a CRC error. While this part sends or jams no frame is assembled (log 27). -/
def Obligations.DiscardedFramesAreCounted : Prop :=
  ∀ (f : RawFrame) (s : State), Ready s →
    (onLine s.bus = true → exec (.frameDiscarded f) s = .next (drivePins s)) ∧
    (onLine s.bus = false →
      (classify s.loader.station f = .format →
        exec (.frameDiscarded f) s = .next (drivePins { s with bus := { s.bus with format := s.bus.format + 1 } })) ∧
      (classify s.loader.station f = .unknownKind → exec (.frameDiscarded f) s =
        .next (drivePins { s with bus := { s.bus with unknownKind := s.bus.unknownKind + 1 } })) ∧
      (classify s.loader.station f = .runt ∨ classify s.loader.station f = .elsewhere →
        exec (.frameDiscarded f) s = .next (drivePins s)) ∧
      (classify s.loader.station f = .crc → ∃ t, exec (.frameDiscarded f) s = .next t ∧
        steady t = steady { s with bus := { s.bus with crc := s.bus.crc + 1 } } ∧
        (Room 2 s → t.belt = s.belt ∧ t.drive = s.drive ∧ t.tracker = s.tracker ∧ t.queries = s.queries ∧ t.flow = s.flow)))

/-- R174, R175, R123: kinds without an owner here (an ANNOUNCE reaches R184 by its SRC alone): a frame for this station or for
all is counted and no more; one for another station, or one whose SRC is no station, does not reach an owner, and such a
command's effect is the model's (log 10). With strap number 0, 126 or 127 only a frame for all is delivered. From a peer in
state DOWN it brings the peer UP, with no give-ups and its outlets' learned reaches as configured. R79, R96, R138: the
advertised reach follows, and a changed one is kept and sent to every source in RUNNING; R90, R92, R93, R95: every decided
record of a queue in order is decided afresh: the same outlet stands, a fired bag refuses another with OVERRIDE_LATE, and one
alone in the queue is moved to it. -/
def Obligations.KindsWithoutAnOwner : Prop :=
  ∀ (h : Header) (c : Instr),
    (∃ p, c = .announceReceived h p) ∨ (∃ p, c = .queryReceived h p) ∨ (∃ p, c = .strayReceived h p) ∨
      (∃ p, c = .alertReceived h p) ∨ (∃ i p d, c = .statusReplyReceived h i p d ∧ d.length ≤ 46) →
    ∀ s : State,
      (Taken h s → exec c s = .next (drivePins (counted s))) ∧
      (Ready s → onLine s.bus = false → stationNumber h.src = true → h.src ≠ s.loader.station →
        h.dest ≠ 127 → h.dest ≠ s.loader.station ∨ stationNumber s.loader.station = false → exec c s = .next (drivePins s)) ∧
      (Ready s → onLine s.bus = false → stationNumber h.src = false →
        exec c s = .next (drivePins { s with bus := { s.bus with format := s.bus.format + 1 } })) ∧
      (Ready s → Delivered h s → acting s = true → peerDown s h.src = true →
        ∃ t, exec c s = .next t ∧
          let on := fun (r : RouteRow) => if r.kind = .peer ∧ r.peer = h.src then { r with learned := r.reach } else r
          let written := { counted s with
            routes := { s.routes with
              rows := ⟨s.routes.rows.o0.map on, s.routes.rows.o1.map on, s.routes.rows.o2.map on, s.routes.rows.o3.map on⟩ }
            handoff := { s.handoff with peers := s.handoff.peers.map (fun p =>
              if p.station = h.src then { p with down := false, giveUps := 0 } else p) } }
          steady t = steady written ∧
            ((segmentSlots s).Nodup → Room ((cfg s).sources.length + redecisionFrames written s.tracker.segment) s →
              peerDown t h.src = false ∧ TableChanged s written t))

/-- R179, R174: the bytes of a frame and what the receive checks read from them agree: every payload whose length its kind
allows is delivered as it was sent, and a frame that is delivered has exactly the bytes of what was read. -/
def Obligations.FramesReadAsTheyAreWritten : Prop :=
  (∀ (station src dest : Byte) (p : Payload), stationNumber src = true → src ≠ station →
    dest = 127 ∨ (stationNumber station = true ∧ dest = station) →
    (∀ i g d, p = .statusReply i g d → d.length ≤ 46) →
    classify station ⟨frameBytes src dest p, true⟩ = .delivered ⟨dest, src⟩ p) ∧
  (∀ (station : Byte) (f : RawFrame) (h : Header) (p : Payload), classify station f = .delivered h p →
    f = ⟨frameBytes h.src h.dest p, true⟩)

end
end

