-- ==== Sys2Proof/Laws/Drive.lean ====
section
/-! SUPPORT. The Drive Controller's operations keep the law of R11 and never raise the reference; which reasons each of them
can change. -/

namespace Sys2Proof.Machine

/-! ## The reference -/

theorem enterAccel_r (n : Nat) (d : Drive) : (enterAccel n d).r = d.r := by unfold enterAccel; split <;> rfl

theorem enterDecel_r (d : Drive) : (enterDecel d).r = d.r := by unfold enterDecel; split <;> rfl

theorem enterAccel_reasons (n : Nat) (d : Drive) : (enterAccel n d).reasons = d.reasons := by unfold enterAccel; split <;> rfl

theorem enterDecel_reasons (d : Drive) : (enterDecel d).reasons = d.reasons := by unfold enterDecel; split <;> rfl

/-- R11: examining the state leaves the set as it is. -/
theorem examine_reasons (n : Nat) (d : Drive) : (examine n d).reasons = d.reasons := by
  unfold examine; split <;> (try split) <;> simp [enterAccel_reasons, enterDecel_reasons]

/-- R11: examining the state never raises the reference. -/
theorem examine_r (n : Nat) (d : Drive) : (examine n d).r ≤ d.r := by
  unfold examine; split <;> (try split) <;> simp [enterAccel_r, enterDecel_r]

theorem joinReason_r (n : Nat) (x : StopReason) (d : Drive) : (joinReason n x d).r ≤ d.r := by
  unfold joinReason
  split
  · exact le_rfl
  · split
    · split
      · exact le_rfl
      · simp [halt]
    · exact examine_r n _

theorem leaveReason_r (n : Nat) (x : StopReason) (d : Drive) : (leaveReason n x d).r ≤ d.r := by
  unfold leaveReason
  split
  · exact examine_r n _
  · exact le_rfl

theorem clearJamStall_r (n : Nat) (d : Drive) : (clearJamStall n d).r ≤ d.r := by
  unfold clearJamStall
  split
  · exact examine_r n _
  · exact le_rfl

/-! ## The set -/

/-- R8: what a reason that joins leaves in the set. -/
theorem joinReason_reasons (n : Nat) (x : StopReason) (d : Drive) :
    (joinReason n x d).reasons = setReasonBit d.reasons x true := by
  unfold joinReason
  split
  · rename_i h
    cases x <;> simp_all [hasReason, setReasonBit] <;> cases hr : d.reasons <;> simp_all
  · split
    · split <;> simp [halt]
    · simp [examine_reasons]

/-- R8: what a reason that leaves leaves in the set. -/
theorem leaveReason_reasons (n : Nat) (x : StopReason) (d : Drive) :
    (leaveReason n x d).reasons = setReasonBit d.reasons x false := by
  unfold leaveReason
  split
  · simp [examine_reasons]
  · rename_i h
    cases x <;> simp_all [hasReason, setReasonBit] <;> cases hr : d.reasons <;> simp_all

/-! ## A halt -/

/-- R13: a reason that joins leaves a halted drive as it is but for the set. -/
theorem joinReason_halted (n : Nat) (x : StopReason) (d : Drive) (h : d.state = .halted) :
    joinReason n x d = { d with reasons := (joinReason n x d).reasons } := by
  unfold joinReason
  split
  · rfl
  · simp only [h]
    split
    · rfl
    · simp [examine]

/-- R13: a reason that leaves leaves a halted drive as it is but for the set. -/
theorem leaveReason_halted (n : Nat) (x : StopReason) (d : Drive) (h : d.state = .halted) :
    leaveReason n x d = { d with reasons := (leaveReason n x d).reasons } := by
  unfold leaveReason
  split
  · simp [examine, h]
  · rfl

/-! ## The law of R11 -/

theorem enterAccel_law (n : Nat) (d : Drive) (hn : noReasons d.reasons = true) (hq : d.quiet = none) :
    DriveLaw (enterAccel n d) := by
  unfold enterAccel
  split <;> exact ⟨by simp, by simp_all [halting, noReasons], by simp [hn], by simp [hq]⟩

theorem enterDecel_law (d : Drive) (hh : halting d.reasons = false) (hq : d.quiet = none) : DriveLaw (enterDecel d) := by
  unfold enterDecel
  split
  · rename_i hr
    exact ⟨by simp [hr], by simp, by simp, by simp [hq]⟩
  · exact ⟨by simp, by simp [hh], by simp, by simp [hq]⟩

/-- The law holds after the state is examined when its parts but for the run hold before. -/
theorem examine_law (n : Nat) (d : Drive) (rest : d.state = .stopped ∨ d.state = .halted → d.r = 0)
    (halts : halting d.reasons = true → d.state = .stopped ∨ d.state = .halted)
    (coasts : d.quiet.isSome = true → d.state = .halted) : DriveLaw (examine n d) := by
  have hq : d.state ≠ .halted → d.quiet = none := fun h => by
    rcases hd : d.quiet with _ | q
    · rfl
    · exact absurd (coasts (by simp [hd])) h
  have hh : d.state = .accel ∨ d.state = .run ∨ d.state = .decel → halting d.reasons = false := by
    intro h
    by_contra hc
    rcases halts (by simpa using hc) with h' | h' <;> simp [h'] at h
  unfold examine
  rcases hs : d.state with _ | _ | _ | _ | _ <;> simp only [] <;> by_cases hn : noReasons d.reasons = true <;>
    (try simp only [hn, if_true, if_false, Bool.false_eq_true])
  · exact enterAccel_law _ _ hn (hq (by simp [hs]))
  · exact ⟨rest, halts, by simp [hs], coasts⟩
  · exact ⟨by simp [hs], halts, fun _ => hn, coasts⟩
  · exact enterDecel_law _ (hh (by simp [hs])) (hq (by simp [hs]))
  · exact ⟨by simp [hs], halts, fun _ => hn, coasts⟩
  · exact enterDecel_law _ (hh (by simp [hs])) (hq (by simp [hs]))
  · exact enterAccel_law _ _ hn (hq (by simp [hs]))
  · exact ⟨by simp [hs], halts, by simp [hs], coasts⟩
  · exact ⟨rest, halts, by simp [hs], coasts⟩
  · exact ⟨rest, halts, by simp [hs], coasts⟩

theorem halt_law (d : Drive) : DriveLaw (halt d) := by constructor <;> simp [halt]

theorem joinReason_law (n : Nat) (x : StopReason) (d : Drive) (h : DriveLaw d) : DriveLaw (joinReason n x d) := by
  unfold joinReason
  split
  · exact h
  · split
    · split
      · rename_i hs
        exact ⟨h.rest, fun _ => .inr hs, fun hr => by rcases hr with hr | hr <;> simp_all, h.coasts⟩
      · exact halt_law _
    · rename_i hx
      refine examine_law n _ h.rest (fun hh => h.halts ?_) h.coasts
      cases x <;> simp_all [isHalting, setReasonBit, halting]

theorem leaveReason_law (n : Nat) (x : StopReason) (d : Drive) (h : DriveLaw d) : DriveLaw (leaveReason n x d) := by
  unfold leaveReason
  split
  · refine examine_law n _ h.rest (fun hh => h.halts ?_) h.coasts
    cases x <;> simp_all [setReasonBit, halting] <;> tauto
  · exact h

theorem clearJamStall_law (n : Nat) (d : Drive) (h : DriveLaw d) : DriveLaw (clearJamStall n d) := by
  unfold clearJamStall
  split
  · refine examine_law n _ h.rest (fun hh => h.halts ?_) h.coasts
    simp_all [halting]
  · exact h

theorem restartQuiet_law (d : Drive) (h : DriveLaw d) : DriveLaw (restartQuiet d) := by
  unfold restartQuiet
  split
  · exact ⟨h.rest, h.halts, h.runs, fun _ => h.coasts (by assumption)⟩
  · exact h

theorem judgeStall_law (c : JunctionConfig) (v : Nat) (d : Drive) (h : DriveLaw d) : DriveLaw (judgeStall c v d) := by
  unfold judgeStall
  split
  · split <;> exact ⟨h.rest, h.halts, h.runs, h.coasts⟩
  all_goals exact h

theorem quietOut_law (n : Nat) (d : Drive) (hd : d.state = .halted) (h : DriveLaw d) : DriveLaw (quietOut n d) :=
  examine_law n _ (fun _ => h.rest (.inr hd)) (fun _ => .inl rfl) (by simp)

/-- R12: a ramp step keeps the law. -/
theorem rampDrive_law (c : JunctionConfig) (d : Drive) (h : DriveLaw d) : DriveLaw (rampDrive c d) := by
  have hq : d.state ≠ .halted → d.quiet = none := fun hh => by
    rcases hd : d.quiet with _ | q
    · rfl
    · exact absurd (h.coasts (by simp [hd])) hh
  unfold rampDrive
  cases hs : d.state with
  | accel =>
    have hr := h.runs (.inl hs)
    have hh := h.halts
    simp only
    split <;> exact ⟨by simp, by simp_all, by simp_all, by simp_all⟩
  | decel =>
    have hh := h.halts
    simp only
    split
    · exact examine_law _ _ (by simp) (by simp) (by simp_all)
    · exact ⟨by simp_all, by simp_all, by simp_all, by simp_all⟩
  | stopped => exact h
  | run => exact h
  | halted => exact h

end Sys2Proof.Machine
end

