-- ==== Sys2Proof/Laws/State.lean ====
section
/-! SUPPORT. What each update of the state leaves in each field: one lemma per field per update, true by unfolding. -/

namespace Sys2Proof.Machine

/-! ## onDrive -/

@[simp] theorem onDrive_time (f : Drive → Drive) (s : State) : (onDrive f s).time = s.time := rfl
@[simp] theorem onDrive_inReset (f : Drive → Drive) (s : State) : (onDrive f s).inReset = s.inReset := rfl
@[simp] theorem onDrive_lines (f : Drive → Drive) (s : State) : (onDrive f s).lines = s.lines := rfl
@[simp] theorem onDrive_loader (f : Drive → Drive) (s : State) : (onDrive f s).loader = s.loader := rfl
@[simp] theorem onDrive_belt (f : Drive → Drive) (s : State) : (onDrive f s).belt = s.belt := rfl
@[simp] theorem onDrive_drive (f : Drive → Drive) (s : State) : (onDrive f s).drive = f s.drive := rfl
@[simp] theorem onDrive_tracker (f : Drive → Drive) (s : State) : (onDrive f s).tracker = s.tracker := rfl
@[simp] theorem onDrive_reader (f : Drive → Drive) (s : State) : (onDrive f s).reader = s.reader := rfl
@[simp] theorem onDrive_cache (f : Drive → Drive) (s : State) : (onDrive f s).cache = s.cache := rfl
@[simp] theorem onDrive_queries (f : Drive → Drive) (s : State) : (onDrive f s).queries = s.queries := rfl
@[simp] theorem onDrive_routes (f : Drive → Drive) (s : State) : (onDrive f s).routes = s.routes := rfl
@[simp] theorem onDrive_divert (f : Drive → Drive) (s : State) : (onDrive f s).divert = s.divert := rfl
@[simp] theorem onDrive_holdOff (f : Drive → Drive) (s : State) : (onDrive f s).holdOff = s.holdOff := rfl
@[simp] theorem onDrive_handoff (f : Drive → Drive) (s : State) : (onDrive f s).handoff = s.handoff := rfl
@[simp] theorem onDrive_flow (f : Drive → Drive) (s : State) : (onDrive f s).flow = s.flow := rfl
@[simp] theorem onDrive_exc (f : Drive → Drive) (s : State) : (onDrive f s).exc = s.exc := rfl
@[simp] theorem onDrive_bus (f : Drive → Drive) (s : State) : (onDrive f s).bus = s.bus := rfl
@[simp] theorem onDrive_owed (f : Drive → Drive) (s : State) : (onDrive f s).owed = s.owed := rfl
@[simp] theorem onDrive_serial (f : Drive → Drive) (s : State) : (onDrive f s).serial = s.serial := rfl
@[simp] theorem onDrive_pins (f : Drive → Drive) (s : State) : (onDrive f s).pins = s.pins := rfl
@[simp] theorem onDrive_pending (f : Drive → Drive) (s : State) : (onDrive f s).pending = s.pending := rfl

/-! ## onReader -/

@[simp] theorem onReader_time (f : ReaderLink → ReaderLink) (s : State) : (onReader f s).time = s.time := rfl
@[simp] theorem onReader_inReset (f : ReaderLink → ReaderLink) (s : State) : (onReader f s).inReset = s.inReset := rfl
@[simp] theorem onReader_lines (f : ReaderLink → ReaderLink) (s : State) : (onReader f s).lines = s.lines := rfl
@[simp] theorem onReader_loader (f : ReaderLink → ReaderLink) (s : State) : (onReader f s).loader = s.loader := rfl
@[simp] theorem onReader_belt (f : ReaderLink → ReaderLink) (s : State) : (onReader f s).belt = s.belt := rfl
@[simp] theorem onReader_drive (f : ReaderLink → ReaderLink) (s : State) : (onReader f s).drive = s.drive := rfl
@[simp] theorem onReader_tracker (f : ReaderLink → ReaderLink) (s : State) : (onReader f s).tracker = s.tracker := rfl
@[simp] theorem onReader_reader (f : ReaderLink → ReaderLink) (s : State) : (onReader f s).reader = f s.reader := rfl
@[simp] theorem onReader_cache (f : ReaderLink → ReaderLink) (s : State) : (onReader f s).cache = s.cache := rfl
@[simp] theorem onReader_queries (f : ReaderLink → ReaderLink) (s : State) : (onReader f s).queries = s.queries := rfl
@[simp] theorem onReader_routes (f : ReaderLink → ReaderLink) (s : State) : (onReader f s).routes = s.routes := rfl
@[simp] theorem onReader_divert (f : ReaderLink → ReaderLink) (s : State) : (onReader f s).divert = s.divert := rfl
@[simp] theorem onReader_holdOff (f : ReaderLink → ReaderLink) (s : State) : (onReader f s).holdOff = s.holdOff := rfl
@[simp] theorem onReader_handoff (f : ReaderLink → ReaderLink) (s : State) : (onReader f s).handoff = s.handoff := rfl
@[simp] theorem onReader_flow (f : ReaderLink → ReaderLink) (s : State) : (onReader f s).flow = s.flow := rfl
@[simp] theorem onReader_exc (f : ReaderLink → ReaderLink) (s : State) : (onReader f s).exc = s.exc := rfl
@[simp] theorem onReader_bus (f : ReaderLink → ReaderLink) (s : State) : (onReader f s).bus = s.bus := rfl
@[simp] theorem onReader_owed (f : ReaderLink → ReaderLink) (s : State) : (onReader f s).owed = s.owed := rfl
@[simp] theorem onReader_serial (f : ReaderLink → ReaderLink) (s : State) : (onReader f s).serial = s.serial := rfl
@[simp] theorem onReader_pins (f : ReaderLink → ReaderLink) (s : State) : (onReader f s).pins = s.pins := rfl
@[simp] theorem onReader_pending (f : ReaderLink → ReaderLink) (s : State) : (onReader f s).pending = s.pending := rfl

/-! ## onBus -/

@[simp] theorem onBus_time (f : Bus → Bus) (s : State) : (onBus f s).time = s.time := rfl
@[simp] theorem onBus_inReset (f : Bus → Bus) (s : State) : (onBus f s).inReset = s.inReset := rfl
@[simp] theorem onBus_lines (f : Bus → Bus) (s : State) : (onBus f s).lines = s.lines := rfl
@[simp] theorem onBus_loader (f : Bus → Bus) (s : State) : (onBus f s).loader = s.loader := rfl
@[simp] theorem onBus_belt (f : Bus → Bus) (s : State) : (onBus f s).belt = s.belt := rfl
@[simp] theorem onBus_drive (f : Bus → Bus) (s : State) : (onBus f s).drive = s.drive := rfl
@[simp] theorem onBus_tracker (f : Bus → Bus) (s : State) : (onBus f s).tracker = s.tracker := rfl
@[simp] theorem onBus_reader (f : Bus → Bus) (s : State) : (onBus f s).reader = s.reader := rfl
@[simp] theorem onBus_cache (f : Bus → Bus) (s : State) : (onBus f s).cache = s.cache := rfl
@[simp] theorem onBus_queries (f : Bus → Bus) (s : State) : (onBus f s).queries = s.queries := rfl
@[simp] theorem onBus_routes (f : Bus → Bus) (s : State) : (onBus f s).routes = s.routes := rfl
@[simp] theorem onBus_divert (f : Bus → Bus) (s : State) : (onBus f s).divert = s.divert := rfl
@[simp] theorem onBus_holdOff (f : Bus → Bus) (s : State) : (onBus f s).holdOff = s.holdOff := rfl
@[simp] theorem onBus_handoff (f : Bus → Bus) (s : State) : (onBus f s).handoff = s.handoff := rfl
@[simp] theorem onBus_flow (f : Bus → Bus) (s : State) : (onBus f s).flow = s.flow := rfl
@[simp] theorem onBus_exc (f : Bus → Bus) (s : State) : (onBus f s).exc = s.exc := rfl
@[simp] theorem onBus_bus (f : Bus → Bus) (s : State) : (onBus f s).bus = f s.bus := rfl
@[simp] theorem onBus_owed (f : Bus → Bus) (s : State) : (onBus f s).owed = s.owed := rfl
@[simp] theorem onBus_serial (f : Bus → Bus) (s : State) : (onBus f s).serial = s.serial := rfl
@[simp] theorem onBus_pins (f : Bus → Bus) (s : State) : (onBus f s).pins = s.pins := rfl
@[simp] theorem onBus_pending (f : Bus → Bus) (s : State) : (onBus f s).pending = s.pending := rfl

/-! ## onLoader -/

@[simp] theorem onLoader_time (f : Loader → Loader) (s : State) : (onLoader f s).time = s.time := rfl
@[simp] theorem onLoader_inReset (f : Loader → Loader) (s : State) : (onLoader f s).inReset = s.inReset := rfl
@[simp] theorem onLoader_lines (f : Loader → Loader) (s : State) : (onLoader f s).lines = s.lines := rfl
@[simp] theorem onLoader_loader (f : Loader → Loader) (s : State) : (onLoader f s).loader = f s.loader := rfl
@[simp] theorem onLoader_belt (f : Loader → Loader) (s : State) : (onLoader f s).belt = s.belt := rfl
@[simp] theorem onLoader_drive (f : Loader → Loader) (s : State) : (onLoader f s).drive = s.drive := rfl
@[simp] theorem onLoader_tracker (f : Loader → Loader) (s : State) : (onLoader f s).tracker = s.tracker := rfl
@[simp] theorem onLoader_reader (f : Loader → Loader) (s : State) : (onLoader f s).reader = s.reader := rfl
@[simp] theorem onLoader_cache (f : Loader → Loader) (s : State) : (onLoader f s).cache = s.cache := rfl
@[simp] theorem onLoader_queries (f : Loader → Loader) (s : State) : (onLoader f s).queries = s.queries := rfl
@[simp] theorem onLoader_routes (f : Loader → Loader) (s : State) : (onLoader f s).routes = s.routes := rfl
@[simp] theorem onLoader_divert (f : Loader → Loader) (s : State) : (onLoader f s).divert = s.divert := rfl
@[simp] theorem onLoader_holdOff (f : Loader → Loader) (s : State) : (onLoader f s).holdOff = s.holdOff := rfl
@[simp] theorem onLoader_handoff (f : Loader → Loader) (s : State) : (onLoader f s).handoff = s.handoff := rfl
@[simp] theorem onLoader_flow (f : Loader → Loader) (s : State) : (onLoader f s).flow = s.flow := rfl
@[simp] theorem onLoader_exc (f : Loader → Loader) (s : State) : (onLoader f s).exc = s.exc := rfl
@[simp] theorem onLoader_bus (f : Loader → Loader) (s : State) : (onLoader f s).bus = s.bus := rfl
@[simp] theorem onLoader_owed (f : Loader → Loader) (s : State) : (onLoader f s).owed = s.owed := rfl
@[simp] theorem onLoader_serial (f : Loader → Loader) (s : State) : (onLoader f s).serial = s.serial := rfl
@[simp] theorem onLoader_pins (f : Loader → Loader) (s : State) : (onLoader f s).pins = s.pins := rfl
@[simp] theorem onLoader_pending (f : Loader → Loader) (s : State) : (onLoader f s).pending = s.pending := rfl

/-! ## onTracker -/

@[simp] theorem onTracker_time (f : Tracker → Tracker) (s : State) : (onTracker f s).time = s.time := rfl
@[simp] theorem onTracker_inReset (f : Tracker → Tracker) (s : State) : (onTracker f s).inReset = s.inReset := rfl
@[simp] theorem onTracker_lines (f : Tracker → Tracker) (s : State) : (onTracker f s).lines = s.lines := rfl
@[simp] theorem onTracker_loader (f : Tracker → Tracker) (s : State) : (onTracker f s).loader = s.loader := rfl
@[simp] theorem onTracker_belt (f : Tracker → Tracker) (s : State) : (onTracker f s).belt = s.belt := rfl
@[simp] theorem onTracker_drive (f : Tracker → Tracker) (s : State) : (onTracker f s).drive = s.drive := rfl
@[simp] theorem onTracker_tracker (f : Tracker → Tracker) (s : State) : (onTracker f s).tracker = f s.tracker := rfl
@[simp] theorem onTracker_reader (f : Tracker → Tracker) (s : State) : (onTracker f s).reader = s.reader := rfl
@[simp] theorem onTracker_cache (f : Tracker → Tracker) (s : State) : (onTracker f s).cache = s.cache := rfl
@[simp] theorem onTracker_queries (f : Tracker → Tracker) (s : State) : (onTracker f s).queries = s.queries := rfl
@[simp] theorem onTracker_routes (f : Tracker → Tracker) (s : State) : (onTracker f s).routes = s.routes := rfl
@[simp] theorem onTracker_divert (f : Tracker → Tracker) (s : State) : (onTracker f s).divert = s.divert := rfl
@[simp] theorem onTracker_holdOff (f : Tracker → Tracker) (s : State) : (onTracker f s).holdOff = s.holdOff := rfl
@[simp] theorem onTracker_handoff (f : Tracker → Tracker) (s : State) : (onTracker f s).handoff = s.handoff := rfl
@[simp] theorem onTracker_flow (f : Tracker → Tracker) (s : State) : (onTracker f s).flow = s.flow := rfl
@[simp] theorem onTracker_exc (f : Tracker → Tracker) (s : State) : (onTracker f s).exc = s.exc := rfl
@[simp] theorem onTracker_bus (f : Tracker → Tracker) (s : State) : (onTracker f s).bus = s.bus := rfl
@[simp] theorem onTracker_owed (f : Tracker → Tracker) (s : State) : (onTracker f s).owed = s.owed := rfl
@[simp] theorem onTracker_serial (f : Tracker → Tracker) (s : State) : (onTracker f s).serial = s.serial := rfl
@[simp] theorem onTracker_pins (f : Tracker → Tracker) (s : State) : (onTracker f s).pins = s.pins := rfl
@[simp] theorem onTracker_pending (f : Tracker → Tracker) (s : State) : (onTracker f s).pending = s.pending := rfl

/-! ## onBeltUnit -/

@[simp] theorem onBeltUnit_time (f : Belt → Belt) (s : State) : (onBeltUnit f s).time = s.time := rfl
@[simp] theorem onBeltUnit_inReset (f : Belt → Belt) (s : State) : (onBeltUnit f s).inReset = s.inReset := rfl
@[simp] theorem onBeltUnit_lines (f : Belt → Belt) (s : State) : (onBeltUnit f s).lines = s.lines := rfl
@[simp] theorem onBeltUnit_loader (f : Belt → Belt) (s : State) : (onBeltUnit f s).loader = s.loader := rfl
@[simp] theorem onBeltUnit_belt (f : Belt → Belt) (s : State) : (onBeltUnit f s).belt = f s.belt := rfl
@[simp] theorem onBeltUnit_drive (f : Belt → Belt) (s : State) : (onBeltUnit f s).drive = s.drive := rfl
@[simp] theorem onBeltUnit_tracker (f : Belt → Belt) (s : State) : (onBeltUnit f s).tracker = s.tracker := rfl
@[simp] theorem onBeltUnit_reader (f : Belt → Belt) (s : State) : (onBeltUnit f s).reader = s.reader := rfl
@[simp] theorem onBeltUnit_cache (f : Belt → Belt) (s : State) : (onBeltUnit f s).cache = s.cache := rfl
@[simp] theorem onBeltUnit_queries (f : Belt → Belt) (s : State) : (onBeltUnit f s).queries = s.queries := rfl
@[simp] theorem onBeltUnit_routes (f : Belt → Belt) (s : State) : (onBeltUnit f s).routes = s.routes := rfl
@[simp] theorem onBeltUnit_divert (f : Belt → Belt) (s : State) : (onBeltUnit f s).divert = s.divert := rfl
@[simp] theorem onBeltUnit_holdOff (f : Belt → Belt) (s : State) : (onBeltUnit f s).holdOff = s.holdOff := rfl
@[simp] theorem onBeltUnit_handoff (f : Belt → Belt) (s : State) : (onBeltUnit f s).handoff = s.handoff := rfl
@[simp] theorem onBeltUnit_flow (f : Belt → Belt) (s : State) : (onBeltUnit f s).flow = s.flow := rfl
@[simp] theorem onBeltUnit_exc (f : Belt → Belt) (s : State) : (onBeltUnit f s).exc = s.exc := rfl
@[simp] theorem onBeltUnit_bus (f : Belt → Belt) (s : State) : (onBeltUnit f s).bus = s.bus := rfl
@[simp] theorem onBeltUnit_owed (f : Belt → Belt) (s : State) : (onBeltUnit f s).owed = s.owed := rfl
@[simp] theorem onBeltUnit_serial (f : Belt → Belt) (s : State) : (onBeltUnit f s).serial = s.serial := rfl
@[simp] theorem onBeltUnit_pins (f : Belt → Belt) (s : State) : (onBeltUnit f s).pins = s.pins := rfl
@[simp] theorem onBeltUnit_pending (f : Belt → Belt) (s : State) : (onBeltUnit f s).pending = s.pending := rfl

/-! ## updateBag -/

@[simp] theorem updateBag_time (slot : Nat) (f : BagRecord → BagRecord) (s : State) : (updateBag slot f s).time = s.time := rfl
@[simp] theorem updateBag_inReset (slot : Nat) (f : BagRecord → BagRecord) (s : State) :
    (updateBag slot f s).inReset =
      s.inReset := rfl
@[simp] theorem updateBag_lines (slot : Nat) (f : BagRecord → BagRecord) (s : State) : (updateBag slot f s).lines = s.lines := rfl
@[simp] theorem updateBag_loader (slot : Nat) (f : BagRecord → BagRecord) (s : State) :
    (updateBag slot f s).loader =
      s.loader := rfl
@[simp] theorem updateBag_belt (slot : Nat) (f : BagRecord → BagRecord) (s : State) : (updateBag slot f s).belt = s.belt := rfl
@[simp] theorem updateBag_drive (slot : Nat) (f : BagRecord → BagRecord) (s : State) : (updateBag slot f s).drive = s.drive := rfl
@[simp] theorem updateBag_tracker (slot : Nat) (f : BagRecord → BagRecord) (s : State) :
    (updateBag slot f s).tracker =
      { s.tracker with segment := s.tracker.segment.map (fun b => if b.slot = slot then f b else b) } := rfl
@[simp] theorem updateBag_reader (slot : Nat) (f : BagRecord → BagRecord) (s : State) :
    (updateBag slot f s).reader =
      s.reader := rfl
@[simp] theorem updateBag_cache (slot : Nat) (f : BagRecord → BagRecord) (s : State) : (updateBag slot f s).cache = s.cache := rfl
@[simp] theorem updateBag_queries (slot : Nat) (f : BagRecord → BagRecord) (s : State) :
    (updateBag slot f s).queries =
      s.queries := rfl
@[simp] theorem updateBag_routes (slot : Nat) (f : BagRecord → BagRecord) (s : State) :
    (updateBag slot f s).routes =
      s.routes := rfl
@[simp] theorem updateBag_divert (slot : Nat) (f : BagRecord → BagRecord) (s : State) :
    (updateBag slot f s).divert =
      s.divert := rfl
@[simp] theorem updateBag_holdOff (slot : Nat) (f : BagRecord → BagRecord) (s : State) :
    (updateBag slot f s).holdOff =
      s.holdOff := rfl
@[simp] theorem updateBag_handoff (slot : Nat) (f : BagRecord → BagRecord) (s : State) :
    (updateBag slot f s).handoff =
      s.handoff := rfl
@[simp] theorem updateBag_flow (slot : Nat) (f : BagRecord → BagRecord) (s : State) : (updateBag slot f s).flow = s.flow := rfl
@[simp] theorem updateBag_exc (slot : Nat) (f : BagRecord → BagRecord) (s : State) : (updateBag slot f s).exc = s.exc := rfl
@[simp] theorem updateBag_bus (slot : Nat) (f : BagRecord → BagRecord) (s : State) : (updateBag slot f s).bus = s.bus := rfl
@[simp] theorem updateBag_owed (slot : Nat) (f : BagRecord → BagRecord) (s : State) : (updateBag slot f s).owed = s.owed := rfl
@[simp] theorem updateBag_serial (slot : Nat) (f : BagRecord → BagRecord) (s : State) :
    (updateBag slot f s).serial =
      s.serial := rfl
@[simp] theorem updateBag_pins (slot : Nat) (f : BagRecord → BagRecord) (s : State) : (updateBag slot f s).pins = s.pins := rfl
@[simp] theorem updateBag_pending (slot : Nat) (f : BagRecord → BagRecord) (s : State) :
    (updateBag slot f s).pending =
      s.pending := rfl

/-! ## updateEntry -/

@[simp] theorem updateEntry_time (source id : Byte) (f : ExpectedEntry → ExpectedEntry) (s : State) :
    (updateEntry source id f s).time =
      s.time := rfl
@[simp] theorem updateEntry_inReset (source id : Byte) (f : ExpectedEntry → ExpectedEntry) (s : State) :
    (updateEntry source id f s).inReset =
      s.inReset := rfl
@[simp] theorem updateEntry_lines (source id : Byte) (f : ExpectedEntry → ExpectedEntry) (s : State) :
    (updateEntry source id f s).lines =
      s.lines := rfl
@[simp] theorem updateEntry_loader (source id : Byte) (f : ExpectedEntry → ExpectedEntry) (s : State) :
    (updateEntry source id f s).loader =
      s.loader := rfl
@[simp] theorem updateEntry_belt (source id : Byte) (f : ExpectedEntry → ExpectedEntry) (s : State) :
    (updateEntry source id f s).belt =
      s.belt := rfl
@[simp] theorem updateEntry_drive (source id : Byte) (f : ExpectedEntry → ExpectedEntry) (s : State) :
    (updateEntry source id f s).drive =
      s.drive := rfl
@[simp] theorem updateEntry_tracker (source id : Byte) (f : ExpectedEntry → ExpectedEntry) (s : State) :
    (updateEntry source id f s).tracker =
      s.tracker := rfl
@[simp] theorem updateEntry_reader (source id : Byte) (f : ExpectedEntry → ExpectedEntry) (s : State) :
    (updateEntry source id f s).reader =
      s.reader := rfl
@[simp] theorem updateEntry_cache (source id : Byte) (f : ExpectedEntry → ExpectedEntry) (s : State) :
    (updateEntry source id f s).cache =
      s.cache := rfl
@[simp] theorem updateEntry_queries (source id : Byte) (f : ExpectedEntry → ExpectedEntry) (s : State) :
    (updateEntry source id f s).queries =
      s.queries := rfl
@[simp] theorem updateEntry_routes (source id : Byte) (f : ExpectedEntry → ExpectedEntry) (s : State) :
    (updateEntry source id f s).routes =
      s.routes := rfl
@[simp] theorem updateEntry_divert (source id : Byte) (f : ExpectedEntry → ExpectedEntry) (s : State) :
    (updateEntry source id f s).divert =
      s.divert := rfl
@[simp] theorem updateEntry_holdOff (source id : Byte) (f : ExpectedEntry → ExpectedEntry) (s : State) :
    (updateEntry source id f s).holdOff =
      s.holdOff := rfl
@[simp] theorem updateEntry_handoff (source id : Byte) (f : ExpectedEntry → ExpectedEntry) (s : State) :
    (updateEntry source id f s).handoff =
      { s.handoff with expected := s.handoff.expected.map (fun e => if e.source = source ∧ e.id = id then f e else e) } := rfl
@[simp] theorem updateEntry_flow (source id : Byte) (f : ExpectedEntry → ExpectedEntry) (s : State) :
    (updateEntry source id f s).flow =
      s.flow := rfl
@[simp] theorem updateEntry_exc (source id : Byte) (f : ExpectedEntry → ExpectedEntry) (s : State) :
    (updateEntry source id f s).exc =
      s.exc := rfl
@[simp] theorem updateEntry_bus (source id : Byte) (f : ExpectedEntry → ExpectedEntry) (s : State) :
    (updateEntry source id f s).bus =
      s.bus := rfl
@[simp] theorem updateEntry_owed (source id : Byte) (f : ExpectedEntry → ExpectedEntry) (s : State) :
    (updateEntry source id f s).owed =
      s.owed := rfl
@[simp] theorem updateEntry_serial (source id : Byte) (f : ExpectedEntry → ExpectedEntry) (s : State) :
    (updateEntry source id f s).serial =
      s.serial := rfl
@[simp] theorem updateEntry_pins (source id : Byte) (f : ExpectedEntry → ExpectedEntry) (s : State) :
    (updateEntry source id f s).pins =
      s.pins := rfl
@[simp] theorem updateEntry_pending (source id : Byte) (f : ExpectedEntry → ExpectedEntry) (s : State) :
    (updateEntry source id f s).pending =
      s.pending := rfl

/-! ## withdraw -/

@[simp] theorem withdraw_time (i : Item) (s : State) : (withdraw i s).time = s.time := rfl
@[simp] theorem withdraw_inReset (i : Item) (s : State) : (withdraw i s).inReset = s.inReset := rfl
@[simp] theorem withdraw_lines (i : Item) (s : State) : (withdraw i s).lines = s.lines := rfl
@[simp] theorem withdraw_loader (i : Item) (s : State) : (withdraw i s).loader = s.loader := rfl
@[simp] theorem withdraw_belt (i : Item) (s : State) :
    (withdraw i s).belt =
      { s.belt with register := s.belt.register.filter (fun r => decide (r.item ≠ i)) } := rfl
@[simp] theorem withdraw_drive (i : Item) (s : State) : (withdraw i s).drive = s.drive := rfl
@[simp] theorem withdraw_tracker (i : Item) (s : State) : (withdraw i s).tracker = s.tracker := rfl
@[simp] theorem withdraw_reader (i : Item) (s : State) : (withdraw i s).reader = s.reader := rfl
@[simp] theorem withdraw_cache (i : Item) (s : State) : (withdraw i s).cache = s.cache := rfl
@[simp] theorem withdraw_queries (i : Item) (s : State) : (withdraw i s).queries = s.queries := rfl
@[simp] theorem withdraw_routes (i : Item) (s : State) : (withdraw i s).routes = s.routes := rfl
@[simp] theorem withdraw_divert (i : Item) (s : State) : (withdraw i s).divert = s.divert := rfl
@[simp] theorem withdraw_holdOff (i : Item) (s : State) : (withdraw i s).holdOff = s.holdOff := rfl
@[simp] theorem withdraw_handoff (i : Item) (s : State) : (withdraw i s).handoff = s.handoff := rfl
@[simp] theorem withdraw_flow (i : Item) (s : State) : (withdraw i s).flow = s.flow := rfl
@[simp] theorem withdraw_exc (i : Item) (s : State) : (withdraw i s).exc = s.exc := rfl
@[simp] theorem withdraw_bus (i : Item) (s : State) : (withdraw i s).bus = s.bus := rfl
@[simp] theorem withdraw_owed (i : Item) (s : State) : (withdraw i s).owed = s.owed := rfl
@[simp] theorem withdraw_serial (i : Item) (s : State) : (withdraw i s).serial = s.serial := rfl
@[simp] theorem withdraw_pins (i : Item) (s : State) : (withdraw i s).pins = s.pins := rfl
@[simp] theorem withdraw_pending (i : Item) (s : State) : (withdraw i s).pending = s.pending := rfl

/-! ## holdPosition -/

@[simp] theorem holdPosition_time (i : Item) (p : Pos) (s : State) : (holdPosition i p s).time = s.time := rfl
@[simp] theorem holdPosition_inReset (i : Item) (p : Pos) (s : State) : (holdPosition i p s).inReset = s.inReset := rfl
@[simp] theorem holdPosition_lines (i : Item) (p : Pos) (s : State) : (holdPosition i p s).lines = s.lines := rfl
@[simp] theorem holdPosition_loader (i : Item) (p : Pos) (s : State) : (holdPosition i p s).loader = s.loader := rfl
@[simp] theorem holdPosition_belt (i : Item) (p : Pos) (s : State) :
    (holdPosition i p s).belt =
      { s.belt with register := s.belt.register ++ [⟨i, p⟩] } := rfl
@[simp] theorem holdPosition_drive (i : Item) (p : Pos) (s : State) : (holdPosition i p s).drive = s.drive := rfl
@[simp] theorem holdPosition_tracker (i : Item) (p : Pos) (s : State) : (holdPosition i p s).tracker = s.tracker := rfl
@[simp] theorem holdPosition_reader (i : Item) (p : Pos) (s : State) : (holdPosition i p s).reader = s.reader := rfl
@[simp] theorem holdPosition_cache (i : Item) (p : Pos) (s : State) : (holdPosition i p s).cache = s.cache := rfl
@[simp] theorem holdPosition_queries (i : Item) (p : Pos) (s : State) : (holdPosition i p s).queries = s.queries := rfl
@[simp] theorem holdPosition_routes (i : Item) (p : Pos) (s : State) : (holdPosition i p s).routes = s.routes := rfl
@[simp] theorem holdPosition_divert (i : Item) (p : Pos) (s : State) : (holdPosition i p s).divert = s.divert := rfl
@[simp] theorem holdPosition_holdOff (i : Item) (p : Pos) (s : State) : (holdPosition i p s).holdOff = s.holdOff := rfl
@[simp] theorem holdPosition_handoff (i : Item) (p : Pos) (s : State) : (holdPosition i p s).handoff = s.handoff := rfl
@[simp] theorem holdPosition_flow (i : Item) (p : Pos) (s : State) : (holdPosition i p s).flow = s.flow := rfl
@[simp] theorem holdPosition_exc (i : Item) (p : Pos) (s : State) : (holdPosition i p s).exc = s.exc := rfl
@[simp] theorem holdPosition_bus (i : Item) (p : Pos) (s : State) : (holdPosition i p s).bus = s.bus := rfl
@[simp] theorem holdPosition_owed (i : Item) (p : Pos) (s : State) : (holdPosition i p s).owed = s.owed := rfl
@[simp] theorem holdPosition_serial (i : Item) (p : Pos) (s : State) : (holdPosition i p s).serial = s.serial := rfl
@[simp] theorem holdPosition_pins (i : Item) (p : Pos) (s : State) : (holdPosition i p s).pins = s.pins := rfl
@[simp] theorem holdPosition_pending (i : Item) (p : Pos) (s : State) : (holdPosition i p s).pending = s.pending := rfl

/-! ## updateRow -/

@[simp] theorem updateRow_time (o : Outlet) (f : RouteRow → RouteRow) (s : State) : (updateRow o f s).time = s.time := rfl
@[simp] theorem updateRow_inReset (o : Outlet) (f : RouteRow → RouteRow) (s : State) :
    (updateRow o f s).inReset =
      s.inReset := rfl
@[simp] theorem updateRow_lines (o : Outlet) (f : RouteRow → RouteRow) (s : State) : (updateRow o f s).lines = s.lines := rfl
@[simp] theorem updateRow_loader (o : Outlet) (f : RouteRow → RouteRow) (s : State) : (updateRow o f s).loader = s.loader := rfl
@[simp] theorem updateRow_belt (o : Outlet) (f : RouteRow → RouteRow) (s : State) : (updateRow o f s).belt = s.belt := rfl
@[simp] theorem updateRow_drive (o : Outlet) (f : RouteRow → RouteRow) (s : State) : (updateRow o f s).drive = s.drive := rfl
@[simp] theorem updateRow_tracker (o : Outlet) (f : RouteRow → RouteRow) (s : State) :
    (updateRow o f s).tracker =
      s.tracker := rfl
@[simp] theorem updateRow_reader (o : Outlet) (f : RouteRow → RouteRow) (s : State) : (updateRow o f s).reader = s.reader := rfl
@[simp] theorem updateRow_cache (o : Outlet) (f : RouteRow → RouteRow) (s : State) : (updateRow o f s).cache = s.cache := rfl
@[simp] theorem updateRow_queries (o : Outlet) (f : RouteRow → RouteRow) (s : State) :
    (updateRow o f s).queries =
      s.queries := rfl
@[simp] theorem updateRow_routes (o : Outlet) (f : RouteRow → RouteRow) (s : State) :
    (updateRow o f s).routes =
      { s.routes with rows := s.routes.rows.set o ((s.routes.rows.get o).map f) } := rfl
@[simp] theorem updateRow_divert (o : Outlet) (f : RouteRow → RouteRow) (s : State) : (updateRow o f s).divert = s.divert := rfl
@[simp] theorem updateRow_holdOff (o : Outlet) (f : RouteRow → RouteRow) (s : State) :
    (updateRow o f s).holdOff =
      s.holdOff := rfl
@[simp] theorem updateRow_handoff (o : Outlet) (f : RouteRow → RouteRow) (s : State) :
    (updateRow o f s).handoff =
      s.handoff := rfl
@[simp] theorem updateRow_flow (o : Outlet) (f : RouteRow → RouteRow) (s : State) : (updateRow o f s).flow = s.flow := rfl
@[simp] theorem updateRow_exc (o : Outlet) (f : RouteRow → RouteRow) (s : State) : (updateRow o f s).exc = s.exc := rfl
@[simp] theorem updateRow_bus (o : Outlet) (f : RouteRow → RouteRow) (s : State) : (updateRow o f s).bus = s.bus := rfl
@[simp] theorem updateRow_owed (o : Outlet) (f : RouteRow → RouteRow) (s : State) : (updateRow o f s).owed = s.owed := rfl
@[simp] theorem updateRow_serial (o : Outlet) (f : RouteRow → RouteRow) (s : State) : (updateRow o f s).serial = s.serial := rfl
@[simp] theorem updateRow_pins (o : Outlet) (f : RouteRow → RouteRow) (s : State) : (updateRow o f s).pins = s.pins := rfl
@[simp] theorem updateRow_pending (o : Outlet) (f : RouteRow → RouteRow) (s : State) :
    (updateRow o f s).pending =
      s.pending := rfl

/-! ## putGate -/

@[simp] theorem putGate_time (o : Outlet) (g : Option Gate) (s : State) : (putGate o g s).time = s.time := rfl
@[simp] theorem putGate_inReset (o : Outlet) (g : Option Gate) (s : State) : (putGate o g s).inReset = s.inReset := rfl
@[simp] theorem putGate_lines (o : Outlet) (g : Option Gate) (s : State) : (putGate o g s).lines = s.lines := rfl
@[simp] theorem putGate_loader (o : Outlet) (g : Option Gate) (s : State) : (putGate o g s).loader = s.loader := rfl
@[simp] theorem putGate_belt (o : Outlet) (g : Option Gate) (s : State) : (putGate o g s).belt = s.belt := rfl
@[simp] theorem putGate_drive (o : Outlet) (g : Option Gate) (s : State) : (putGate o g s).drive = s.drive := rfl
@[simp] theorem putGate_tracker (o : Outlet) (g : Option Gate) (s : State) : (putGate o g s).tracker = s.tracker := rfl
@[simp] theorem putGate_reader (o : Outlet) (g : Option Gate) (s : State) : (putGate o g s).reader = s.reader := rfl
@[simp] theorem putGate_cache (o : Outlet) (g : Option Gate) (s : State) : (putGate o g s).cache = s.cache := rfl
@[simp] theorem putGate_queries (o : Outlet) (g : Option Gate) (s : State) : (putGate o g s).queries = s.queries := rfl
@[simp] theorem putGate_routes (o : Outlet) (g : Option Gate) (s : State) : (putGate o g s).routes = s.routes := rfl
@[simp] theorem putGate_divert (o : Outlet) (g : Option Gate) (s : State) : (putGate o g s).divert = s.divert := rfl
@[simp] theorem putGate_holdOff (o : Outlet) (g : Option Gate) (s : State) : (putGate o g s).holdOff = s.holdOff := rfl
@[simp] theorem putGate_handoff (o : Outlet) (g : Option Gate) (s : State) : (putGate o g s).handoff = s.handoff := rfl
@[simp] theorem putGate_flow (o : Outlet) (g : Option Gate) (s : State) :
    (putGate o g s).flow =
      { s.flow with gates := s.flow.gates.set o g } := rfl
@[simp] theorem putGate_exc (o : Outlet) (g : Option Gate) (s : State) : (putGate o g s).exc = s.exc := rfl
@[simp] theorem putGate_bus (o : Outlet) (g : Option Gate) (s : State) : (putGate o g s).bus = s.bus := rfl
@[simp] theorem putGate_owed (o : Outlet) (g : Option Gate) (s : State) : (putGate o g s).owed = s.owed := rfl
@[simp] theorem putGate_serial (o : Outlet) (g : Option Gate) (s : State) : (putGate o g s).serial = s.serial := rfl
@[simp] theorem putGate_pins (o : Outlet) (g : Option Gate) (s : State) : (putGate o g s).pins = s.pins := rfl
@[simp] theorem putGate_pending (o : Outlet) (g : Option Gate) (s : State) : (putGate o g s).pending = s.pending := rfl

/-! ## putWindows -/

@[simp] theorem putWindows_time (k : Diverter) (w : DiverterWindows) (s : State) : (putWindows k w s).time = s.time := rfl
@[simp] theorem putWindows_inReset (k : Diverter) (w : DiverterWindows) (s : State) :
    (putWindows k w s).inReset =
      s.inReset := rfl
@[simp] theorem putWindows_lines (k : Diverter) (w : DiverterWindows) (s : State) : (putWindows k w s).lines = s.lines := rfl
@[simp] theorem putWindows_loader (k : Diverter) (w : DiverterWindows) (s : State) : (putWindows k w s).loader = s.loader := rfl
@[simp] theorem putWindows_belt (k : Diverter) (w : DiverterWindows) (s : State) : (putWindows k w s).belt = s.belt := rfl
@[simp] theorem putWindows_drive (k : Diverter) (w : DiverterWindows) (s : State) : (putWindows k w s).drive = s.drive := rfl
@[simp] theorem putWindows_tracker (k : Diverter) (w : DiverterWindows) (s : State) :
    (putWindows k w s).tracker =
      s.tracker := rfl
@[simp] theorem putWindows_reader (k : Diverter) (w : DiverterWindows) (s : State) : (putWindows k w s).reader = s.reader := rfl
@[simp] theorem putWindows_cache (k : Diverter) (w : DiverterWindows) (s : State) : (putWindows k w s).cache = s.cache := rfl
@[simp] theorem putWindows_queries (k : Diverter) (w : DiverterWindows) (s : State) :
    (putWindows k w s).queries =
      s.queries := rfl
@[simp] theorem putWindows_routes (k : Diverter) (w : DiverterWindows) (s : State) : (putWindows k w s).routes = s.routes := rfl
@[simp] theorem putWindows_divert (k : Diverter) (w : DiverterWindows) (s : State) :
    (putWindows k w s).divert =
      { s.divert with windows := s.divert.windows.set k w } := rfl
@[simp] theorem putWindows_holdOff (k : Diverter) (w : DiverterWindows) (s : State) :
    (putWindows k w s).holdOff =
      s.holdOff := rfl
@[simp] theorem putWindows_handoff (k : Diverter) (w : DiverterWindows) (s : State) :
    (putWindows k w s).handoff =
      s.handoff := rfl
@[simp] theorem putWindows_flow (k : Diverter) (w : DiverterWindows) (s : State) : (putWindows k w s).flow = s.flow := rfl
@[simp] theorem putWindows_exc (k : Diverter) (w : DiverterWindows) (s : State) : (putWindows k w s).exc = s.exc := rfl
@[simp] theorem putWindows_bus (k : Diverter) (w : DiverterWindows) (s : State) : (putWindows k w s).bus = s.bus := rfl
@[simp] theorem putWindows_owed (k : Diverter) (w : DiverterWindows) (s : State) : (putWindows k w s).owed = s.owed := rfl
@[simp] theorem putWindows_serial (k : Diverter) (w : DiverterWindows) (s : State) : (putWindows k w s).serial = s.serial := rfl
@[simp] theorem putWindows_pins (k : Diverter) (w : DiverterWindows) (s : State) : (putWindows k w s).pins = s.pins := rfl
@[simp] theorem putWindows_pending (k : Diverter) (w : DiverterWindows) (s : State) :
    (putWindows k w s).pending =
      s.pending := rfl

/-! ## putSet -/

@[simp] theorem putSet_time (i : Nat) (w : List Way) (s : State) : (putSet i w s).time = s.time := rfl
@[simp] theorem putSet_inReset (i : Nat) (w : List Way) (s : State) : (putSet i w s).inReset = s.inReset := rfl
@[simp] theorem putSet_lines (i : Nat) (w : List Way) (s : State) : (putSet i w s).lines = s.lines := rfl
@[simp] theorem putSet_loader (i : Nat) (w : List Way) (s : State) : (putSet i w s).loader = s.loader := rfl
@[simp] theorem putSet_belt (i : Nat) (w : List Way) (s : State) : (putSet i w s).belt = s.belt := rfl
@[simp] theorem putSet_drive (i : Nat) (w : List Way) (s : State) : (putSet i w s).drive = s.drive := rfl
@[simp] theorem putSet_tracker (i : Nat) (w : List Way) (s : State) : (putSet i w s).tracker = s.tracker := rfl
@[simp] theorem putSet_reader (i : Nat) (w : List Way) (s : State) : (putSet i w s).reader = s.reader := rfl
@[simp] theorem putSet_cache (i : Nat) (w : List Way) (s : State) :
    (putSet i w s).cache =
      { s.cache with sets := s.cache.sets.set i w } := rfl
@[simp] theorem putSet_queries (i : Nat) (w : List Way) (s : State) : (putSet i w s).queries = s.queries := rfl
@[simp] theorem putSet_routes (i : Nat) (w : List Way) (s : State) : (putSet i w s).routes = s.routes := rfl
@[simp] theorem putSet_divert (i : Nat) (w : List Way) (s : State) : (putSet i w s).divert = s.divert := rfl
@[simp] theorem putSet_holdOff (i : Nat) (w : List Way) (s : State) : (putSet i w s).holdOff = s.holdOff := rfl
@[simp] theorem putSet_handoff (i : Nat) (w : List Way) (s : State) : (putSet i w s).handoff = s.handoff := rfl
@[simp] theorem putSet_flow (i : Nat) (w : List Way) (s : State) : (putSet i w s).flow = s.flow := rfl
@[simp] theorem putSet_exc (i : Nat) (w : List Way) (s : State) : (putSet i w s).exc = s.exc := rfl
@[simp] theorem putSet_bus (i : Nat) (w : List Way) (s : State) : (putSet i w s).bus = s.bus := rfl
@[simp] theorem putSet_owed (i : Nat) (w : List Way) (s : State) : (putSet i w s).owed = s.owed := rfl
@[simp] theorem putSet_serial (i : Nat) (w : List Way) (s : State) : (putSet i w s).serial = s.serial := rfl
@[simp] theorem putSet_pins (i : Nat) (w : List Way) (s : State) : (putSet i w s).pins = s.pins := rfl
@[simp] theorem putSet_pending (i : Nat) (w : List Way) (s : State) : (putSet i w s).pending = s.pending := rfl

/-! ## updateQuery -/

@[simp] theorem updateQuery_time (plate : Nat) (f : QueryEntry → QueryEntry) (s : State) :
    (updateQuery plate f s).time =
      s.time := rfl
@[simp] theorem updateQuery_inReset (plate : Nat) (f : QueryEntry → QueryEntry) (s : State) :
    (updateQuery plate f s).inReset =
      s.inReset := rfl
@[simp] theorem updateQuery_lines (plate : Nat) (f : QueryEntry → QueryEntry) (s : State) :
    (updateQuery plate f s).lines =
      s.lines := rfl
@[simp] theorem updateQuery_loader (plate : Nat) (f : QueryEntry → QueryEntry) (s : State) :
    (updateQuery plate f s).loader =
      s.loader := rfl
@[simp] theorem updateQuery_belt (plate : Nat) (f : QueryEntry → QueryEntry) (s : State) :
    (updateQuery plate f s).belt =
      s.belt := rfl
@[simp] theorem updateQuery_drive (plate : Nat) (f : QueryEntry → QueryEntry) (s : State) :
    (updateQuery plate f s).drive =
      s.drive := rfl
@[simp] theorem updateQuery_tracker (plate : Nat) (f : QueryEntry → QueryEntry) (s : State) :
    (updateQuery plate f s).tracker =
      s.tracker := rfl
@[simp] theorem updateQuery_reader (plate : Nat) (f : QueryEntry → QueryEntry) (s : State) :
    (updateQuery plate f s).reader =
      s.reader := rfl
@[simp] theorem updateQuery_cache (plate : Nat) (f : QueryEntry → QueryEntry) (s : State) :
    (updateQuery plate f s).cache =
      s.cache := rfl
@[simp] theorem updateQuery_queries (plate : Nat) (f : QueryEntry → QueryEntry) (s : State) :
    (updateQuery plate f s).queries =
      s.queries.map (fun q => if q.plate = plate then f q else q) := rfl
@[simp] theorem updateQuery_routes (plate : Nat) (f : QueryEntry → QueryEntry) (s : State) :
    (updateQuery plate f s).routes =
      s.routes := rfl
@[simp] theorem updateQuery_divert (plate : Nat) (f : QueryEntry → QueryEntry) (s : State) :
    (updateQuery plate f s).divert =
      s.divert := rfl
@[simp] theorem updateQuery_holdOff (plate : Nat) (f : QueryEntry → QueryEntry) (s : State) :
    (updateQuery plate f s).holdOff =
      s.holdOff := rfl
@[simp] theorem updateQuery_handoff (plate : Nat) (f : QueryEntry → QueryEntry) (s : State) :
    (updateQuery plate f s).handoff =
      s.handoff := rfl
@[simp] theorem updateQuery_flow (plate : Nat) (f : QueryEntry → QueryEntry) (s : State) :
    (updateQuery plate f s).flow =
      s.flow := rfl
@[simp] theorem updateQuery_exc (plate : Nat) (f : QueryEntry → QueryEntry) (s : State) :
    (updateQuery plate f s).exc =
      s.exc := rfl
@[simp] theorem updateQuery_bus (plate : Nat) (f : QueryEntry → QueryEntry) (s : State) :
    (updateQuery plate f s).bus =
      s.bus := rfl
@[simp] theorem updateQuery_owed (plate : Nat) (f : QueryEntry → QueryEntry) (s : State) :
    (updateQuery plate f s).owed =
      s.owed := rfl
@[simp] theorem updateQuery_serial (plate : Nat) (f : QueryEntry → QueryEntry) (s : State) :
    (updateQuery plate f s).serial =
      s.serial := rfl
@[simp] theorem updateQuery_pins (plate : Nat) (f : QueryEntry → QueryEntry) (s : State) :
    (updateQuery plate f s).pins =
      s.pins := rfl
@[simp] theorem updateQuery_pending (plate : Nat) (f : QueryEntry → QueryEntry) (s : State) :
    (updateQuery plate f s).pending =
      s.pending := rfl

/-! ## retireQuery -/

@[simp] theorem retireQuery_time (plate : Nat) (s : State) : (retireQuery plate s).time = s.time := rfl
@[simp] theorem retireQuery_inReset (plate : Nat) (s : State) : (retireQuery plate s).inReset = s.inReset := rfl
@[simp] theorem retireQuery_lines (plate : Nat) (s : State) : (retireQuery plate s).lines = s.lines := rfl
@[simp] theorem retireQuery_loader (plate : Nat) (s : State) : (retireQuery plate s).loader = s.loader := rfl
@[simp] theorem retireQuery_belt (plate : Nat) (s : State) : (retireQuery plate s).belt = s.belt := rfl
@[simp] theorem retireQuery_drive (plate : Nat) (s : State) : (retireQuery plate s).drive = s.drive := rfl
@[simp] theorem retireQuery_tracker (plate : Nat) (s : State) : (retireQuery plate s).tracker = s.tracker := rfl
@[simp] theorem retireQuery_reader (plate : Nat) (s : State) : (retireQuery plate s).reader = s.reader := rfl
@[simp] theorem retireQuery_cache (plate : Nat) (s : State) : (retireQuery plate s).cache = s.cache := rfl
@[simp] theorem retireQuery_queries (plate : Nat) (s : State) :
    (retireQuery plate s).queries =
      s.queries.filter (fun q => decide (q.plate ≠ plate)) := rfl
@[simp] theorem retireQuery_routes (plate : Nat) (s : State) : (retireQuery plate s).routes = s.routes := rfl
@[simp] theorem retireQuery_divert (plate : Nat) (s : State) : (retireQuery plate s).divert = s.divert := rfl
@[simp] theorem retireQuery_holdOff (plate : Nat) (s : State) : (retireQuery plate s).holdOff = s.holdOff := rfl
@[simp] theorem retireQuery_handoff (plate : Nat) (s : State) : (retireQuery plate s).handoff = s.handoff := rfl
@[simp] theorem retireQuery_flow (plate : Nat) (s : State) : (retireQuery plate s).flow = s.flow := rfl
@[simp] theorem retireQuery_exc (plate : Nat) (s : State) : (retireQuery plate s).exc = s.exc := rfl
@[simp] theorem retireQuery_bus (plate : Nat) (s : State) : (retireQuery plate s).bus = s.bus := rfl
@[simp] theorem retireQuery_owed (plate : Nat) (s : State) : (retireQuery plate s).owed = s.owed := rfl
@[simp] theorem retireQuery_serial (plate : Nat) (s : State) : (retireQuery plate s).serial = s.serial := rfl
@[simp] theorem retireQuery_pins (plate : Nat) (s : State) : (retireQuery plate s).pins = s.pins := rfl
@[simp] theorem retireQuery_pending (plate : Nat) (s : State) : (retireQuery plate s).pending = s.pending := rfl

/-! ## leaveWaiters -/

@[simp] theorem leaveWaiters_time (l : Live) (s : State) : (leaveWaiters l s).time = s.time := rfl
@[simp] theorem leaveWaiters_inReset (l : Live) (s : State) : (leaveWaiters l s).inReset = s.inReset := rfl
@[simp] theorem leaveWaiters_lines (l : Live) (s : State) : (leaveWaiters l s).lines = s.lines := rfl
@[simp] theorem leaveWaiters_loader (l : Live) (s : State) : (leaveWaiters l s).loader = s.loader := rfl
@[simp] theorem leaveWaiters_belt (l : Live) (s : State) : (leaveWaiters l s).belt = s.belt := rfl
@[simp] theorem leaveWaiters_drive (l : Live) (s : State) : (leaveWaiters l s).drive = s.drive := rfl
@[simp] theorem leaveWaiters_tracker (l : Live) (s : State) : (leaveWaiters l s).tracker = s.tracker := rfl
@[simp] theorem leaveWaiters_reader (l : Live) (s : State) : (leaveWaiters l s).reader = s.reader := rfl
@[simp] theorem leaveWaiters_cache (l : Live) (s : State) : (leaveWaiters l s).cache = s.cache := rfl
@[simp] theorem leaveWaiters_queries (l : Live) (s : State) :
    (leaveWaiters l s).queries =
      (s.queries.map (fun q => { q with waiters := q.waiters.filter (fun w => decide (w ≠ l)) })).filter (fun q => !q.waiters.isEmpty) := rfl
@[simp] theorem leaveWaiters_routes (l : Live) (s : State) : (leaveWaiters l s).routes = s.routes := rfl
@[simp] theorem leaveWaiters_divert (l : Live) (s : State) : (leaveWaiters l s).divert = s.divert := rfl
@[simp] theorem leaveWaiters_holdOff (l : Live) (s : State) : (leaveWaiters l s).holdOff = s.holdOff := rfl
@[simp] theorem leaveWaiters_handoff (l : Live) (s : State) : (leaveWaiters l s).handoff = s.handoff := rfl
@[simp] theorem leaveWaiters_flow (l : Live) (s : State) : (leaveWaiters l s).flow = s.flow := rfl
@[simp] theorem leaveWaiters_exc (l : Live) (s : State) : (leaveWaiters l s).exc = s.exc := rfl
@[simp] theorem leaveWaiters_bus (l : Live) (s : State) : (leaveWaiters l s).bus = s.bus := rfl
@[simp] theorem leaveWaiters_owed (l : Live) (s : State) : (leaveWaiters l s).owed = s.owed := rfl
@[simp] theorem leaveWaiters_serial (l : Live) (s : State) : (leaveWaiters l s).serial = s.serial := rfl
@[simp] theorem leaveWaiters_pins (l : Live) (s : State) : (leaveWaiters l s).pins = s.pins := rfl
@[simp] theorem leaveWaiters_pending (l : Live) (s : State) : (leaveWaiters l s).pending = s.pending := rfl

/-! ## updateDeparture -/

@[simp] theorem updateDeparture_time (peer id : Byte) (f : Departure → Departure) (s : State) :
    (updateDeparture peer id f s).time =
      s.time := rfl
@[simp] theorem updateDeparture_inReset (peer id : Byte) (f : Departure → Departure) (s : State) :
    (updateDeparture peer id f s).inReset =
      s.inReset := rfl
@[simp] theorem updateDeparture_lines (peer id : Byte) (f : Departure → Departure) (s : State) :
    (updateDeparture peer id f s).lines =
      s.lines := rfl
@[simp] theorem updateDeparture_loader (peer id : Byte) (f : Departure → Departure) (s : State) :
    (updateDeparture peer id f s).loader =
      s.loader := rfl
@[simp] theorem updateDeparture_belt (peer id : Byte) (f : Departure → Departure) (s : State) :
    (updateDeparture peer id f s).belt =
      s.belt := rfl
@[simp] theorem updateDeparture_drive (peer id : Byte) (f : Departure → Departure) (s : State) :
    (updateDeparture peer id f s).drive =
      s.drive := rfl
@[simp] theorem updateDeparture_tracker (peer id : Byte) (f : Departure → Departure) (s : State) :
    (updateDeparture peer id f s).tracker =
      { s.tracker with history := s.tracker.history.map (fun d => if awaits peer id d then f d else d) } := rfl
@[simp] theorem updateDeparture_reader (peer id : Byte) (f : Departure → Departure) (s : State) :
    (updateDeparture peer id f s).reader =
      s.reader := rfl
@[simp] theorem updateDeparture_cache (peer id : Byte) (f : Departure → Departure) (s : State) :
    (updateDeparture peer id f s).cache =
      s.cache := rfl
@[simp] theorem updateDeparture_queries (peer id : Byte) (f : Departure → Departure) (s : State) :
    (updateDeparture peer id f s).queries =
      s.queries := rfl
@[simp] theorem updateDeparture_routes (peer id : Byte) (f : Departure → Departure) (s : State) :
    (updateDeparture peer id f s).routes =
      s.routes := rfl
@[simp] theorem updateDeparture_divert (peer id : Byte) (f : Departure → Departure) (s : State) :
    (updateDeparture peer id f s).divert =
      s.divert := rfl
@[simp] theorem updateDeparture_holdOff (peer id : Byte) (f : Departure → Departure) (s : State) :
    (updateDeparture peer id f s).holdOff =
      s.holdOff := rfl
@[simp] theorem updateDeparture_handoff (peer id : Byte) (f : Departure → Departure) (s : State) :
    (updateDeparture peer id f s).handoff =
      s.handoff := rfl
@[simp] theorem updateDeparture_flow (peer id : Byte) (f : Departure → Departure) (s : State) :
    (updateDeparture peer id f s).flow =
      s.flow := rfl
@[simp] theorem updateDeparture_exc (peer id : Byte) (f : Departure → Departure) (s : State) :
    (updateDeparture peer id f s).exc =
      s.exc := rfl
@[simp] theorem updateDeparture_bus (peer id : Byte) (f : Departure → Departure) (s : State) :
    (updateDeparture peer id f s).bus =
      s.bus := rfl
@[simp] theorem updateDeparture_owed (peer id : Byte) (f : Departure → Departure) (s : State) :
    (updateDeparture peer id f s).owed =
      s.owed := rfl
@[simp] theorem updateDeparture_serial (peer id : Byte) (f : Departure → Departure) (s : State) :
    (updateDeparture peer id f s).serial =
      s.serial := rfl
@[simp] theorem updateDeparture_pins (peer id : Byte) (f : Departure → Departure) (s : State) :
    (updateDeparture peer id f s).pins =
      s.pins := rfl
@[simp] theorem updateDeparture_pending (peer id : Byte) (f : Departure → Departure) (s : State) :
    (updateDeparture peer id f s).pending =
      s.pending := rfl

/-! ## updatePeer -/

@[simp] theorem updatePeer_time (station : Byte) (f : PeerState → PeerState) (s : State) :
    (updatePeer station f s).time =
      s.time := rfl
@[simp] theorem updatePeer_inReset (station : Byte) (f : PeerState → PeerState) (s : State) :
    (updatePeer station f s).inReset =
      s.inReset := rfl
@[simp] theorem updatePeer_lines (station : Byte) (f : PeerState → PeerState) (s : State) :
    (updatePeer station f s).lines =
      s.lines := rfl
@[simp] theorem updatePeer_loader (station : Byte) (f : PeerState → PeerState) (s : State) :
    (updatePeer station f s).loader =
      s.loader := rfl
@[simp] theorem updatePeer_belt (station : Byte) (f : PeerState → PeerState) (s : State) :
    (updatePeer station f s).belt =
      s.belt := rfl
@[simp] theorem updatePeer_drive (station : Byte) (f : PeerState → PeerState) (s : State) :
    (updatePeer station f s).drive =
      s.drive := rfl
@[simp] theorem updatePeer_tracker (station : Byte) (f : PeerState → PeerState) (s : State) :
    (updatePeer station f s).tracker =
      s.tracker := rfl
@[simp] theorem updatePeer_reader (station : Byte) (f : PeerState → PeerState) (s : State) :
    (updatePeer station f s).reader =
      s.reader := rfl
@[simp] theorem updatePeer_cache (station : Byte) (f : PeerState → PeerState) (s : State) :
    (updatePeer station f s).cache =
      s.cache := rfl
@[simp] theorem updatePeer_queries (station : Byte) (f : PeerState → PeerState) (s : State) :
    (updatePeer station f s).queries =
      s.queries := rfl
@[simp] theorem updatePeer_routes (station : Byte) (f : PeerState → PeerState) (s : State) :
    (updatePeer station f s).routes =
      s.routes := rfl
@[simp] theorem updatePeer_divert (station : Byte) (f : PeerState → PeerState) (s : State) :
    (updatePeer station f s).divert =
      s.divert := rfl
@[simp] theorem updatePeer_holdOff (station : Byte) (f : PeerState → PeerState) (s : State) :
    (updatePeer station f s).holdOff =
      s.holdOff := rfl
@[simp] theorem updatePeer_handoff (station : Byte) (f : PeerState → PeerState) (s : State) :
    (updatePeer station f s).handoff =
      { s.handoff with peers := s.handoff.peers.map (fun p => if p.station = station then f p else p) } := rfl
@[simp] theorem updatePeer_flow (station : Byte) (f : PeerState → PeerState) (s : State) :
    (updatePeer station f s).flow =
      s.flow := rfl
@[simp] theorem updatePeer_exc (station : Byte) (f : PeerState → PeerState) (s : State) :
    (updatePeer station f s).exc =
      s.exc := rfl
@[simp] theorem updatePeer_bus (station : Byte) (f : PeerState → PeerState) (s : State) :
    (updatePeer station f s).bus =
      s.bus := rfl
@[simp] theorem updatePeer_owed (station : Byte) (f : PeerState → PeerState) (s : State) :
    (updatePeer station f s).owed =
      s.owed := rfl
@[simp] theorem updatePeer_serial (station : Byte) (f : PeerState → PeerState) (s : State) :
    (updatePeer station f s).serial =
      s.serial := rfl
@[simp] theorem updatePeer_pins (station : Byte) (f : PeerState → PeerState) (s : State) :
    (updatePeer station f s).pins =
      s.pins := rfl
@[simp] theorem updatePeer_pending (station : Byte) (f : PeerState → PeerState) (s : State) :
    (updatePeer station f s).pending =
      s.pending := rfl

/-! ## updateEye -/

@[simp] theorem updateEye_time (e : Eye) (f : EyeState → EyeState) (s : State) : (updateEye e f s).time = s.time := rfl
@[simp] theorem updateEye_inReset (e : Eye) (f : EyeState → EyeState) (s : State) : (updateEye e f s).inReset = s.inReset := rfl
@[simp] theorem updateEye_lines (e : Eye) (f : EyeState → EyeState) (s : State) : (updateEye e f s).lines = s.lines := rfl
@[simp] theorem updateEye_loader (e : Eye) (f : EyeState → EyeState) (s : State) : (updateEye e f s).loader = s.loader := rfl
@[simp] theorem updateEye_belt (e : Eye) (f : EyeState → EyeState) (s : State) :
    (updateEye e f s).belt =
      { s.belt with eyes := s.belt.eyes.update e f } := rfl
@[simp] theorem updateEye_drive (e : Eye) (f : EyeState → EyeState) (s : State) : (updateEye e f s).drive = s.drive := rfl
@[simp] theorem updateEye_tracker (e : Eye) (f : EyeState → EyeState) (s : State) : (updateEye e f s).tracker = s.tracker := rfl
@[simp] theorem updateEye_reader (e : Eye) (f : EyeState → EyeState) (s : State) : (updateEye e f s).reader = s.reader := rfl
@[simp] theorem updateEye_cache (e : Eye) (f : EyeState → EyeState) (s : State) : (updateEye e f s).cache = s.cache := rfl
@[simp] theorem updateEye_queries (e : Eye) (f : EyeState → EyeState) (s : State) : (updateEye e f s).queries = s.queries := rfl
@[simp] theorem updateEye_routes (e : Eye) (f : EyeState → EyeState) (s : State) : (updateEye e f s).routes = s.routes := rfl
@[simp] theorem updateEye_divert (e : Eye) (f : EyeState → EyeState) (s : State) : (updateEye e f s).divert = s.divert := rfl
@[simp] theorem updateEye_holdOff (e : Eye) (f : EyeState → EyeState) (s : State) : (updateEye e f s).holdOff = s.holdOff := rfl
@[simp] theorem updateEye_handoff (e : Eye) (f : EyeState → EyeState) (s : State) : (updateEye e f s).handoff = s.handoff := rfl
@[simp] theorem updateEye_flow (e : Eye) (f : EyeState → EyeState) (s : State) : (updateEye e f s).flow = s.flow := rfl
@[simp] theorem updateEye_exc (e : Eye) (f : EyeState → EyeState) (s : State) : (updateEye e f s).exc = s.exc := rfl
@[simp] theorem updateEye_bus (e : Eye) (f : EyeState → EyeState) (s : State) : (updateEye e f s).bus = s.bus := rfl
@[simp] theorem updateEye_owed (e : Eye) (f : EyeState → EyeState) (s : State) : (updateEye e f s).owed = s.owed := rfl
@[simp] theorem updateEye_serial (e : Eye) (f : EyeState → EyeState) (s : State) : (updateEye e f s).serial = s.serial := rfl
@[simp] theorem updateEye_pins (e : Eye) (f : EyeState → EyeState) (s : State) : (updateEye e f s).pins = s.pins := rfl
@[simp] theorem updateEye_pending (e : Eye) (f : EyeState → EyeState) (s : State) : (updateEye e f s).pending = s.pending := rfl

/-! ## drivePins -/

@[simp] theorem drivePins_time (s : State) : (drivePins s).time = s.time := rfl
@[simp] theorem drivePins_inReset (s : State) : (drivePins s).inReset = s.inReset := rfl
@[simp] theorem drivePins_lines (s : State) : (drivePins s).lines = s.lines := rfl
@[simp] theorem drivePins_loader (s : State) : (drivePins s).loader = s.loader := rfl
@[simp] theorem drivePins_belt (s : State) : (drivePins s).belt = s.belt := rfl
@[simp] theorem drivePins_drive (s : State) : (drivePins s).drive = s.drive := rfl
@[simp] theorem drivePins_tracker (s : State) : (drivePins s).tracker = s.tracker := rfl
@[simp] theorem drivePins_reader (s : State) : (drivePins s).reader = s.reader := rfl
@[simp] theorem drivePins_cache (s : State) : (drivePins s).cache = s.cache := rfl
@[simp] theorem drivePins_queries (s : State) : (drivePins s).queries = s.queries := rfl
@[simp] theorem drivePins_routes (s : State) : (drivePins s).routes = s.routes := rfl
@[simp] theorem drivePins_divert (s : State) : (drivePins s).divert = s.divert := rfl
@[simp] theorem drivePins_holdOff (s : State) : (drivePins s).holdOff = s.holdOff := rfl
@[simp] theorem drivePins_handoff (s : State) : (drivePins s).handoff = s.handoff := rfl
@[simp] theorem drivePins_flow (s : State) : (drivePins s).flow = s.flow := rfl
@[simp] theorem drivePins_exc (s : State) : (drivePins s).exc = s.exc := rfl
@[simp] theorem drivePins_bus (s : State) : (drivePins s).bus = s.bus := rfl
@[simp] theorem drivePins_owed (s : State) : (drivePins s).owed = s.owed := rfl
@[simp] theorem drivePins_serial (s : State) : (drivePins s).serial = s.serial := rfl
@[simp] theorem drivePins_pins (s : State) : (drivePins s).pins = pinsOf s := rfl
@[simp] theorem drivePins_pending (s : State) : (drivePins s).pending = s.pending := rfl

end Sys2Proof.Machine
end

