-- ==== Sys2Proof/Laws/Calm.lean ====
section
/-! SUPPORT. What the shared operations of the Hall Bus Interface, the Exception Unit, the Flow Controller, the Divert
Scheduler and the Route Selector can do, and the reports of unsent frames: one relation, `Calm`, one lemma per operation. -/

namespace Sys2Proof.Machine

/-! ## The relation -/

/-- The registrations that D has reached and that are still to be reported (R4), in the order they were registered. -/
def dueRegister (s : State) : List Registration := s.belt.register.filter (fun r => reached s.belt.d r.position)

/-- A calm operation leaves the steady part and the occupancy as they were, does not raise the reference, leaves a halted
drive coasting, adds no registration that D has reached, and keeps the laws of the drive, the transmit queue, the exception lists, the
query table, the windows and the hold value. -/
structure Calm (s t : State) : Prop where
  steady : steady t = steady s
  reference : t.drive.r ≤ s.drive.r
  coasts : s.drive.state = .halted → t.drive = { s.drive with reasons := t.drive.reasons }
  drive : DriveLaw s.drive → DriveLaw t.drive
  queue : QueueLaw s.bus → QueueLaw t.bus
  lists : ListLaw s.exc → ListLaw t.exc
  queries : QueryLaw s.queries → QueryLaw t.queries
  windows : WindowLaw s → WindowLaw t
  occupancy : t.flow.occupancy = s.flow.occupancy
  demand : t.flow.demand = s.flow.demand
  hold : HoldLaw s → HoldLaw t
  due : (dueRegister t).Sublist (dueRegister s)

theorem Calm.refl (s : State) : Calm s s := ⟨rfl, le_rfl, fun _ => rfl, id, id, id, id, id, rfl, rfl, id, .refl _⟩

theorem Calm.trans {s t u : State} (h : Calm s t) (k : Calm t u) : Calm s u :=
  ⟨k.steady.trans h.steady, k.reference.trans h.reference,
   fun hs => by
    have h1 := h.coasts hs
    have h2 := k.coasts (by rw [h1]; exact hs)
    rw [h2, h1], k.drive ∘ h.drive, k.queue ∘ h.queue, k.lists ∘ h.lists, k.queries ∘ h.queries, k.windows ∘ h.windows,
   k.occupancy.trans h.occupancy, k.demand.trans h.demand, k.hold ∘ h.hold, k.due.trans h.due⟩

/-- The hold law reads the Loader, JAM and STALL, the demand and the hold value. -/
theorem HoldLaw.congr {s t : State} (hl : t.loader = s.loader) (hj : t.drive.reasons.jam = s.drive.reasons.jam)
    (hs : t.drive.reasons.stall = s.drive.reasons.stall) (hd : t.flow.demand = s.flow.demand)
    (hv : t.flow.holdValue = s.flow.holdValue) (h : HoldLaw s) : HoldLaw t := by
  simp only [HoldLaw, wantedHold, jammed, cfg, hl, hj, hs, hd, hv] at *
  exact h

theorem WindowLaw.congr {s t : State} (hw : t.divert.windows = s.divert.windows) (hn : t.serial.window = s.serial.window)
    (h : WindowLaw s) : WindowLaw t := by
  intro k
  have := h k
  simp only [windowsOf, hw, hn] at *
  exact this

/-- A change of the steady part's complement that touches neither the drive nor the bus nor the exception lists, nor the
query table, the windows and the holds. -/
theorem Calm.plain {s t : State} (h : Machine.steady t = Machine.steady s) (hd : t.drive = s.drive) (hb : t.bus = s.bus)
    (he : t.exc = s.exc) (hq : t.queries = s.queries := by rfl) (hw : t.divert.windows = s.divert.windows := by rfl)
    (hn : t.serial.window = s.serial.window := by rfl) (ho : t.flow.occupancy = s.flow.occupancy := by rfl)
    (hm : t.flow.demand = s.flow.demand := by rfl) (hv : t.flow.holdValue = s.flow.holdValue := by rfl)
    (hr : (dueRegister t).Sublist (dueRegister s) := by exact .refl _) : Calm s t :=
  ⟨h, by rw [hd], fun _ => by rw [hd], by rw [hd]; exact id, by rw [hb]; exact id, by rw [he]; exact id,
   by rw [hq]; exact id, .congr hw hn, ho, hm,
   .congr (by have := congrArg State.loader h; exact this) (by rw [hd]) (by rw [hd]) hm hv, hr⟩

/-- A calm operation after a change of the steady part's complement alone. -/
theorem Calm.after {s t u : State} (h : Calm t u) (hs : Machine.steady t = Machine.steady s) (hd : t.drive = s.drive)
    (hb : t.bus = s.bus) (he : t.exc = s.exc) (hq : t.queries = s.queries := by rfl)
    (hw : t.divert.windows = s.divert.windows := by rfl) (hn : t.serial.window = s.serial.window := by rfl)
    (ho : t.flow.occupancy = s.flow.occupancy := by rfl) (hm : t.flow.demand = s.flow.demand := by rfl)
    (hv : t.flow.holdValue = s.flow.holdValue := by rfl) (hr : (dueRegister t).Sublist (dueRegister s) := by exact .refl _) :
    Calm s u := (Calm.plain hs hd hb he hq hw hn ho hm hv hr).trans h

theorem Calm.foldl {α : Type} {f : State → α → State} (h : ∀ a x, Calm a (f a x)) (l : List α) (s : State) :
    Calm s (l.foldl f s) := by
  induction l generalizing s with
  | nil => exact .refl s
  | cons x l ih => exact (h s x).trans (ih _)

theorem Calm.ite {s t u : State} {p : Prop} [Decidable p] (ht : Calm s t) (hu : Calm s u) : Calm s (if p then t else u) := by
  split
  · exact ht
  · exact hu

/-- A calm operation that may be followed by another. -/
theorem Calm.iteElse {s t u : State} {p : Prop} [Decidable p] (h : Calm s t) (k : Calm t u) : Calm s (if p then t else u) :=
  .ite h (h.trans k)

/-- A calm operation that may be followed by another. -/
theorem Calm.iteThen {s t u : State} {p : Prop} [Decidable p] (h : Calm s t) (k : Calm t u) : Calm s (if p then u else t) :=
  .ite (h.trans k) h

theorem Calm.setRefresh {s t : State} (h : Calm s t) (r : Option Nat) :
    Calm s { t with flow := { t.flow with refresh := r } } := h.trans (.plain rfl rfl rfl rfl)

/-! ## What it leaves, field by field -/

namespace Calm

variable {s t : State}

theorem time (h : Calm s t) : t.time = s.time := congrArg (fun x => x.time) h.steady
theorem inReset (h : Calm s t) : t.inReset = s.inReset := congrArg (fun x => x.inReset) h.steady
theorem lines (h : Calm s t) : t.lines = s.lines := congrArg (fun x => x.lines) h.steady
theorem loader (h : Calm s t) : t.loader = s.loader := congrArg (fun x => x.loader) h.steady
theorem reader (h : Calm s t) : t.reader = s.reader := congrArg (fun x => x.reader) h.steady
theorem cache (h : Calm s t) : t.cache = s.cache := congrArg (fun x => x.cache) h.steady
theorem holdOff (h : Calm s t) : t.holdOff = s.holdOff := congrArg (fun x => x.holdOff) h.steady
theorem pending (h : Calm s t) : t.pending = s.pending := congrArg (fun x => x.pending) h.steady
theorem rows (h : Calm s t) : t.routes.rows = s.routes.rows := congrArg (fun x => x.routes.rows) h.steady
theorem late (h : Calm s t) : t.routes.late = s.routes.late := congrArg (fun x => x.routes.late) h.steady
theorem d (h : Calm s t) : t.belt.d = s.belt.d := congrArg (fun x => x.belt.d) h.steady
theorem n (h : Calm s t) : t.belt.n = s.belt.n := congrArg (fun x => x.belt.n) h.steady
theorem v (h : Calm s t) : t.belt.v = s.belt.v := congrArg (fun x => x.belt.v) h.steady
theorem overspeed (h : Calm s t) : t.belt.overspeed = s.belt.overspeed := congrArg (fun x => x.belt.overspeed) h.steady
theorem eyes (h : Calm s t) : t.belt.eyes = s.belt.eyes := congrArg (fun x => x.belt.eyes) h.steady
theorem restartArmed (h : Calm s t) : t.belt.restartArmed = s.belt.restartArmed :=
  congrArg (fun x => x.belt.restartArmed) h.steady
theorem entered (h : Calm s t) : t.tracker.entered = s.tracker.entered := congrArg (fun x => x.tracker.entered) h.steady
theorem departed (h : Calm s t) : t.tracker.departed = s.tracker.departed := congrArg (fun x => x.tracker.departed) h.steady
theorem lost (h : Calm s t) : t.tracker.lost = s.tracker.lost := congrArg (fun x => x.tracker.lost) h.steady
theorem unknown (h : Calm s t) : t.tracker.unknown = s.tracker.unknown := congrArg (fun x => x.tracker.unknown) h.steady
theorem overrun (h : Calm s t) : t.tracker.overrun = s.tracker.overrun := congrArg (fun x => x.tracker.overrun) h.steady
theorem floor (h : Calm s t) : t.tracker.floor = s.tracker.floor := congrArg (fun x => x.tracker.floor) h.steady
theorem segment (h : Calm s t) : t.tracker.segment.map BagRecord.fixed = s.tracker.segment.map BagRecord.fixed :=
  congrArg (fun x => x.tracker.segment) h.steady
theorem history (h : Calm s t) : t.tracker.history.map Departure.fixed = s.tracker.history.map Departure.fixed :=
  congrArg (fun x => x.tracker.history) h.steady
theorem expected (h : Calm s t) :
    t.handoff.expected.map ExpectedEntry.fixed = s.handoff.expected.map ExpectedEntry.fixed :=
  congrArg (fun x => x.handoff.expected) h.steady
theorem nextId (h : Calm s t) : t.handoff.nextId = s.handoff.nextId := congrArg (fun x => x.handoff.nextId) h.steady
theorem recentMissing (h : Calm s t) : t.handoff.recentMissing = s.handoff.recentMissing :=
  congrArg (fun x => x.handoff.recentMissing) h.steady
theorem estop (h : Calm s t) : t.drive.reasons.estop = s.drive.reasons.estop :=
  congrArg (fun x => x.drive.reasons.estop) h.steady
theorem jam (h : Calm s t) : t.drive.reasons.jam = s.drive.reasons.jam := congrArg (fun x => x.drive.reasons.jam) h.steady
theorem stall (h : Calm s t) : t.drive.reasons.stall = s.drive.reasons.stall :=
  congrArg (fun x => x.drive.reasons.stall) h.steady
theorem notRunning (h : Calm s t) : t.drive.reasons.notRunning = s.drive.reasons.notRunning :=
  congrArg (fun x => x.drive.reasons.notRunning) h.steady
theorem runs (h : Calm s t) : t.flow.runs = s.flow.runs := congrArg (fun x => x.flow.runs) h.steady
theorem attempt (h : Calm s t) : t.bus.attempt = s.bus.attempt := congrArg (fun x => x.bus.attempt) h.steady
theorem lfsr (h : Calm s t) : t.bus.lfsr = s.bus.lfsr := congrArg (fun x => x.bus.lfsr) h.steady
theorem sent (h : Calm s t) : t.bus.sent = s.bus.sent := congrArg (fun x => x.bus.sent) h.steady
theorem received (h : Calm s t) : t.bus.received = s.bus.received := congrArg (fun x => x.bus.received) h.steady
theorem collisions (h : Calm s t) : t.bus.collisions = s.bus.collisions := congrArg (fun x => x.bus.collisions) h.steady
theorem excess (h : Calm s t) : t.bus.excess = s.bus.excess := congrArg (fun x => x.bus.excess) h.steady
theorem crc (h : Calm s t) : t.bus.crc = s.bus.crc := congrArg (fun x => x.bus.crc) h.steady
theorem format (h : Calm s t) : t.bus.format = s.bus.format := congrArg (fun x => x.bus.format) h.steady
theorem unknownKind (h : Calm s t) : t.bus.unknownKind = s.bus.unknownKind := congrArg (fun x => x.bus.unknownKind) h.steady
theorem creation (h : Calm s t) : t.serial.creation = s.serial.creation := congrArg (fun x => x.serial.creation) h.steady
theorem choice (h : Calm s t) : t.serial.choice = s.serial.choice := congrArg (fun x => x.serial.choice) h.steady
theorem cfg (h : Calm s t) : Machine.cfg t = Machine.cfg s := by simp only [Machine.cfg, h.loader]
theorem acting (h : Calm s t) : Machine.acting t = Machine.acting s := by simp only [Machine.acting, h.loader]

/-- A calm operation leaves the slots of the queue and their order as they were. -/
theorem slots (h : Calm s t) : segmentSlots t = segmentSlots s := by
  have := congrArg (List.map BagRecord.slot) h.segment
  simpa [segmentSlots, List.map_map, Function.comp_def, BagRecord.fixed] using this

/-- A calm operation leaves the number of expected entries as it was. -/
theorem expected_length (h : Calm s t) : t.handoff.expected.length = s.handoff.expected.length := by
  simpa using congrArg List.length h.expected

/-- A calm operation leaves the number of departures as it was. -/
theorem history_length (h : Calm s t) : t.tracker.history.length = s.tracker.history.length := by
  simpa using congrArg List.length h.history

end Calm

/-! ## Bag records, entries, departures and positions -/

theorem updateBag_calm (slot : Nat) (f : BagRecord → BagRecord) (s : State) (h : ∀ b, (f b).fixed = b.fixed) :
    Calm s (updateBag slot f s) := by
  refine .plain ?_ rfl rfl rfl
  have : (s.tracker.segment.map (fun b => if b.slot = slot then f b else b)).map BagRecord.fixed =
      s.tracker.segment.map BagRecord.fixed := by
    rw [List.map_map]
    refine List.map_congr_left (fun b _ => ?_)
    simp only [Function.comp]
    split
    · exact h b
    · rfl
  simp [steady, this]

/-- As `updateBag_calm`, for a change that need be calm on the records of the slot in the queue only. -/
theorem updateBag_calm_on (slot : Nat) (f : BagRecord → BagRecord) (s : State)
    (h : ∀ b ∈ s.tracker.segment, b.slot = slot → (f b).fixed = b.fixed) : Calm s (updateBag slot f s) := by
  refine .plain ?_ rfl rfl rfl
  have : (s.tracker.segment.map (fun b => if b.slot = slot then f b else b)).map BagRecord.fixed =
      s.tracker.segment.map BagRecord.fixed := by
    rw [List.map_map]
    refine List.map_congr_left (fun b hb => ?_)
    simp only [Function.comp]
    split
    · exact h b hb (by assumption)
    · rfl
  simp [steady, this]

theorem updateEntry_calm (source id : Byte) (f : ExpectedEntry → ExpectedEntry) (s : State)
    (h : ∀ e, (f e).fixed = e.fixed) : Calm s (updateEntry source id f s) := by
  refine .plain ?_ rfl rfl rfl
  have : (s.handoff.expected.map (fun e => if e.source = source ∧ e.id = id then f e else e)).map ExpectedEntry.fixed =
      s.handoff.expected.map ExpectedEntry.fixed := by
    rw [List.map_map]
    refine List.map_congr_left (fun e _ => ?_)
    simp only [Function.comp]
    split
    · exact h e
    · rfl
  simp [steady, this]

theorem updateDeparture_calm (peer id : Byte) (f : Departure → Departure) (s : State)
    (h : ∀ d, (f d).fixed = d.fixed) : Calm s (updateDeparture peer id f s) := by
  refine .plain ?_ rfl rfl rfl
  have : (s.tracker.history.map (fun d => if awaits peer id d then f d else d)).map Departure.fixed =
      s.tracker.history.map Departure.fixed := by
    rw [List.map_map]
    refine List.map_congr_left (fun d _ => ?_)
    simp only [Function.comp]
    split
    · exact h d
    · rfl
  simp [steady, this]

theorem setStatus_calm (l : Live) (st : RouteStatus) (s : State) : Calm s (setStatus l st s) := by
  cases l
  · exact updateBag_calm _ _ _ (fun _ => rfl)
  · exact updateEntry_calm _ _ _ _ (fun _ => rfl)

theorem updatePeer_calm (st : Byte) (f : PeerState → PeerState) (s : State) : Calm s (updatePeer st f s) :=
  .plain rfl rfl rfl rfl

theorem withdraw_calm (i : Item) (s : State) : Calm s (withdraw i s) :=
  .plain rfl rfl rfl rfl (hr := List.filter_sublist.filter _)

/-- R3: a position that D has not reached is held. -/
theorem holdPosition_calm (i : Item) (p : Pos) (s : State) (h : reached s.belt.d p = false) : Calm s (holdPosition i p s) :=
  .plain rfl rfl rfl rfl (hr := by simp [dueRegister, holdPosition, h])

/-- R3: an offered position is either reported or held. -/
theorem offerPosition_calm (i : Item) (p : Pos) (report : State → State) (s : State) (h : ∀ t, Calm t (report t)) :
    Calm s (offerPosition i p report s) := by
  unfold offerPosition
  split
  · exact (withdraw_calm i s).trans (h _)
  · rename_i hr
    exact (withdraw_calm i s).trans (holdPosition_calm i p _ (Bool.eq_false_iff.mpr hr))

theorem putGate_calm (o : Outlet) (g : Option Gate) (s : State) : Calm s (putGate o g s) := .plain rfl rfl rfl rfl

theorem PerDiverter_get_set {α : Type} (p : PerDiverter α) (j k : Diverter) (x : α) :
    (p.set k x).get j = if j = k then x else p.get j := by cases j <;> cases k <;> rfl

/-- R97: windows written at one diverter. -/
theorem putWindows_calm (k : Diverter) (w : DiverterWindows) (s : State)
    (h : WindowLaw s → WindowsOk s.serial.window w) : Calm s (putWindows k w s) := by
  refine ⟨rfl, le_rfl, fun _ => rfl, id, id, id, id, fun hs j => ?_, rfl, rfl, id, .refl _⟩
  show WindowsOk s.serial.window ((s.divert.windows.set k w).get j)
  rw [PerDiverter_get_set]
  split
  · exact h hs
  · exact hs j

/-- The length of the queue when its frames but the one in attempt change. -/
theorem queueLength_of {b b' : Bus} (h : b'.attempt = b.attempt) :
    queueLength b' + b.waiting.length = queueLength b + b'.waiting.length := by
  unfold queueLength
  rw [h]
  omega

/-! ## The transmit queue (R167 to R169, R177) -/

theorem lowestClass_le (w : List Queued) (m : Nat) :
    m ≤ w.foldl (fun m q => max m (queuedClass q)) m := by
  induction w generalizing m with
  | nil => exact le_rfl
  | cons q w ih => exact le_trans (le_max_left _ _) (ih _)

/-- The lowest class present is that of a frame in the queue, when it is not 0. -/
theorem lowestClass_mem (w : List Queued) (m : Nat) (h : m < w.foldl (fun m q => max m (queuedClass q)) m) :
    ∃ q ∈ w, queuedClass q = w.foldl (fun m q => max m (queuedClass q)) m := by
  induction w generalizing m with
  | nil => simp at h
  | cons q w ih =>
    simp only [List.foldl_cons] at h ⊢
    by_cases hq : max m (queuedClass q) < w.foldl (fun m q => max m (queuedClass q)) (max m (queuedClass q))
    · obtain ⟨x, hx, e⟩ := ih _ hq
      exact ⟨x, List.mem_cons_of_mem _ hx, e⟩
    · have he := le_antisymm (not_lt.mp hq) (lowestClass_le w _)
      rw [he] at h ⊢
      exact ⟨q, List.mem_cons_self, by omega⟩

/-- R168: displacing a frame of a class that is present takes one frame out. -/
theorem dropYoungest_length (c : Nat) (w : List Queued) (h : ∃ q ∈ w, queuedClass q = c) :
    (dropYoungest c w).length + 1 = w.length := by
  obtain ⟨q, hq, hc⟩ := h
  unfold dropYoungest
  rw [List.length_reverse, List.length_eraseP_of_mem (List.mem_reverse.mpr hq) (by simpa using hc), List.length_reverse]
  have : 0 < w.length := List.length_pos_of_mem hq
  omega

theorem oweReport_calm (q : Queued) (s : State) : Calm s (oweReport q s) := by
  unfold oweReport; split
  · exact .refl s
  · exact .plain rfl rfl rfl rfl

/-- R168: a refusal changes only the drop count and the reports. -/
theorem refuseFrame_calm (q : Queued) (s : State) : Calm s (refuseFrame q s) := by
  unfold refuseFrame
  simp only
  split
  · exact ⟨rfl, le_rfl, fun _ => rfl, id, id, id, id, id, rfl, rfl, id, .refl _⟩
  · split
    · unfold setPending; split <;> exact ⟨rfl, le_rfl, fun _ => rfl, id, id, id, id, id, rfl, rfl, id, .refl _⟩
    · exact ⟨rfl, le_rfl, fun _ => rfl, id, id, id, id, id, rfl, rfl, id, .refl _⟩

theorem replaceFrame_calm (q : Queued) (s : State) : Calm s (replaceFrame q s) :=
  ⟨rfl, le_rfl, fun _ => rfl, id, fun h => by
    have := queueLength_of (b := s.bus) (b' := (replaceFrame q s).bus) rfl
    simp only [QueueLaw, replaceFrame, List.length_map] at *
    omega, id, id, id, rfl, rfl, id, .refl _⟩

theorem displaceFrame_bus (c : Nat) (s : State) :
    (displaceFrame c s).bus = { s.bus with waiting := dropYoungest c s.bus.waiting, queueDrop := s.bus.queueDrop + 1 } := by
  unfold displaceFrame oweReport
  simp only
  split
  · rfl
  · split <;> rfl

theorem displaceFrame_steady (c : Nat) (s : State) : steady (displaceFrame c s) = steady s := by
  unfold displaceFrame oweReport
  simp only
  split
  · rfl
  · split <;> rfl

theorem displaceFrame_rest (c : Nat) (s : State) :
    displaceFrame c s = { s with bus := (displaceFrame c s).bus, owed := (displaceFrame c s).owed } := by
  unfold displaceFrame oweReport
  simp only
  split
  · rfl
  · split <;> rfl

/-- R167 to R169: an offer of a frame. -/
theorem offerFrame_calm (q : Queued) (s : State) : Calm s (offerFrame q s) := by
  unfold offerFrame
  split
  · exact .refl s
  · split
    · exact replaceFrame_calm q s
    · split
      · rename_i h
        refine ⟨rfl, le_rfl, fun _ => rfl, id, fun _ => ?_, id, id, id, rfl, rfl, id, .refl _⟩
        have hq := queueLength_of (b := s.bus) (b' := (acceptFrame q s).bus) rfl
        simp only [acceptFrame, QueueLaw, List.length_append, List.length_singleton] at h hq ⊢
        omega
      · split
        · rename_i h
          have hm := lowestClass_mem s.bus.waiting 0 (lt_of_le_of_lt (Nat.zero_le _) h)
          have hl := dropYoungest_length _ _ hm
          have hr := displaceFrame_rest (lowestClass s.bus.waiting) s
          have hd : (displaceFrame (lowestClass s.bus.waiting) s).drive = s.drive := by rw [hr]
          have he : (displaceFrame (lowestClass s.bus.waiting) s).exc = s.exc := by rw [hr]
          refine ⟨displaceFrame_steady _ s, ?_, fun _ => ?_, ?_, fun hq => ?_, ?_, ?_, .congr ?_ ?_, ?_, ?_,
            .congr ?_ ?_ ?_ ?_ ?_, ?_⟩
          · simp [acceptFrame, hd]
          · simp [acceptFrame, hd]
          · simp only [acceptFrame, hd]; exact id
          · have hk := queueLength_of (b := s.bus) (b' := (acceptFrame q (displaceFrame (lowestClass s.bus.waiting) s)).bus)
              (by simp [acceptFrame, displaceFrame_bus])
            simp only [acceptFrame, QueueLaw, List.length_append, List.length_singleton, displaceFrame_bus,
              lowestClass] at hq hk hl ⊢
            omega
          · simp only [acceptFrame, he]; exact id
          · simp only [acceptFrame]; rw [hr]; exact id
          on_goal 10 => simp only [acceptFrame]; rw [hr]; exact .refl _
          all_goals simp only [acceptFrame]; rw [hr]
        · exact refuseFrame_calm q s

theorem offer_calm (dest : Byte) (p : Payload) (s : State) : Calm s (offer dest p s) := offerFrame_calm _ s

theorem broadcast_calm (p : Payload) (s : State) : Calm s (broadcast p s) := by
  unfold broadcast; split
  · exact offer_calm _ _ s
  · exact .refl s

theorem toSources_calm (p : Payload) (s : State) : Calm s (toSources p s) := .foldl (fun a _ => offer_calm _ _ a) _ s

/-! ## The Exception Unit (R152 to R161) -/

theorem alertFreeze_calm (n : Byte) (b a : EventCounter) (s : State) : Calm s (alertFreeze n b a s) := by
  unfold alertFreeze; split
  · exact broadcast_calm _ s
  · exact .refl s

/-- R160: an event handed to the event counters. -/
theorem countEvent_calm (e : CounterEvent) (s : State) : Calm s (countEvent e s) := by
  unfold countEvent; split
  · refine Calm.trans (t := _) ?_ ((alertFreeze_calm _ _ _ _).trans (alertFreeze_calm _ _ _ _))
    exact ⟨rfl, le_rfl, fun _ => rfl, id, id, id, id, id, rfl, rfl, id, .refl _⟩
  · exact .refl s

theorem enterStray_calm (r : StrayRecord) (s : State) : Calm s (enterStray r s) :=
  ⟨rfl, le_rfl, fun _ => rfl, id, id, fun h => ⟨by simp [enterStray], h.2⟩, id, id, rfl, rfl, id, .refl _⟩

/-- R152: a stray record handed to the Exception Unit. -/
theorem handStray_calm (i : StrayInfo) (s : State) : Calm s (handStray i s) := by
  unfold handStray; split
  · exact (enterStray_calm _ s).trans ((countEvent_calm _ _).trans (broadcast_calm _ _))
  · exact .refl s

theorem unwatch_calm (p : Nat) (s : State) : Calm s (unwatch p s) :=
  ⟨rfl, le_rfl, fun _ => rfl, id, id, fun h => ⟨h.1, (List.length_filter_le _ _).trans h.2⟩, id, id, rfl, rfl, id, .refl _⟩

theorem sendFound_calm (p : Nat) (g : Sighting) (r : Byte) (s : State) : Calm s (sendFound p g r s) := broadcast_calm _ s

/-- R153: an entry of the watch list written as the newest. -/
theorem enterWatch_calm (p : Nat) (r : Byte) (s : State) : Calm s (enterWatch p r s) := by
  refine ⟨rfl, le_rfl, fun _ => rfl, id, id, fun h => ⟨h.1, ?_⟩, id, id, rfl, rfl, id, .refl _⟩
  have hl := (List.length_filter_le (fun w => decide (w.plate ≠ p)) s.exc.watch).trans h.2
  simp only [enterWatch, List.length_append, List.length_singleton]
  split
  · omega
  · simp only [List.length_drop, Config.watchEntries] at *
    omega

theorem lookAtOnce_calm (p : Nat) (r : Byte) (s : State) : Calm s (lookAtOnce p r s) := by
  unfold lookAtOnce; split
  · exact .refl s
  · exact (sendFound_calm _ _ _ s).trans (unwatch_calm _ _)
  · exact sendFound_calm _ _ _ s

/-- R155: a search for a plate. -/
theorem beginSearch_calm (p : Nat) (r : Byte) (own : Bool) (s : State) : Calm s (beginSearch p r own s) := by
  unfold beginSearch
  simp only
  split
  · refine (enterWatch_calm p r s).trans (Calm.trans (t := _) ?_ (lookAtOnce_calm _ _ _))
    split
    · exact broadcast_calm _ _
    · exact .refl _
  · exact enterWatch_calm p r s

theorem watchCheck_calm (p : Nat) (pl : Place) (o : Option Outlet) (s : State) : Calm s (watchCheck p pl o s) := by
  unfold watchCheck; split
  · exact .refl s
  · split
    · exact (sendFound_calm _ _ _ s).trans (unwatch_calm _ _)
    · exact .refl s

/-! ## The Flow Controller (R138 to R150) -/

theorem onDrive_calm (f : Drive → Drive) (s : State)
    (hr : ({ (f s.drive).reasons with hold := false, blocked := false } : Reasons) =
      { s.drive.reasons with hold := false, blocked := false })
    (h1 : (f s.drive).r ≤ s.drive.r)
    (h3 : s.drive.state = .halted → f s.drive = { s.drive with reasons := (f s.drive).reasons }) (h2 : DriveLaw s.drive → DriveLaw (f s.drive)) : Calm s (onDrive f s) := by
  have hx : ∀ x : Reasons → Bool, (∀ r : Reasons, x { r with hold := false, blocked := false } = x r) →
      x (f s.drive).reasons = x s.drive.reasons := fun x h => by rw [← h (f s.drive).reasons, hr, h]
  refine ⟨?_, h1, h3, h2, id, id, id, id, rfl, rfl,
    .congr rfl (hx Reasons.jam (fun _ => rfl)) (hx Reasons.stall (fun _ => rfl)) rfl rfl, .refl _⟩
  simp only [steady, onDrive_drive, hr]
  rfl

/-- R148: HOLD and BLOCKED join and leave the set. -/
theorem putReason_calm (x : StopReason) (present : Bool) (s : State) (hx : x = .hold ∨ x = .blocked) :
    Calm s (putReason x present s) := by
  unfold putReason
  cases present
  · refine onDrive_calm _ s ?_ (leaveReason_r _ _ _) (leaveReason_halted _ _ _) (leaveReason_law _ _ _)
    simp only [Bool.false_eq_true, if_false, leaveReason_reasons]
    rcases hx with rfl | rfl <;> rfl
  · refine onDrive_calm _ s ?_ (joinReason_r _ _ _) (joinReason_halted _ _ _) (joinReason_law _ _ _)
    simp only [if_true, joinReason_reasons]
    rcases hx with rfl | rfl <;> rfl

theorem syncStops_calm (s : State) : Calm s (syncStops s) := by
  unfold syncStops
  simp only
  have step : ∀ (p : Prop) [Decidable p] (x : StopReason) (b : Bool) (t : State), (x = .hold ∨ x = .blocked) →
      Calm t (if p then putReason x b t else t) := fun p _ x b t hx => .ite (putReason_calm x b t hx) (.refl t)
  have step' : ∀ (p : Prop) [Decidable p] (x : StopReason) (b : Bool) (t : State), (x = .hold ∨ x = .blocked) →
      Calm t (if p then t else putReason x b t) := fun p _ x b t hx => .ite (.refl t) (putReason_calm x b t hx)
  exact (step _ _ _ s (.inl rfl)).trans ((step _ _ _ _ (.inr rfl)).trans
    ((step' _ _ _ _ (.inl rfl)).trans (step' _ _ _ _ (.inr rfl))))

theorem handReach_calm (r : DestSet) (s : State) : Calm s (handReach r s) := by
  unfold handReach
  simp only
  split
  · exact (toSources_calm _ _).after rfl rfl rfl rfl
  · exact .plain rfl rfl rfl rfl

/-- The offers of `followHold` after its write of the hold value. -/
theorem followHold_offers (s : State) (h : wantedHold s ≠ s.flow.holdValue) :
    Calm { s with flow := { s.flow with holdValue := wantedHold s } } (followHold s) := by
  unfold followHold
  rw [if_neg h]
  have k := Calm.refl { s with flow := { s.flow with holdValue := wantedHold s } }
  exact (k.iteThen (toSources_calm (.hold (byteOf (wantedHold s))) _)).setRefresh _

/-- R142: after `followHold` the hold value is what the demands ask for. -/
theorem followHold_law (s : State) : HoldLaw (followHold s) := by
  by_cases h : wantedHold s = s.flow.holdValue
  · have : followHold s = s := by unfold followHold; rw [if_pos h]
    rw [this]
    exact h.symm
  · exact (followHold_offers s h).hold rfl

/-- R142, R143: the hold value follows the demands. -/
theorem followHold_calm (s : State) : Calm s (followHold s) := by
  by_cases h : wantedHold s = s.flow.holdValue
  · have : followHold s = s := by unfold followHold; rw [if_pos h]
    rw [this]
    exact .refl s
  · have k := followHold_offers s h
    exact ⟨k.steady, k.reference, k.coasts, k.drive, k.queue, k.lists, k.queries, k.windows, k.occupancy, k.demand,
      fun _ => followHold_law s, k.due⟩

/-- R141, R142: the state with an occupancy, its demand brought up to date. -/
def atOccupancy (n : Nat) (s : State) : State :=
  { s with flow := { s.flow with occupancy := n, demand := demandAt (cfg s) n s.flow.demand } }

theorem putOccupancy_calm (n : Nat) (s : State) : Calm (atOccupancy n s) (putOccupancy n s) := followHold_calm _

theorem putOccupancy_law (n : Nat) (s : State) : HoldLaw (putOccupancy n s) := followHold_law _

theorem passOverrun_calm (o : Outlet) (slot : Nat) (s : State) : Calm s (passOverrun o slot s) := by
  refine (updateBag_calm slot (fun b => { b with gatePassed := some o }) s (fun _ => rfl)).trans
    ((countEvent_calm _ _).after rfl rfl rfl rfl)

theorem takeUp_calm (o : Outlet) (g : Gate) (l : List BagRecord) (s : State) : Calm s (takeUp o g l s) := by
  induction l generalizing s with
  | nil => exact (withdraw_calm _ s).trans (putGate_calm _ _ _)
  | cons b rest ih =>
    unfold takeUp
    split
    · split
      · exact ih s
      · split
        · exact .refl s
        · split
          · exact (passOverrun_calm _ _ s).trans (ih _)
          · rename_i hr
            exact (withdraw_calm _ s).trans ((holdPosition_calm _ _ (withdraw _ s) (Bool.eq_false_iff.mpr hr)).trans
              (putGate_calm _ _ _))
    · exact ih s

/-- R146: a gate determines its stopping bag afresh. -/
theorem determineStop_calm (o : Outlet) (s : State) : Calm s (determineStop o s) := by
  unfold determineStop; split
  · exact .refl s
  · exact (takeUp_calm _ _ _ s).trans (syncStops_calm _)

theorem refreshGate_calm (o : Outlet) (s : State) : Calm s (refreshGate o s) := by
  unfold refreshGate; split
  · split
    · exact (putGate_calm _ _ s).trans (determineStop_calm _ _)
    · exact .refl s
  · split
    · exact syncStops_calm s
    · exact (withdraw_calm _ s).trans ((putGate_calm _ _ _).trans (syncStops_calm _))

theorem refreshGates_calm (s : State) : Calm s (refreshGates s) := .foldl (fun a o => refreshGate_calm o a) _ s

theorem latchGate_calm (o : Outlet) (s : State) : Calm s (latchGate o s) := by
  unfold latchGate; split
  · exact .refl s
  · split
    · exact (putGate_calm _ _ s).trans (syncStops_calm _)
    · exact .refl s

/-- R147: the stop position of a gate recomputed. -/
theorem recomputeStop_calm (o : Outlet) (s : State) : Calm s (recomputeStop o s) := by
  unfold recomputeStop; split
  · exact .refl s
  · split
    · exact .refl s
    · split
      · exact .refl s
      · split
        · exact .refl s
        · exact (putGate_calm _ _ s).trans (offerPosition_calm _ _ _ _ (latchGate_calm o))

theorem recomputeStops_calm (s : State) : Calm s (recomputeStops s) := .foldl (fun a o => recomputeStop_calm o a) _ s

theorem fireMoved_calm (k : Diverter) (w : Nat) (s : State) : Calm s (fireMoved k w s) := by
  unfold fireMoved
  simp only
  split
  · exact .refl s
  · split
    · exact .refl s
    · exact .ite (recomputeStop_calm _ s) (.refl s)

theorem stoppersGone_calm (l : List Nat) (o : Outlet) (s : State) : Calm s (stoppersGone l o s) := by
  unfold stoppersGone; split
  · exact .refl s
  · exact .ite (determineStop_calm _ s) (.refl s)

/-- R146: a record handed on with its chosen outlet. -/
theorem handChosen_calm (slot : Nat) (s : State) : Calm s (handChosen slot s) := by
  unfold handChosen; split
  · exact .refl s
  · simp only
    rename_i b _
    have hf : Calm s (allOutlets.foldl (fun acc o => if b.chosen = some o then acc else stoppersGone [slot] o acc) s) :=
      .foldl (fun a o => .ite (.refl a) (stoppersGone_calm _ _ a)) _ s
    split
    · exact hf
    · exact hf.trans (determineStop_calm _ _)

theorem stopperLeft_calm (slot : Nat) (s : State) : Calm s (stopperLeft slot s) :=
  .foldl (fun a o => stoppersGone_calm _ o a) _ s

/-! ## The Divert Scheduler (R99 to R115) -/

theorem windowList_map (f : Window → Window) (w : DiverterWindows) :
    windowList ⟨w.active.map f, w.next.map f⟩ = (windowList w).map f := by
  rcases w with ⟨_ | a, _ | b⟩ <;> rfl

/-- A change of the windows with a number that keeps their number and leaves one to four bags in each. -/
theorem updateWindow_calm (k : Diverter) (n : Nat) (f : Window → Window) (s : State)
    (hn : ∀ w, (f w).number = w.number := by intros; rfl)
    (hb : WindowLaw s → ∀ w ∈ windowList (windowsOf s k), w.number = n →
      1 ≤ (f w).bags.length ∧ (f w).bags.length ≤ Config.windowBags) : Calm s (updateWindow k n f s) := by
  refine putWindows_calm k _ s (fun h => ?_)
  have hk := h k
  have hm : ∀ x : Window, (if x.number = n then f x else x).number = x.number := fun x => by
    split
    · exact hn x
    · rfl
  refine ⟨fun ha => ?_, ?_, ?_, ?_⟩
  · simp only [Option.map_eq_none_iff] at ha ⊢
    exact hk.order ha
  · rw [windowList_map]
    simp only [List.mem_map, forall_exists_index, and_imp]
    rintro _ x hx rfl
    split
    · exact hb h x hx (by assumption)
    · exact hk.size x hx
  · rw [windowList_map]
    simp only [List.mem_map, forall_exists_index, and_imp]
    rintro _ x hx rfl
    rw [hm]
    exact hk.named x hx
  · rw [windowList_map, List.map_map]
    have : Window.number ∘ (fun x : Window => if x.number = n then f x else x) = Window.number := funext hm
    rw [this]
    exact hk.distinct

/-- A change of a window that keeps its number and its bags but for what each holds. -/
theorem updateWindow_keeps (k : Diverter) (n : Nat) (f : Window → Window) (s : State)
    (hn : ∀ w, (f w).number = w.number := by intros; rfl)
    (hb : ∀ w, (f w).bags.length = w.bags.length := by intros; simp) : Calm s (updateWindow k n f s) :=
  updateWindow_calm k n f s hn (fun h w hw _ => by rw [hb]; exact (h k).size w hw)

theorem dropWindow_calm (k : Diverter) (n : Nat) (s : State) : Calm s (dropWindow k n s) := by
  unfold dropWindow
  simp only
  have h : Calm s (withdraw (.firePoint k n) (withdraw (.releasePoint k n) s)) := (withdraw_calm _ s).trans (withdraw_calm _ _)
  have hk : ∀ x y, (∀ z ∈ windowList ⟨x, y⟩, z ∈ windowList (windowsOf s k)) → y = none →
      Calm s (putWindows k ⟨x, y⟩ (withdraw (.firePoint k n) (withdraw (.releasePoint k n) s))) := by
    rintro x y hz rfl
    refine h.trans (putWindows_calm _ _ _ (fun hw => ?_))
    have ho : WindowsOk s.serial.window (windowsOf s k) := hw k
    refine ⟨fun _ => rfl, fun z hx => ho.size z (hz z hx), fun z hx => ho.named z (hz z hx), ?_⟩
    cases x <;> simp [windowList]
  split
  · exact hk _ _ (fun z hz => by
      simp only [windowList, Option.toList_none, List.append_nil, List.mem_append] at hz ⊢; exact .inr hz) rfl
  · exact .ite (hk _ _ (fun z hz => by
      simp only [windowList, Option.toList_none, List.append_nil, List.mem_append] at hz ⊢; exact .inl hz) rfl) h

theorem passReached_calm (k : Diverter) (slot : Nat) (s : State) : Calm s (passReached k slot s) := by
  unfold passReached; split
  · exact .refl s
  · exact updateBag_calm _ _ s (fun b => by split <;> rfl)

theorem bagFires_calm (k : Diverter) (slot : Nat) (s : State) : Calm s (bagFires k slot s) := by
  unfold bagFires; split
  · exact (updateBag_calm _ _ s (fun b => by split <;> rfl)).trans (offerPosition_calm _ _ _ _ (passReached_calm k slot))
  · exact .refl s

/-- R110: a window fires. -/
theorem fireWindow_calm (k : Diverter) (n : Nat) (s : State) : Calm s (fireWindow k n s) := by
  unfold fireWindow; split
  · exact .refl s
  · split
    · exact .refl s
    · exact (updateWindow_keeps _ _ _ s).trans
        (Calm.trans (.foldl (fun a slot => bagFires_calm k slot a) _ _) (stoppersGone_calm _ _ _))

theorem releaseWindow_calm (k : Diverter) (n : Nat) (s : State) : Calm s (releaseWindow k n s) := dropWindow_calm k n s

theorem setFire_calm (k : Diverter) (n : Nat) (s : State) : Calm s (setFire k n s) := by
  unfold setFire; split
  · split
    · exact (updateWindow_keeps _ _ _ s).trans
        ((offerPosition_calm _ _ _ _ (fireWindow_calm k n)).trans (fireMoved_calm _ _ _))
    · exact .refl s
  · exact .refl s

theorem setRelease_calm (k : Diverter) (n : Nat) (s : State) : Calm s (setRelease k n s) := by
  unfold setRelease; split
  · simp only
    split
    · exact (updateWindow_keeps _ _ _ s).trans (withdraw_calm _ _)
    · exact (updateWindow_keeps _ _ _ s).trans (offerPosition_calm _ _ _ _ (releaseWindow_calm k n))
  · exact .refl s

theorem recomputeFires_calm (s : State) : Calm s (recomputeFires s) :=
  .foldl (fun a k => .foldl (fun b n => setFire_calm k n b) _ a) _ s

/-- R108: a bag withdrawn from an unfired window. -/
theorem withdrawBag_calm (k : Diverter) (slot : Nat) (s : State) : Calm s (withdrawBag k slot s) := by
  unfold withdrawBag; split
  · exact .refl s
  · split
    · exact .refl s
    · simp only
      split
      · exact dropWindow_calm _ _ s
      · rename_i w hw _ he
        have h1 := updateWindow_calm k w.number (fun y => { y with bags := w.bags.filter (fun b => decide (b.slot ≠ slot)) }) s
          (fun _ => rfl) (fun h _ _ _ => ⟨by
            rw [Nat.one_le_iff_ne_zero]
            exact fun h0 => he (List.isEmpty_iff.mpr (List.length_eq_zero_iff.mp h0)),
            (List.length_filter_le _ _).trans ((h k).size w (List.mem_of_find?_eq_some hw)).2⟩)
        exact (h1.iteElse (setFire_calm _ _ _)).iteElse (setRelease_calm _ _ _)

theorem withdrawEverywhere_calm (slot : Nat) (s : State) : Calm s (withdrawEverywhere slot s) :=
  .foldl (fun a k => withdrawBag_calm k slot a) _ s

theorem markRisk_calm (slot : Nat) (s : State) : Calm s (markRisk slot s) := by
  unfold markRisk; split
  · exact .refl s
  · split
    · exact .refl s
    · exact (updateBag_calm slot (fun b => { b with flags := { b.flags with atRisk := true } }) s (fun _ => rfl)).trans
        (.plain rfl rfl rfl rfl)

theorem countThrough_calm (c : ThroughCause) (slot : Nat) (s : State) : Calm s (countThrough c slot s) := by
  unfold countThrough; split
  · exact (countEvent_calm _ _).after rfl rfl rfl rfl
  · exact (countEvent_calm _ _).after rfl rfl rfl rfl
  · simp only
    have h : ∀ t, t = { s with divert := { s.divert with lateDivert := s.divert.lateDivert + 1 } } →
        Calm s (updateBag slot (fun b => { b with flags := { b.flags with overrideLate := true } }) t) := fun t ht =>
      Calm.trans (t := t) (by subst ht; exact .plain rfl rfl rfl rfl) (updateBag_calm _ _ _ (fun _ => rfl))
    exact .ite (h _ rfl) ((h _ rfl).trans (countEvent_calm _ _))

theorem riskCheck_calm (slot : Nat) (e : Pos) (j : Diverter) (s : State) : Calm s (riskCheck slot e j s) := by
  unfold riskCheck; split
  · exact .ite (markRisk_calm _ s) (.refl s)
  · exact .refl s

theorem setChosen_fixed (o : Outlet) (b : BagRecord) : (setChosen o b).fixed = b.fixed := rfl

/-- R107: a bag sent through. -/
theorem sendThrough_calm (c : ThroughCause) (busy slot : Nat) (s : State) : Calm s (sendThrough c busy slot s) := by
  unfold sendThrough; split
  · exact .refl s
  · simp only
    refine (updateBag_calm slot (setChosen .o0) s (setChosen_fixed .o0)).trans ((countThrough_calm c slot _).trans ?_)
    rename_i b _
    have h : ∀ u, Calm u (allDiverters.foldl (fun acc j =>
        if passes acc b.entry .o0 j && !passesFor acc b.entry b.chosen j then riskCheck slot b.entry j acc else acc) u) :=
      fun u => .foldl (fun a j => .ite (riskCheck_calm _ _ _ a) (.refl a)) _ u
    exact (h _).iteElse (handChosen_calm _ _)

theorem closingCheck_calm (fuel slot : Nat) (e : Pos) (j : Diverter) (s : State) : Calm s (closingCheck fuel slot e j s) := by
  induction fuel generalizing s with
  | zero => exact .refl s
  | succ fuel ih =>
    unfold closingCheck; split
    · split
      · split
        · exact markRisk_calm _ s
        · exact (withdrawBag_calm _ _ s).trans ((sendThrough_calm _ _ _ _).trans (ih _))
      · exact .refl s
    · exact .refl s

theorem closingChecks_calm (slot : Nat) (e : Pos) (o : Outlet) (s : State) : Calm s (closingChecks slot e o s) :=
  .foldl (fun a j => .ite (closingCheck_calm 9 slot e j a) (.refl a)) _ s

/-- R105: a bag joins a window that holds fewer than four. -/
theorem joinWindow_calm (k : Diverter) (w : Window) (b : BagRecord) (s : State) (hw : w ∈ windowList (windowsOf s k))
    (hl : w.bags.length < Config.windowBags) : Calm s (joinWindow k w b s) := by
  unfold joinWindow
  simp only
  have h1 := updateWindow_calm k w.number (fun y => { y with bags := y.bags ++ [⟨b.slot, b.entry, b.length, false⟩] }) s
    (fun _ => rfl) (fun h x hx hn => by
      have : x = w := List.inj_on_of_nodup_map (h k).distinct hx hw hn
      subst this
      simp only [List.length_append, List.length_singleton]
      omega)
  exact (h1.trans (setRelease_calm _ _ _)).iteThen (bagFires_calm _ _ _)

/-- R106, step 4: a new window takes a number that no window has. -/
theorem openWindow_calm (k : Diverter) (b : BagRecord) (s : State)
    (hf : ¬ ((windowsOf s k).active.isSome = true ∧ (windowsOf s k).next.isSome = true)) : Calm s (openWindow k b s) := by
  unfold openWindow
  simp only
  refine Calm.trans ?_ ((setFire_calm k s.serial.window _).trans (setRelease_calm k s.serial.window _))
  refine ⟨rfl, le_rfl, fun _ => rfl, id, id, id, id, fun hw j => ?_, rfl, rfl, id, .refl _⟩
  have hj := hw j
  have hk := hw k
  show WindowsOk (s.serial.window + 1) ((s.divert.windows.set k _).get j)
  rw [PerDiverter_get_set]
  split
  · rcases hd : windowsOf s k with ⟨_ | a, _ | c⟩ <;> rw [hd] at hk hf
    · refine ⟨fun h => by simp at h, ?_, ?_, ?_⟩ <;> simp [windowList, Config.windowBags]
    · simpa using hk.order rfl
    · have hs := hk.size a (by simp [windowList])
      have hn := hk.named a (by simp [windowList])
      refine ⟨fun h => by simp at h, ?_, ?_, ?_⟩ <;>
        simp only [windowList, Option.isNone_some, Bool.false_eq_true, if_false, Option.toList_some, List.cons_append,
          List.nil_append, List.mem_cons, List.not_mem_nil, or_false, forall_eq_or_imp, forall_eq, List.map_cons, List.map_nil]
      · exact ⟨hs, by simp [Config.windowBags]⟩
      · exact ⟨Nat.lt_succ_of_lt hn, Nat.lt_succ_self _⟩
      · simp only [List.nodup_cons, List.mem_singleton, List.not_mem_nil, not_false_eq_true, List.nodup_nil, and_true]
        omega
    · simp at hf
  · exact ⟨hj.order, hj.size, fun x hx => Nat.lt_succ_of_lt (hj.named x hx), hj.distinct⟩

theorem newWindow_calm (k : Diverter) (x : DiverterConfig) (b : BagRecord) (s : State) : Calm s (newWindow k x b s) := by
  unfold newWindow
  simp only
  split
  · exact sendThrough_calm _ _ _ s
  · exact .ite (sendThrough_calm _ _ _ s) (.ite (sendThrough_calm _ _ _ s) (openWindow_calm _ _ s (by assumption)))

/-- R105, R106: a bag placed at its diverter. -/
theorem placeBag_calm (k : Diverter) (b : BagRecord) (s : State) : Calm s (placeBag k b s) := by
  unfold placeBag; split
  · exact .refl s
  · simp only
    split
    · rename_i hw _
      split
      · split
        · exact joinWindow_calm _ _ _ s (List.mem_of_getLast? hw) (by assumption)
        · exact sendThrough_calm _ _ _ s
      · exact newWindow_calm _ _ _ s
    · exact newWindow_calm _ _ _ s

theorem schedule_calm (slot : Nat) (o : Outlet) (s : State) : Calm s (schedule slot o s) := by
  unfold schedule; split
  · exact .refl s
  · simp only
    split
    · exact closingChecks_calm _ _ _ s
    · exact (closingChecks_calm _ _ _ s).trans (placeBag_calm _ _ _)

theorem behindCheck_calm (slot : Nat) (e : Pos) (len : Option Nat) (j : Diverter) (s : State) :
    Calm s (behindCheck slot e len j s) := by
  unfold behindCheck; split
  · split
    · exact .ite (markRisk_calm _ s) ((withdrawBag_calm _ _ s).trans (sendThrough_calm _ _ _ _))
    · exact .refl s
  · exact .refl s

/-- R109: a record rescheduled by a re-decision. -/
theorem reschedule_calm (slot : Nat) (old : Option Outlet) (m : Outlet) (s : State) : Calm s (reschedule slot old m s) := by
  unfold reschedule; split
  · exact .refl s
  · simp only
    rename_i b _
    have h : ∀ u, Calm u (allDiverters.foldl (fun acc j =>
        if passes acc b.entry m j && !passesFor acc b.entry old j then behindCheck slot b.entry b.length j acc else acc) u) :=
      fun u => .foldl (fun a j => .ite (behindCheck_calm _ _ _ _ a) (.refl a)) _ u
    have h2 := (withdrawEverywhere_calm slot s).trans ((closingChecks_calm slot b.entry m _).trans (h _))
    split
    · exact .refl s
    · split
      · exact h2
      · split
        · exact h2
        · exact h2.trans (.ite (sendThrough_calm _ _ _ _) (.ite (sendThrough_calm _ _ _ _) (placeBag_calm _ _ _)))

theorem bagLeft_calm (slot : Nat) (s : State) : Calm s (bagLeft slot s) := by
  refine .foldl (fun a k => ?_) _ s
  split
  · exact .refl a
  · split
    · exact (updateWindow_keeps _ _ _ a).trans (.ite (releaseWindow_calm _ _ _) (.refl _))
    · exact withdrawBag_calm _ _ a

theorem lengthKnown_calm (slot len : Nat) (s : State) : Calm s (lengthKnown slot len s) := by
  refine .foldl (fun a k => ?_) _ s
  split
  · exact .refl a
  · exact (updateWindow_keeps _ _ _ a).trans (.ite (setRelease_calm _ _ _) (.refl _))

/-! ## The Route Selector (R82 to R96) -/

theorem writeOutcome_fixed (oc : Outcome) (b : BagRecord) : (writeOutcome oc b).fixed = b.fixed := by
  unfold writeOutcome
  simp only
  split <;> rfl

theorem clearOwnStray_fixed (b : BagRecord) : (clearOwnStray b).fixed = b.fixed := by
  unfold clearOwnStray; split <;> rfl

theorem keepOutcome_fixed (s : State) (oc : Outcome) (b : BagRecord) : (keepOutcome s oc b).fixed = b.fixed := by
  unfold keepOutcome
  split
  · split <;> rfl
  · rfl

theorem countPass_fixed (s : State) (b : BagRecord) : (countPass s b).fixed = b.fixed := by
  unfold countPass; split <;> rfl

theorem strayOfOutcome_calm (oc : Outcome) (p : Option Outlet) (b : BagRecord) (s : State) :
    Calm s (strayOfOutcome oc p b s) := by
  unfold strayOfOutcome; split
  · exact .refl s
  · exact .ite (.refl s) (handStray_calm _ s)

theorem takeRedecision_calm (oc : Outcome) (b : BagRecord) (s : State) : Calm s (takeRedecision oc b s) := by
  unfold takeRedecision
  simp only
  refine (updateBag_calm b.slot (fun x => writeOutcome oc (clearOwnStray x)) s
    (fun x => (writeOutcome_fixed _ _).trans (clearOwnStray_fixed _))).trans ?_
  exact (strayOfOutcome_calm _ _ _ _).trans ((reschedule_calm _ _ _ _).trans (handChosen_calm _ _))

theorem refuseRedecision_calm (b : BagRecord) (s : State) : Calm s (refuseRedecision b s) := by
  unfold refuseRedecision
  simp only
  have h := updateBag_calm b.slot (fun x => { x with flags := { x.flags with overrideLate := true } }) s (fun _ => rfl)
  exact .ite h (h.trans (countEvent_calm _ _))

/-- R92 to R95: a re-decision. -/
theorem redecide_calm (slot : Nat) (s : State) : Calm s (redecide slot s) := by
  unfold redecide; split
  · exact .refl s
  · split
    · exact .ite (updateBag_calm _ _ s (keepOutcome_fixed s _)) (takeRedecision_calm _ _ s)
    · exact .ite (.refl s) (refuseRedecision_calm _ s)
    · exact .ite (.refl s) (refuseRedecision_calm _ s)
    all_goals exact .refl s

theorem redecideAll_calm (s : State) : Calm s (redecideAll s) := .foldl (fun a slot => redecide_calm slot a) _ s

/-- R90: the live records that an event has served, re-decided in queue order. -/
theorem redecideServed_calm (ls : List Live) (s : State) : Calm s (redecideServed ls s) :=
  .foldl (fun a slot => redecide_calm slot a) _ s

theorem recomputeReach_calm (s : State) : Calm s (recomputeReach s) := by
  unfold recomputeReach
  simp only
  exact .ite (.refl s) ((handReach_calm _ _).after rfl rfl rfl rfl)

/-- R79: what a route table change does once its fields are written. -/
theorem routeChanged_calm (s : State) : Calm s (routeChanged s) :=
  (refreshGates_calm s).trans ((recomputeReach_calm _).trans (redecideAll_calm _))

theorem peerGaveUp_calm (st : Byte) (s : State) : Calm s (peerGaveUp st s) := by
  unfold peerGaveUp
  simp only
  have h := updatePeer_calm st (fun p => { p with giveUps := min Config.giveUpLimit (p.giveUps + 1) }) s
  exact .ite (h.trans ((updatePeer_calm _ _ _).trans (routeChanged_calm _))) h

/-! ## Queries and handoffs as the reports of unsent frames reach them (R69, R120, R122) -/

theorem failLive_calm (l : Live) (s : State) : Calm s (failLive l s) := (setStatus_calm _ _ s).trans (countEvent_calm _ _)

theorem sendQuery_calm (p : Nat) (s : State) : Calm s (sendQuery p s) := offer_calm _ _ s

/-- A change of the query table alone. -/
theorem setQueries_calm (qs : List QueryEntry) (s : State) (h : QueryLaw s.queries → QueryLaw qs) :
    Calm s { s with queries := qs } := ⟨rfl, le_rfl, fun _ => rfl, id, id, id, h, id, rfl, rfl, id, .refl _⟩

theorem map_plate_update (p : Nat) (f : QueryEntry → QueryEntry) (l : List QueryEntry) (h : ∀ q, (f q).plate = q.plate) :
    (l.map (fun q => if q.plate = p then f q else q)).map QueryEntry.plate = l.map QueryEntry.plate := by
  rw [List.map_map]
  refine List.map_congr_left (fun q _ => ?_)
  simp only [Function.comp]
  split
  · exact h q
  · rfl

/-- A change of the entry for a plate that keeps its plate and leaves it one to four waiters. -/
theorem updateQuery_calm (p : Nat) (f : QueryEntry → QueryEntry) (s : State) (hp : ∀ q, (f q).plate = q.plate := by intros; rfl)
    (hw : QueryLaw s.queries → ∀ q ∈ s.queries, q.plate = p →
      1 ≤ (f q).waiters.length ∧ (f q).waiters.length ≤ Config.queryWaiters) : Calm s (updateQuery p f s) := by
  refine setQueries_calm _ s (fun h => ⟨by simpa using h.bounded, by rw [map_plate_update _ _ _ hp]; exact h.plates, ?_⟩)
  simp only [List.mem_map, forall_exists_index, and_imp]
  rintro _ q hq rfl
  split
  · exact hw h q hq (by assumption)
  · exact h.waiters q hq

/-- Part of the entries of a query table. -/
theorem QueryLaw.filter {qs : List QueryEntry} (h : QueryLaw qs) (test : QueryEntry → Bool) : QueryLaw (qs.filter test) :=
  ⟨(List.length_filter_le _ _).trans h.bounded, h.plates.sublist (List.filter_sublist.map _),
   fun q hq => h.waiters q (List.mem_of_mem_filter hq)⟩

theorem retireQuery_calm (p : Nat) (s : State) : Calm s (retireQuery p s) := setQueries_calm _ s (fun h => h.filter _)

/-- R65: a live record leaves every waiter list. -/
theorem leaveWaiters_calm (l : Live) (s : State) : Calm s (leaveWaiters l s) := by
  refine setQueries_calm _ s (fun h => ?_)
  let f : QueryEntry → QueryEntry := fun q => { q with waiters := q.waiters.filter (fun w => decide (w ≠ l)) }
  have hm : (s.queries.map f).map QueryEntry.plate = s.queries.map QueryEntry.plate := by rw [List.map_map]; rfl
  refine ⟨(List.length_filter_le _ _).trans (by simpa using h.bounded), ?_, fun q hq => ?_⟩
  · exact (by rw [hm]; exact h.plates : ((s.queries.map f).map QueryEntry.plate).Nodup).sublist (List.filter_sublist.map _)
  · obtain ⟨h1, h2⟩ := List.mem_filter.mp hq
    obtain ⟨x, hx, rfl⟩ := List.mem_map.mp h1
    refine ⟨?_, (List.length_filter_le _ _).trans (h.waiters x hx).2⟩
    rw [Nat.one_le_iff_ne_zero]
    intro h0
    rw [List.length_eq_zero_iff.mp h0] at h2
    simp at h2

theorem takeWaiterPlace_calm (a b : Live) (s : State) : Calm s (takeWaiterPlace a b s) := by
  refine setQueries_calm _ s (fun h => ⟨by simpa using h.bounded, by rw [List.map_map]; exact h.plates, ?_⟩)
  simp only [List.mem_map, forall_exists_index, and_imp]
  rintro _ q hq rfl
  simpa using h.waiters q hq

theorem failQuery_calm (p : Nat) (s : State) : Calm s (failQuery p s) := by
  unfold failQuery; split
  · exact .refl s
  · exact (retireQuery_calm p s).trans (.foldl (fun a l => failLive_calm l a) _ _)

theorem attemptEnds_calm (p : Nat) (s : State) : Calm s (attemptEnds p s) := by
  unfold attemptEnds; split
  · exact .refl s
  · have h1 := updateQuery_calm p (fun q => { q with attempts := 2, deadline := s.time + Config.queryDeadline }) s
      (fun _ => rfl) (fun h q hq _ => h.waiters q hq)
    exact .ite (h1.trans (sendQuery_calm _ _)) (failQuery_calm _ s)

/-- R68: the deadline of a query passes. -/
theorem deadlinePasses_calm (p : Nat) (s : State) : Calm s (deadlinePasses p s) :=
  .ite (failQuery_calm _ s) (attemptEnds_calm _ s)

theorem queryFor_none {p : Nat} {s : State} (h : queryFor p s = none) : p ∉ s.queries.map QueryEntry.plate := by
  intro hm
  obtain ⟨q, hq, rfl⟩ := List.mem_map.mp hm
  simpa using List.find?_eq_none.mp h q hq

/-- R61: a miss. -/
theorem queryMiss_calm (l : Live) (p : Nat) (s : State) : Calm s (queryMiss l p s) := by
  unfold queryMiss; split
  · rename_i q hq
    split
    · rename_i hl
      refine (updateQuery_calm p (fun q => { q with waiters := q.waiters ++ [l] }) s (fun _ => rfl)
        (fun h x hx hp => ?_)).trans (setStatus_calm _ _ _)
      have hq' : q.plate = p := by simpa using List.find?_some hq
      have : x = q := List.inj_on_of_nodup_map h.plates hx (List.mem_of_find?_eq_some hq) (hp.trans hq'.symm)
      subst this
      simp only [List.length_append, List.length_singleton]
      omega
    · exact failLive_calm _ s
  · rename_i hq
    refine .ite (failLive_calm _ s) ?_
    split
    · rename_i hl
      have h1 := setQueries_calm (s.queries ++ [⟨p, 1, s.time + Config.queryDeadline, [l]⟩]) s (fun h => by
        refine ⟨by simpa using hl, ?_, ?_⟩
        · rw [List.map_append, List.nodup_append]
          exact ⟨h.plates, by simp, by
            intro a ha b hb he
            simp only [List.map_cons, List.map_nil, List.mem_singleton] at hb
            exact queryFor_none hq (by rw [← hb, ← he]; exact ha)⟩
        · intro q hm
          rcases List.mem_append.mp hm with hm | hm
          · exact h.waiters q hm
          · rw [List.mem_singleton.mp hm]
            simp [Config.queryWaiters])
      exact h1.trans ((setStatus_calm _ _ _).trans (sendQuery_calm _ _))
    · exact failLive_calm _ s

/-- R122: a handoff has given up. -/
theorem countGiveUp_calm (peer : Byte) (s : State) : Calm s (countGiveUp peer s) :=
  ((countEvent_calm _ _).trans (peerGaveUp_calm _ _)).after rfl rfl rfl rfl

theorem attemptUnanswered_calm (peer id : Byte) (s : State) : Calm s (attemptUnanswered peer id s) := by
  unfold attemptUnanswered; split
  · exact .refl s
  · split
    · exact .ite (updateDeparture_calm _ _ _ s (by exact fun _ => rfl))
        ((updateDeparture_calm _ _ _ s (by exact fun _ => rfl)).trans (countGiveUp_calm _ _))
    · exact .refl s

theorem makeAttempt_calm (peer id : Byte) (s : State) : Calm s (makeAttempt peer id s) := by
  unfold makeAttempt; split
  · exact .refl s
  · split
    · exact .refl s
    · exact (updateDeparture_calm _ _ _ s (by exact fun _ => rfl)).trans (offerFrame_calm _ _)

theorem retryDelayOut_calm (peer id : Byte) (s : State) : Calm s (retryDelayOut peer id s) := by
  unfold retryDelayOut; split
  · exact makeAttempt_calm _ _ s
  · exact .refl s

theorem handoffUnsent_calm (peer id : Byte) (n : Nat) (s : State) : Calm s (handoffUnsent peer id n s) := by
  unfold handoffUnsent; split
  · exact .refl s
  · exact .ite (attemptUnanswered_calm _ _ s) (.refl s)

theorem acceptTaken_calm (peer id : Byte) (s : State) : Calm s (acceptTaken peer id s) := by
  unfold acceptTaken; split
  · exact .refl s
  · exact (updateDeparture_calm _ _ _ s (by exact fun _ => rfl)).trans (updatePeer_calm _ _ _)

theorem takeReport_calm (r : Report) (s : State) : Calm s (takeReport r s) := by
  unfold takeReport; split
  · exact handoffUnsent_calm _ _ _ s
  · exact attemptEnds_calm _ s
  · exact .ite (offer_calm _ _ s) (.refl s)
  · exact .ite (offer_calm _ _ s) (.refl s)

/-- R177: the reports owed in an event are taken by their owners. -/
theorem drainReports_calm (n : Nat) (s : State) : Calm s (drainReports n s) := by
  induction n generalizing s with
  | zero => exact .plain rfl rfl rfl rfl
  | succ n ih =>
    unfold drainReports; split
    · exact .refl s
    · exact ((takeReport_calm _ _).trans (ih _)).after rfl rfl rfl rfl

/-- R177: the reports that an event delivers are taken by their owners. -/
theorem deliverEach_calm (n : Nat) (s : State) : Calm s (deliverEach n s) := by
  induction n generalizing s with
  | zero => exact ⟨rfl, le_rfl, fun _ => rfl, id, id, id, id, id, rfl, rfl, id, .refl _⟩
  | succ n ih =>
    unfold deliverEach; split
    · exact .refl s
    · rename_i r rest _
      refine Calm.trans (t := { s with bus := { s.bus with due := rest } })
        ⟨rfl, le_rfl, fun _ => rfl, id, id, id, id, id, rfl, rfl, id, .refl _⟩ ?_
      exact (takeReport_calm r _).trans ((drainReports_calm _ _).trans (ih _))

theorem deliverPending_calm (s : State) : Calm s (deliverPending s) := deliverEach_calm _ s

theorem drivePins_calm (s : State) : Calm s (drivePins s) := .plain rfl rfl rfl rfl

/-- How an event ends. -/
theorem settle_calm (s : State) : Calm s (settle s) := (drainReports_calm _ s).trans (drivePins_calm _)

end Sys2Proof.Machine
end

