-- ==== Sys2Proof/Laws/Lawful.lean ====
section
/-! SUPPORT. What every other operation of the blocks keeps: one lemma per operation. `Lawful`: it leaves the commands, the
time, the lines, the Loader, D, the late set and the epoch as they were, does not raise the reference, adds no registration that D
has reached, and keeps the laws of Safety.lean. `Level`: no record and no expected entry joins or leaves, and the occupancy stands. -/

namespace Sys2Proof.Machine

/-- What an operation keeps but for the laws of the segment queue, the occupancy and the hold value. -/
structure Inner (s t : State) : Prop where
  pending : t.pending = s.pending
  inReset : t.inReset = s.inReset
  time : t.time = s.time
  loader : t.loader = s.loader
  lines : t.lines = s.lines
  d : t.belt.d = s.belt.d
  late : t.routes.late = s.routes.late
  epoch : t.cache.epoch = s.cache.epoch
  reference : t.drive.r ≤ s.drive.r
  drive : DriveLaw s.drive → DriveLaw t.drive
  queue : QueueLaw s.bus → QueueLaw t.bus
  lists : ListLaw s.exc → ListLaw t.exc
  estop : EstopLaw s → EstopLaw t
  ranks : RankLaw s.cache → RankLaw t.cache
  expected : ExpectedLaw s.handoff → ExpectedLaw t.handoff
  queries : QueryLaw s.queries → QueryLaw t.queries
  windows : WindowLaw s → WindowLaw t
  history : HistoryLaw s.tracker → HistoryLaw t.tracker
  speed : SpeedLaw s.belt → SpeedLaw t.belt
  pairs : PairLaw s.handoff → PairLaw t.handoff
  due : (dueRegister t).Sublist (dueRegister s)

/-- What a lawful operation keeps. -/
structure Lawful (s t : State) : Prop extends Inner s t where
  segment : SegmentLaw s.tracker → SegmentLaw t.tracker
  hold : HoldLaw s → HoldLaw t
  quiet : QuietLaw s → QuietLaw t
  occupancy : OccupancyLaw s → OccupancyLaw t

/-- What an operation keeps that neither makes nor removes a record or an expected entry. -/
structure Level (s t : State) : Prop extends Inner s t where
  slots : segmentSlots t = segmentSlots s
  entered : t.tracker.entered = s.tracker.entered
  departed : t.tracker.departed = s.tracker.departed
  lost : t.tracker.lost = s.tracker.lost
  occupancy : t.flow.occupancy = s.flow.occupancy
  demand : t.flow.demand = s.flow.demand
  entries : t.handoff.expected.length = s.handoff.expected.length
  hold : HoldLaw s → HoldLaw t

theorem Inner.refl (s : State) : Inner s s :=
  ⟨rfl, rfl, rfl, rfl, rfl, rfl, rfl, rfl, le_rfl, id, id, id, id, id, id, id, id, id, id, id, .refl _⟩

theorem Lawful.refl (s : State) : Lawful s s := ⟨.refl s, id, id, id, id⟩

theorem Level.refl (s : State) : Level s s := ⟨.refl s, rfl, rfl, rfl, rfl, rfl, rfl, rfl, id⟩

theorem Inner.trans {s t u : State} (h : Inner s t) (k : Inner t u) : Inner s u :=
  ⟨k.pending.trans h.pending, k.inReset.trans h.inReset, k.time.trans h.time, k.loader.trans h.loader,
   k.lines.trans h.lines, k.d.trans h.d, k.late.trans h.late, k.epoch.trans h.epoch, k.reference.trans h.reference,
   k.drive ∘ h.drive, k.queue ∘ h.queue, k.lists ∘ h.lists, k.estop ∘ h.estop, k.ranks ∘ h.ranks, k.expected ∘ h.expected,
   k.queries ∘ h.queries, k.windows ∘ h.windows, k.history ∘ h.history, k.speed ∘ h.speed, k.pairs ∘ h.pairs, k.due.trans h.due⟩

theorem Lawful.trans {s t u : State} (h : Lawful s t) (k : Lawful t u) : Lawful s u :=
  ⟨h.toInner.trans k.toInner, k.segment ∘ h.segment, k.hold ∘ h.hold, k.quiet ∘ h.quiet, k.occupancy ∘ h.occupancy⟩

theorem Level.trans {s t u : State} (h : Level s t) (k : Level t u) : Level s u :=
  ⟨h.toInner.trans k.toInner, k.slots.trans h.slots, k.entered.trans h.entered, k.departed.trans h.departed,
   k.lost.trans h.lost, k.occupancy.trans h.occupancy, k.demand.trans h.demand, k.entries.trans h.entries, k.hold ∘ h.hold⟩

theorem Lawful.foldl {α : Type} {f : State → α → State} (h : ∀ a x, Lawful a (f a x)) (l : List α) (s : State) :
    Lawful s (l.foldl f s) := by
  induction l generalizing s with
  | nil => exact .refl s
  | cons x l ih => exact (h s x).trans (ih _)

theorem Level.foldl {α : Type} {f : State → α → State} (h : ∀ a x, Level a (f a x)) (l : List α) (s : State) :
    Level s (l.foldl f s) := by
  induction l generalizing s with
  | nil => exact .refl s
  | cons x l ih => exact (h s x).trans (ih _)

theorem Lawful.ite {s t u : State} {p : Prop} [Decidable p] (ht : Lawful s t) (hu : Lawful s u) :
    Lawful s (if p then t else u) := by
  split
  · exact ht
  · exact hu

theorem Level.ite {s t u : State} {p : Prop} [Decidable p] (ht : Level s t) (hu : Level s u) :
    Level s (if p then t else u) := by
  split
  · exact ht
  · exact hu

theorem Lawful.iteElse {s t u : State} {p : Prop} [Decidable p] (h : Lawful s t) (k : Lawful t u) :
    Lawful s (if p then t else u) := .ite h (h.trans k)

theorem Lawful.iteThen {s t u : State} {p : Prop} [Decidable p] (h : Lawful s t) (k : Lawful t u) :
    Lawful s (if p then u else t) := .ite (h.trans k) h

theorem Level.iteElse {s t u : State} {p : Prop} [Decidable p] (h : Level s t) (k : Level t u) :
    Level s (if p then t else u) := .ite h (h.trans k)

theorem Level.iteThen {s t u : State} {p : Prop} [Decidable p] (h : Level s t) (k : Level t u) :
    Level s (if p then u else t) := .ite (h.trans k) h

/-! ## The law of the segment queue -/

theorem SegmentLaw.congr {a b : Tracker} (h : SegmentLaw a) (hs : b.segment.map BagRecord.slot = a.segment.map BagRecord.slot)
    (he : b.entered = a.entered) (hd : b.departed = a.departed) (hl : b.lost = a.lost) : SegmentLaw b := by
  have hn : b.segment.length = a.segment.length := by simpa using congrArg List.length hs
  exact ⟨hs ▸ h.distinct, hn ▸ h.bounded, by rw [he, hd, hl, hn]; exact h.balance⟩

/-- An operation that leaves the slots of the queue and its three counts, the number of expected entries, the occupancy and
its demand as they were. -/
theorem Inner.level {s t : State} (h : Inner s t) (hs : segmentSlots t = segmentSlots s)
    (he : t.tracker.entered = s.tracker.entered) (hd : t.tracker.departed = s.tracker.departed)
    (hl : t.tracker.lost = s.tracker.lost) (ho : t.flow.occupancy = s.flow.occupancy := by rfl)
    (hm : t.flow.demand = s.flow.demand := by rfl)
    (hn : t.handoff.expected.length = s.handoff.expected.length := by rfl) (hh : HoldLaw s → HoldLaw t := by exact id) :
    Level s t := ⟨h, hs, he, hd, hl, ho, hm, hn, hh⟩

theorem Level.segment_length {s t : State} (h : Level s t) : t.tracker.segment.length = s.tracker.segment.length := by
  simpa [segmentSlots] using congrArg List.length h.slots

/-- The law of R141 while `k` of the records and entries are not yet counted. -/
structure Uncounted (k : Nat) (s : State) : Prop where
  segment : SegmentLaw s.tracker
  pairs : PairLaw s.handoff
  sources : SourceLaw s
  occupancy : s.flow.occupancy + k = s.tracker.segment.length + s.handoff.expected.length

theorem uncounted_zero {s : State} : Uncounted 0 s ↔ OccupancyLaw s :=
  ⟨fun h => ⟨h.segment, h.pairs, h.sources, h.occupancy⟩, fun h => ⟨h.segment, h.pairs, h.sources, h.occupancy⟩⟩

theorem Inner.sources {s t : State} (h : Inner s t) (k : SourceLaw s) : SourceLaw t := by
  rw [SourceLaw, cfg, h.loader]
  exact k

theorem Level.segmentLaw {s t : State} (h : Level s t) (k : SegmentLaw s.tracker) : SegmentLaw t.tracker :=
  k.congr h.slots h.entered h.departed h.lost

theorem Level.uncounted {s t : State} (h : Level s t) {k : Nat} (u : Uncounted k s) : Uncounted k t :=
  ⟨h.segmentLaw u.segment, h.pairs u.pairs, h.sources u.sources, by
    rw [h.occupancy, h.segment_length, h.entries]
    exact u.occupancy⟩

/-- A level operation is lawful. -/
theorem Level.lawful {s t : State} (h : Level s t) : Lawful s t where
  toInner := h.toInner
  segment := h.segmentLaw
  hold := h.hold
  quiet := fun k hn => by
    rw [h.loader] at hn
    obtain ⟨h1, h2, h3⟩ := k hn
    refine ⟨List.length_eq_zero_iff.mp ?_, List.length_eq_zero_iff.mp ?_, h.demand.trans h3⟩
    · rw [h.segment_length, h1]; rfl
    · rw [h.entries, h2]; rfl
  occupancy := fun k => uncounted_zero.mp (h.uncounted (uncounted_zero.mpr k))

/-- A calm operation leaves the pairs of the expected list as they were. -/
theorem Calm.entry_pairs {s t : State} (h : Calm s t) :
    t.handoff.expected.map (fun e => (e.source, e.id)) = s.handoff.expected.map (fun e => (e.source, e.id)) := by
  have := congrArg (List.map (fun e : ExpectedEntry => (e.source, e.id))) h.expected
  simpa [List.map_map, Function.comp_def, ExpectedEntry.fixed] using this

theorem Calm.inner {s t : State} (h : Calm s t) : Inner s t where
  pending := h.pending
  inReset := h.inReset
  time := h.time
  loader := h.loader
  lines := h.lines
  d := h.d
  late := h.late
  epoch := by rw [h.cache]
  reference := h.reference
  drive := h.drive
  queue := h.queue
  lists := h.lists
  estop := fun k => by rw [EstopLaw, h.estop, h.holdOff, h.restartArmed]; exact k
  ranks := by rw [h.cache]; exact id
  expected := by rw [ExpectedLaw, ExpectedLaw, h.expected_length]; exact id
  queries := h.queries
  windows := h.windows
  history := by rw [HistoryLaw, HistoryLaw, h.history_length]; exact id
  speed := by rw [SpeedLaw, SpeedLaw, h.v]; exact id
  pairs := by rw [PairLaw, PairLaw, h.entry_pairs]; exact id
  due := h.due

/-- A calm operation is level. -/
theorem Calm.level {s t : State} (h : Calm s t) : Level s t :=
  h.inner.level h.slots h.entered h.departed h.lost h.occupancy h.demand h.expected_length h.hold

theorem Calm.lawful {s t : State} (h : Calm s t) : Lawful s t := h.level.lawful

/-! ## Plain updates -/

theorem map_slot_update (l : List BagRecord) (slot : Nat) (f : BagRecord → BagRecord) (h : ∀ b, b.slot = slot → (f b).slot = b.slot) :
    (l.map (fun b => if b.slot = slot then f b else b)).map BagRecord.slot = l.map BagRecord.slot := by
  rw [List.map_map]
  refine List.map_congr_left (fun b _ => ?_)
  simp only [Function.comp]
  split
  · exact h b (by assumption)
  · rfl

theorem segmentSlots_updateBag (slot : Nat) (f : BagRecord → BagRecord) (s : State) (h : ∀ b, b.slot = slot → (f b).slot = b.slot) :
    segmentSlots (updateBag slot f s) = segmentSlots s := map_slot_update _ _ _ h

theorem updateBag_level (slot : Nat) (f : BagRecord → BagRecord) (s : State) (h : ∀ b, b.slot = slot → (f b).slot = b.slot) :
    Level s (updateBag slot f s) :=
  Inner.level ⟨rfl, rfl, rfl, rfl, rfl, rfl, rfl, rfl, le_rfl, id, id, id, id, id, id, id, id, id, id, id, .refl _⟩ (segmentSlots_updateBag slot f s h) rfl rfl rfl

/-- A change of an expected entry that keeps its pair. -/
theorem updateEntry_level (source id : Byte) (f : ExpectedEntry → ExpectedEntry) (s : State)
    (hf : ∀ e, (f e).source = e.source ∧ (f e).id = e.id) : Level s (updateEntry source id f s) := by
  refine Inner.level ⟨rfl, rfl, rfl, rfl, rfl, rfl, rfl, rfl, le_rfl, fun x => x, fun x => x, fun x => x, fun x => x,
    fun x => x, fun h => by simpa [ExpectedLaw] using h, fun x => x, fun x => x, fun x => x, fun x => x, fun h => ?_, .refl _⟩
    rfl rfl rfl rfl (hn := by simp) (hh := fun x => x)
  have : (s.handoff.expected.map (fun e => if e.source = source ∧ e.id = id then f e else e)).map
      (fun e => (e.source, e.id)) = s.handoff.expected.map (fun e => (e.source, e.id)) := by
    rw [List.map_map]
    refine List.map_congr_left (fun e _ => ?_)
    simp only [Function.comp]
    split
    · rw [(hf e).1, (hf e).2]
    · rfl
  rw [PairLaw, updateEntry_handoff, this]
  exact h

theorem onReader_level (f : ReaderLink → ReaderLink) (s : State) : Level s (onReader f s) :=
  Inner.level ⟨rfl, rfl, rfl, rfl, rfl, rfl, rfl, rfl, le_rfl, id, id, id, id, id, id, id, id, id, id, id, .refl _⟩ rfl rfl rfl rfl

theorem updateRow_level (o : Outlet) (f : RouteRow → RouteRow) (s : State) : Level s (updateRow o f s) :=
  Inner.level ⟨rfl, rfl, rfl, rfl, rfl, rfl, rfl, rfl, le_rfl, id, id, id, id, id, id, id, id, id, id, id, .refl _⟩ rfl rfl rfl rfl

theorem updateEye_level (e : Eye) (f : EyeState → EyeState) (s : State) : Level s (updateEye e f s) :=
  Inner.level ⟨rfl, rfl, rfl, rfl, rfl, rfl, rfl, rfl, le_rfl, id, id, id, id, id, id, id, id, id, id, id, .refl _⟩ rfl rfl rfl rfl

/-- R3: an offered position is either reported or held. -/
theorem offerPosition_level (i : Item) (p : Pos) (report : State → State) (s : State) (h : ∀ t, Level t (report t)) :
    Level s (offerPosition i p report s) := by
  unfold offerPosition
  split
  · exact (withdraw_calm i s).level.trans (h _)
  · rename_i hr
    exact ((withdraw_calm i s).trans (holdPosition_calm i p _ (Bool.eq_false_iff.mpr hr))).level

theorem offerPosition_lawful (i : Item) (p : Pos) (report : State → State) (s : State) (h : ∀ t, Lawful t (report t)) :
    Lawful s (offerPosition i p report s) := by
  unfold offerPosition
  split
  · exact (withdraw_calm i s).lawful.trans (h _)
  · rename_i hr
    exact ((withdraw_calm i s).trans (holdPosition_calm i p _ (Bool.eq_false_iff.mpr hr))).lawful

theorem offerPosition_inner (i : Item) (p : Pos) (report : State → State) (s : State) (h : ∀ t, Inner t (report t)) :
    Inner s (offerPosition i p report s) := by
  unfold offerPosition
  split
  · exact (withdraw_calm i s).inner.trans (h _)
  · rename_i hr
    exact ((withdraw_calm i s).trans (holdPosition_calm i p _ (Bool.eq_false_iff.mpr hr))).inner

/-- A change of the cache that keeps the epoch and the ranks. -/
theorem setCache_level (s : State) (c : RouteCache) (he : c.epoch = s.cache.epoch) (hr : RankLaw s.cache → RankLaw c) :
    Level s { s with cache := c } :=
  Inner.level ⟨rfl, rfl, rfl, rfl, rfl, rfl, rfl, he, le_rfl, id, id, id, id, hr, id, id, id, id, id, id, .refl _⟩ rfl rfl rfl rfl

/-! ## Ranks (R58, R59, R63) -/

/-- R59, Touch, on the ranks alone. -/
def touchRanks (i : Nat) (rs : List Nat) : List Nat :=
  match rs[i]? with
  | none => rs
  | some r => rs.mapIdx (fun j x => if j = i then 0 else if x < r then x + 1 else x)

/-- R59, Empty, on the ranks alone. -/
def emptyRanks (i : Nat) (rs : List Nat) : List Nat :=
  match rs[i]? with
  | none => rs
  | some r => rs.mapIdx (fun j x => if j = i then 3 else if r < x then x - 1 else x)

theorem touch_ranks (i : Nat) (w : List Way) : (touch i w).map Way.rank = touchRanks i (w.map Way.rank) := by
  unfold touch touchRanks
  rw [List.getElem?_map]
  cases w[i]? with
  | none => rfl
  | some x =>
    simp only [Option.map_some]
    refine List.ext_getElem (by simp) (fun j h1 h2 => ?_)
    simp only [List.getElem_map, List.getElem_mapIdx]
    split
    · rfl
    · split <;> rfl

theorem emptyWay_ranks (i : Nat) (w : List Way) : (emptyWay i w).map Way.rank = emptyRanks i (w.map Way.rank) := by
  unfold emptyWay emptyRanks
  rw [List.getElem?_map]
  cases w[i]? with
  | none => rfl
  | some x =>
    simp only [Option.map_some]
    refine List.ext_getElem (by simp) (fun j h1 h2 => ?_)
    simp only [List.getElem_map, List.getElem_mapIdx]
    split
    · rfl
    · split <;> rfl

theorem touchRanks_small : ∀ rs ∈ List.permutations' [0, 1, 2, 3], ∀ i < 4, (touchRanks i rs).Perm [0, 1, 2, 3] := by decide

theorem emptyRanks_small : ∀ rs ∈ List.permutations' [0, 1, 2, 3], ∀ i < 4, (emptyRanks i rs).Perm [0, 1, 2, 3] := by decide

/-- R59: a touch keeps the ranks a permutation. -/
theorem touch_perm (i : Nat) (w : List Way) (h : (w.map Way.rank).Perm [0, 1, 2, 3]) :
    ((touch i w).map Way.rank).Perm [0, 1, 2, 3] := by
  rw [touch_ranks]
  by_cases hi : i < 4
  · exact touchRanks_small _ (List.mem_permutations'.mpr h) i hi
  · have : (w.map Way.rank)[i]? = none := by rw [List.getElem?_eq_none_iff, h.length_eq]; simpa using hi
    simpa [touchRanks, this] using h

/-- R59: emptying a way keeps the ranks a permutation. -/
theorem emptyWay_perm (i : Nat) (w : List Way) (h : (w.map Way.rank).Perm [0, 1, 2, 3]) :
    ((emptyWay i w).map Way.rank).Perm [0, 1, 2, 3] := by
  rw [emptyWay_ranks]
  by_cases hi : i < 4
  · exact emptyRanks_small _ (List.mem_permutations'.mpr h) i hi
  · have : (w.map Way.rank)[i]? = none := by rw [List.getElem?_eq_none_iff, h.length_eq]; simpa using hi
    simpa [emptyRanks, this] using h

theorem writeWay_perm (i : Nat) (e : CacheEntry) (w : List Way) (h : (w.map Way.rank).Perm [0, 1, 2, 3]) :
    ((writeWay i e w).map Way.rank).Perm [0, 1, 2, 3] := by
  refine touch_perm i _ ?_
  have : (w.modify i (fun x => { x with entry := some e })).map Way.rank = w.map Way.rank := by
    refine List.ext_getElem (by simp) (fun j h1 h2 => ?_)
    simp only [List.getElem_map, List.getElem_modify]
    split <;> rfl
  rw [this]
  exact h

/-- R63: an installation keeps the ranks a permutation. -/
theorem installInSet_perm (ep : Byte) (e : CacheEntry) (w : List Way) (h : (w.map Way.rank).Perm [0, 1, 2, 3]) :
    ((installInSet ep e w).map Way.rank).Perm [0, 1, 2, 3] := by
  unfold installInSet
  split
  · split
    · split
      · exact writeWay_perm _ _ _ h
      · exact h
    · exact h
  · split
    · exact writeWay_perm _ _ _ h
    · exact h

/-- R76: sweeping a set keeps the ranks a permutation. -/
theorem sweepSet_perm (ep : Byte) (w : List Way) (h : (w.map Way.rank).Perm [0, 1, 2, 3]) :
    ((sweepSet ep w).map Way.rank).Perm [0, 1, 2, 3] := by
  unfold sweepSet
  generalize List.range w.length = l
  induction l generalizing w with
  | nil => exact h
  | cons i l ih =>
    simp only [List.foldl_cons]
    split
    · exact ih _ (emptyWay_perm i w h)
    · exact ih w h

theorem getSet_perm (s : State) (i : Nat) (h : RankLaw s.cache) : ((getSet s i).map Way.rank).Perm [0, 1, 2, 3] := by
  unfold getSet
  rw [List.getD_eq_getElem?_getD]
  rcases hi : s.cache.sets[i]? with _ | w
  · decide
  · exact h w (List.mem_of_getElem? hi)

/-- A set written with ranks that are a permutation. -/
theorem putSet_level (i : Nat) (w : List Way) (s : State)
    (h : RankLaw s.cache → (w.map Way.rank).Perm [0, 1, 2, 3]) : Level s (putSet i w s) := by
  refine setCache_level s _ rfl (fun hr x hx => ?_)
  rcases List.mem_or_eq_of_mem_set hx with hx | rfl
  · exact hr x hx
  · exact h hr

/-! ## The Route Cache and the Query Table -/

theorem considerOffer_level (e : CacheEntry) (r : Bool) (s : State) : Level s (considerOffer e r s) := by
  unfold considerOffer; split
  · exact putSet_level _ _ s (fun h => installInSet_perm _ _ _ (getSet_perm s _ h))
  · exact .refl s

theorem copyPart_level (l : Live) (p : ManifestPart) (s : State) : Level s (copyPart l p s) := by
  cases l
  · exact updateBag_level _ _ s (by exact fun _ _ => rfl)
  · exact updateEntry_level _ _ _ s (fun _ => ⟨rfl, rfl⟩)

/-- R60: a lookup. -/
theorem lookup_level (l : Live) (s : State) : Level s (lookup l s) := by
  unfold lookup; split
  · exact .refl s
  · split
    · split
      · simp only
        have h := setCache_level s { s.cache with hits := s.cache.hits + 1 } rfl id
        exact h.trans ((putSet_level _ _ _ (fun k => touch_perm _ _ (getSet_perm _ _ k))).trans
          ((copyPart_level _ _ _).trans (redecideServed_calm _ _).level))
      · have h := setCache_level s { s.cache with misses := s.cache.misses + 1 } rfl id
        exact h.trans (queryMiss_calm _ _ _).level
    · exact .refl s

theorem serveLives_level (p : ManifestPart) (ls : List Live) (s : State) : Level s (serveLives p ls s) :=
  .foldl (fun a l => copyPart_level l p a) _ s

/-- R66: an entry served. -/
theorem serveQuery_level (pl : Nat) (p : ManifestPart) (s : State) : Level s (serveQuery pl p s) :=
  (retireQuery_calm pl s).level.trans (serveLives_level _ _ _)

/-- R70: an ANSWER of kind found. -/
theorem answerFound_level (pl : Nat) (p : ManifestPart) (e : Byte) (s : State) : Level s (answerFound pl p e s) :=
  (serveQuery_level pl p s).trans ((serveLives_level _ _ _).trans
    ((redecideServed_calm _ _).level.trans (considerOffer_level _ _ _)))

/-- R71: the offer of a HANDOFF's part. -/
theorem handoffOffer_level (pl : Nat) (p : ManifestPart) (r : Bool) (s : State) : Level s (handoffOffer pl p r s) := by
  unfold handoffOffer; split
  · exact .refl s
  · exact (serveQuery_level pl p s).trans (considerOffer_level _ _ _)

/-- R72 to R74: an UPDATE. -/
theorem applyUpdate_level (pl : Nat) (p : ManifestPart) (e : Byte) (s : State) : Level s (applyUpdate pl p e s) :=
  (serveQuery_level pl p s).trans ((considerOffer_level _ _ _).trans
    ((serveLives_level _ _ _).trans (redecideServed_calm _ _).level))

theorem serveFromCache_level (pl : Nat) (s : State) : Level s (serveFromCache pl s) := by
  unfold serveFromCache; split
  · exact .refl s
  · exact serveQuery_level _ _ s

/-- R75: an EPOCH changes the epoch and is level else. -/
theorem newEpoch_level (e : Byte) (s : State) : Level { s with cache := { s.cache with epoch := e } } (newEpoch e s) := by
  unfold newEpoch
  simp only
  exact (Level.foldl (fun a p => serveFromCache_level p a) _ _).trans
    ((redecideServed_calm _ _).level.trans (setCache_level _ _ rfl id))

theorem walkStep_level (s : State) : Level s (walkStep s) := by
  unfold walkStep; split
  · exact .refl s
  · exact (putSet_level _ _ s (fun h => sweepSet_perm _ _ (getSet_perm s _ h))).trans (setCache_level _ _ rfl id)

/-! ## Reader Link and identity -/

theorem markDuplicate_level (l : Live) (s : State) : Level s (markDuplicate l s) := by
  cases l
  · exact updateBag_level _ _ s (by exact fun _ _ => rfl)
  · exact updateEntry_level _ _ _ s (fun _ => ⟨rfl, rfl⟩)

theorem duplicateCheck_level (l : Live) (s : State) : Level s (duplicateCheck l s) := by
  unfold duplicateCheck; split
  · exact .refl s
  · split
    · exact .refl s
    · refine .foldl (fun a l => ?_) _ s
      split
      · exact .refl a
      · split
        · exact markDuplicate_level _ a
        · exact .refl a

theorem lateStray_level (slot : Nat) (r : StrayReason) (s : State) : Level s (lateStray slot r s) := by
  unfold lateStray; split
  · exact .refl s
  · split
    · exact .refl s
    · exact (updateBag_level _ _ s (by exact fun _ _ => rfl)).trans (handStray_calm _ _).level

theorem resolveLate_level (slot : Nat) (r : ReadResult) (s : State) : Level s (resolveLate slot r s) := by
  unfold resolveLate; split
  · exact .refl s
  · split
    · exact .refl s
    · refine .ite ((updateBag_level _ _ s (by exact fun _ _ => rfl)).trans (duplicateCheck_level _ _)) (.ite ?_ ?_)
      · exact updateBag_level _ _ s (fun b _ => by split <;> rfl)
      · exact (updateBag_level _ _ s (by exact fun _ _ => rfl)).trans (lateStray_level _ _ _)
    · exact (updateBag_level _ _ s (by exact fun _ _ => rfl)).trans (lateStray_level _ _ _)

theorem timelyRecord_slot (r : ReadResult) (b : BagRecord) : (timelyRecord r b).slot = b.slot := by
  unfold timelyRecord; split
  · split <;> rfl
  · split
    · rfl
    · split <;> rfl
  · unfold asBefore; split <;> rfl

theorem resolveTimely_level (slot : Nat) (r : ReadResult) (s : State) : Level s (resolveTimely slot r s) :=
  (updateBag_level slot (timelyRecord r) s (fun b _ => timelyRecord_slot r b)).iteElse (duplicateCheck_level _ _)

theorem resolveAgain_level (slot : Nat) (s : State) : Level s (resolveAgain slot s) := by
  unfold resolveAgain; split
  · exact .refl s
  · split
    · exact .refl s
    · exact .ite (resolveLate_level _ _ s) (resolveTimely_level _ _ s)

theorem watchPlates_calm (slot : Nat) (l : List Nat) (s : State) : Calm s (watchPlates slot l s) :=
  .foldl (fun a p => watchCheck_calm p _ _ a) _ s

/-- R49: a read result delivered. -/
theorem deliver_level (slot : Nat) (r : ReadResult) (s : State) : Level s (deliver slot r s) := by
  unfold deliver; split
  · exact .refl s
  · simp only
    refine Level.iteElse ?_ (lookup_level _ _)
    refine Level.iteThen ?_ (countEvent_calm _ _).level
    refine Level.trans ?_ (watchPlates_calm _ _ _).level
    exact (updateBag_level _ _ s (by exact fun _ _ => rfl)).trans (.ite (resolveLate_level _ _ _) (resolveTimely_level _ _ _))

theorem readerReached_level (slot : Nat) (s : State) : Level s (readerReached slot s) :=
  .ite (deliver_level _ _ s) (.ite (onReader_level _ s) (.ite (onReader_level _ s) (deliver_level _ _ s)))

theorem checkDown_level (s : State) : Level s (checkDown s) := by
  unfold checkDown; split
  · exact (onReader_level _ s).trans (.foldl (fun a i => deliver_level i .noRead a) _ _)
  · exact .refl s

theorem readAnswered_level (slot : Option Nat) (r : ReadResult) (s : State) : Level s (readAnswered slot r s) := by
  unfold readAnswered
  simp only
  refine Level.trans ?_ (onReader_level _ _)
  split
  · exact onReader_level _ s
  · exact (onReader_level _ s).trans (deliver_level _ _ _)

theorem readMissed_level (slot : Option Nat) (s : State) : Level s (readMissed slot s) := by
  unfold readMissed
  simp only
  refine Level.trans ?_ ((checkDown_level _).trans (onReader_level _ _))
  split
  · exact onReader_level _ s
  · exact (onReader_level _ s).trans (deliver_level _ _ _)

/-! ## The occupancy (R141) -/

theorem atOccupancy_inner (n : Nat) (s : State) : Inner s (atOccupancy n s) :=
  ⟨rfl, rfl, rfl, rfl, rfl, rfl, rfl, rfl, le_rfl, id, id, id, id, id, id, id, id, id, id, id, .refl _⟩

theorem putOccupancy_inner (n : Nat) (s : State) : Inner s (putOccupancy n s) :=
  (atOccupancy_inner n s).trans (putOccupancy_calm n s).inner

/-- R141: the law once the occupancy has become a number. -/
theorem putOccupancy_uncounted (n k : Nat) (s : State) (hs : SegmentLaw s.tracker) (hp : PairLaw s.handoff)
    (hx : SourceLaw s) (h : n + k = s.tracker.segment.length + s.handoff.expected.length) : Uncounted k (putOccupancy n s) :=
  (putOccupancy_calm n s).level.uncounted ⟨hs, hp, hx, h⟩

theorem occupancyRise_uncounted {s : State} (h : Uncounted 1 s) : Uncounted 0 (occupancyRise s) :=
  putOccupancy_uncounted _ _ _ h.segment h.pairs h.sources (by have := h.occupancy; omega)

/-- R141: a record or an entry has left, which takes `s` to `u`, and the fall is handed on. -/
theorem occupancyFall_uncounted {s u : State} {k : Nat} (h : Inner s u)
    (hs : SegmentLaw s.tracker → SegmentLaw u.tracker) (ho : u.flow.occupancy = s.flow.occupancy)
    (hc : SegmentLaw s.tracker → PairLaw s.handoff →
      u.tracker.segment.length + u.handoff.expected.length + 1 = s.tracker.segment.length + s.handoff.expected.length)
    (hk : Uncounted k s) (h1 : 1 ≤ s.flow.occupancy) : Uncounted k (occupancyFall u) := by
  refine putOccupancy_uncounted _ _ _ (hs hk.segment) (h.pairs hk.pairs) (h.sources hk.sources) ?_
  have := hc hk.segment hk.pairs
  have := hk.occupancy
  rw [ho]
  omega

/-- R141: the leaving of a record or an entry that stood there, with its fall of occupancy, is lawful. -/
theorem occupancyFall_lawful {s u : State} (h : Inner s u) (hs : SegmentLaw s.tracker → SegmentLaw u.tracker)
    (ho : u.flow.occupancy = s.flow.occupancy)
    (hc : SegmentLaw s.tracker → PairLaw s.handoff →
      u.tracker.segment.length + u.handoff.expected.length + 1 = s.tracker.segment.length + s.handoff.expected.length)
    (hne : s.tracker.segment ≠ [] ∨ s.handoff.expected ≠ []) : Lawful s (occupancyFall u) where
  toInner := h.trans (putOccupancy_inner _ _)
  segment := fun k => (putOccupancy_calm _ u).level.segmentLaw (hs k)
  hold := fun _ => putOccupancy_law _ _
  quiet := fun k hn => by
    rw [show (occupancyFall u).loader = s.loader from (h.trans (putOccupancy_inner _ _)).loader] at hn
    exact absurd hne (by simp [(k hn).1, (k hn).2.1])
  occupancy := fun k => uncounted_zero.mp (occupancyFall_uncounted h hs ho hc (uncounted_zero.mpr k) (by
    rw [k.occupancy]
    rcases hne with hne | hne <;> have := List.length_pos_iff.mpr hne <;> omega))

/-! ## The Handoff Controller -/

/-- R30: a departure written at the head of the ring. -/
theorem writeHistory_level (d : Departure) (s : State) : Level s (writeHistory d s) := by
  have put : ∀ (t : State) (l : List Departure), (HistoryLaw t.tracker → l.length ≤ Config.historySize) →
      Level t { t with tracker := { t.tracker with history := l } } := fun t l h =>
    Inner.level ⟨rfl, rfl, rfl, rfl, rfl, rfl, rfl, rfl, le_rfl, id, id, id, id, id, id, id, id, h, id, id, .refl _⟩ rfl rfl rfl rfl
  unfold writeHistory
  simp only
  split
  · rename_i h
    exact put s _ (fun _ => by simpa using h)
  · have h1 : ∀ t, Calm { s with tracker := { s.tracker with history := s.tracker.history.take (Config.historySize - 1) } } t →
        Level s { t with tracker := { t.tracker with history := d :: t.tracker.history } } := fun t ht =>
      (put s _ (fun _ => by simp [Config.historySize])).trans (ht.level.trans (put t _ (fun _ => by
        have := ht.history_length
        simp only [List.length_cons, List.length_take, Config.historySize] at this ⊢
        omega)))
    split
    · exact h1 _ (.refl _)
    · refine h1 _ ?_
      split
      · exact countGiveUp_calm _ _
      · exact .refl _

/-- R29, R119: a departure entered in the history. -/
theorem enterHistory_level (o : Outlet) (v : Leaving) (s : State) : Level s (enterHistory o v s) := by
  unfold enterHistory
  simp only
  split
  · exact writeHistory_level _ s
  · refine Level.trans (t := { s with handoff := { s.handoff with nextId := s.handoff.nextId + 1 } }) ?_
      ((writeHistory_level _ _).trans (makeAttempt_calm _ _ _).level)
    exact Inner.level ⟨rfl, rfl, rfl, rfl, rfl, rfl, rfl, rfl, le_rfl, id, id, id, id, id, id, id, id, id, id, id, .refl _⟩
      rfl rfl rfl rfl

theorem removeEntry_inner (source id : Byte) (s : State) : Inner s (removeEntry source id s) :=
  ⟨rfl, rfl, rfl, rfl, rfl, rfl, rfl, rfl, le_rfl, fun x => x, fun x => x, fun x => x, fun x => x, fun x => x,
    fun h => (List.length_filter_le _ _).trans h, fun x => x, fun x => x, fun x => x, fun x => x,
    fun h => h.sublist (List.filter_sublist.map _), .refl _⟩

/-- R129: the one entry that holds a pair leaves the list. -/
theorem removeEntry_length {source id : Byte} {s : State} (e : ExpectedEntry) (hm : e ∈ s.handoff.expected)
    (h1 : e.source = source) (h2 : e.id = id) (hp : PairLaw s.handoff) :
    (removeEntry source id s).handoff.expected.length + 1 = s.handoff.expected.length := by
  subst h1 h2
  have hl : ∀ l : List ExpectedEntry, (l.map (fun e => (e.source, e.id))).Nodup → e ∈ l →
      (l.filter (fun x => !decide (x.source = e.source ∧ x.id = e.id))).length + 1 = l.length := by
    intro l
    induction l with
    | nil => intro _ h; cases h
    | cons a l ih =>
      intro hn hm
      rw [List.map_cons, List.nodup_cons] at hn
      rcases List.mem_cons.mp hm with rfl | hm
      · have hf : l.filter (fun x => !decide (x.source = e.source ∧ x.id = e.id)) = l := by
          refine List.filter_eq_self.mpr (fun x hx => ?_)
          simp only [Bool.not_eq_true', decide_eq_false_iff_not]
          exact fun hc => hn.1 (List.mem_map.mpr ⟨x, hx, by rw [hc.1, hc.2]⟩)
        rw [List.filter_cons_of_neg (by simp), hf]
        rfl
      · have ha : ¬ (a.source = e.source ∧ a.id = e.id) := fun hc =>
          hn.1 (List.mem_map.mpr ⟨e, hm, by rw [hc.1, hc.2]⟩)
        rw [List.filter_cons_of_pos (by
            rw [Bool.not_eq_true', decide_eq_false_iff_not]
            exact ha), List.length_cons, ih hn.2 hm, List.length_cons]
  exact hl _ hp hm

theorem findEntry_mem {s : State} {source id : Byte} {e : ExpectedEntry} (h : findEntry s source id = some e) :
    e ∈ s.handoff.expected ∧ e.source = source ∧ e.id = id :=
  ⟨List.mem_of_find?_eq_some h, by simpa using List.find?_some h⟩

theorem enterMissing_level (source id : Byte) (s : State) : Level s (enterMissing source id s) :=
  Inner.level ⟨rfl, rfl, rfl, rfl, rfl, rfl, rfl, rfl, le_rfl, fun x => x, fun x => x, fun x => x, fun x => x, fun x => x,
    fun x => x, fun x => x, fun x => x, fun x => x, fun x => x, fun x => x, .refl _⟩ rfl rfl rfl rfl (hh := fun x => x)

/-- R133: an entry goes missing. -/
theorem entryMissing_lawful (source id : Byte) (s : State) : Lawful s (entryMissing source id s) := by
  unfold entryMissing; split
  · exact .refl s
  · rename_i e he
    obtain ⟨hm, h1, h2⟩ := findEntry_mem he
    simp only
    refine Lawful.iteElse ?_ (beginSearch_calm _ _ _ _).lawful
    refine Lawful.trans ?_ ((leaveWaiters_calm _ _).level.trans
      ((enterMissing_level _ _ _).trans (handStray_calm _ _).level)).lawful
    exact occupancyFall_lawful (removeEntry_inner _ _ s) (fun x => x) rfl
      (fun _ hp => by have := removeEntry_length e hm h1 h2 hp; show s.tracker.segment.length + _ + 1 = _; omega)
      (.inr (List.ne_nil_of_mem hm))

theorem insertEntry_perm (e : ExpectedEntry) (l : List ExpectedEntry) : (insertEntry e l).Perm (e :: l) := by
  unfold insertEntry
  have := List.takeWhile_append_dropWhile (p := fun x => decide (posDiff x.x e.x ≤ 0)) (l := l)
  rw [List.append_assoc, List.singleton_append]
  refine List.perm_middle.trans ?_
  rw [this]

theorem insertEntry_length (e : ExpectedEntry) (l : List ExpectedEntry) : (insertEntry e l).length = l.length + 1 := by
  rw [(insertEntry_perm e l).length_eq]
  rfl

theorem answerAccept_calm (f : HandoffFields) (s : State) : Calm s (answerAccept f s) := offer_calm _ _ s

theorem entryOffer_level (f : HandoffFields) (r : Bool) (s : State) : Level s (entryOffer f r s) := by
  unfold entryOffer; split
  · exact (handoffOffer_level _ _ _ s).trans (redecideServed_calm _ _).level
  · exact .refl s

theorem entryLookup_level (f : HandoffFields) (s : State) : Level s (entryLookup f s) :=
  .ite (.refl s) (lookup_level _ s)

/-- R129: with the lead-in and the tolerance of a source in range the window end of a new entry lies past D. -/
theorem windowEnd_ahead (d : Pos) (lead tolerance : Nat) (h1 : lead ≤ 30000) (h2 : 20 ≤ tolerance) (h3 : tolerance ≤ 5000) :
    reached d (d + mm lead + um (tolerance * 1000)) = false := by
  have ha : d - (d + mm lead + um (tolerance * 1000)) = -(BitVec.ofNat 32 (lead * 1000 + tolerance * 1000)) := by
    rw [BitVec.ofNat_add]
    unfold mm um
    bv_omega
  unfold reached posDiff
  rw [ha, decide_eq_false_iff_not]
  generalize hn : lead * 1000 + tolerance * 1000 = n
  have hk : (BitVec.ofNat 32 n).toInt = n := by
    have hm : n % 2 ^ 32 = n := Nat.mod_eq_of_lt (by omega)
    rw [BitVec.toInt_eq_toNat_of_lt] <;> rw [BitVec.toNat_ofNat, hm]
    omega
  rw [BitVec.toInt_neg, hk, Int.bmod_eq_of_le_mul_two] <;> omega

/-- The part of R128 up to the rise of occupancy: the entry stands in the list, its window end is offered. -/
def listedEntry (x : SourceConfig) (f : HandoffFields) (s : State) : State :=
  { s with serial := { s.serial with creation := s.serial.creation + 1 },
           handoff := { s.handoff with expected := insertEntry (newEntry s x f) s.handoff.expected } }

theorem findEntry_none {s : State} {source id : Byte} (h : findEntry s source id = none) :
    (source, id) ∉ s.handoff.expected.map (fun e => (e.source, e.id)) := by
  intro hm
  obtain ⟨e, he, hx⟩ := List.mem_map.mp hm
  have := List.find?_eq_none.mp h e he
  simp only [Prod.mk.injEq] at hx
  simp [hx] at this

/-- R128: a new expected entry, made outside LOADING while the list has room and no entry holds its pair. -/
theorem makeEntry_lawful (x : SourceConfig) (f : HandoffFields) (s : State) (hx : x ∈ (cfg s).sources)
    (hl : s.loader.node ≠ .loading) (hf : findEntry s f.source f.id = none)
    (h : s.handoff.expected.length < Config.expectedEntries) : Lawful s (makeEntry x f s) := by
  have h1 : Inner s (listedEntry x f s) := by
    refine ⟨rfl, rfl, rfl, rfl, rfl, rfl, rfl, rfl, le_rfl, id, id, id, id, id, fun _ => ?_, id, id, id, id, fun hp => ?_, .refl _⟩
    · simp only [listedEntry, ExpectedLaw, insertEntry_length]
      omega
    · show ((insertEntry _ _).map _).Nodup
      rw [((insertEntry_perm _ _).map _).nodup_iff, List.map_cons, List.nodup_cons]
      exact ⟨findEntry_none hf, hp⟩
  have h2 := offerPosition_inner (.windowEnd f.source f.id) (windowEndOf (newEntry s x f)) (entryMissing f.source f.id)
    (listedEntry x f s) (fun t => (entryMissing_lawful f.source f.id t).toInner)
  have h3 : Level (occupancyRise (offerPosition (.windowEnd f.source f.id) (windowEndOf (newEntry s x f))
      (entryMissing f.source f.id) (listedEntry x f s))) (makeEntry x f s) :=
    (duplicateCheck_level _ _).trans ((entryOffer_level _ _ _).trans ((entryLookup_level _ _).trans
      ((watchCheck_calm _ _ _ _).trans (answerAccept_calm _ _)).level))
  have h4 := h1.trans (h2.trans ((putOccupancy_inner _ _).trans h3.toInner))
  refine ⟨h4, fun hs => ?_, fun _ => h3.hold (putOccupancy_law _ _), fun _ hn => ?_, fun k => ?_⟩
  · refine h3.segmentLaw ((putOccupancy_calm _ _).level.segmentLaw ?_)
    have hw := offerPosition_lawful (.windowEnd f.source f.id) (windowEndOf (newEntry s x f)) (entryMissing f.source f.id)
      (listedEntry x f s) (entryMissing_lawful f.source f.id)
    exact hw.segment hs
  · rw [h4.loader] at hn
    exact absurd hn hl
  · obtain ⟨b1, b2, b3⟩ := k.sources x hx
    have hr : offerPosition (.windowEnd f.source f.id) (windowEndOf (newEntry s x f)) (entryMissing f.source f.id)
        (listedEntry x f s) = holdPosition (.windowEnd f.source f.id) (windowEndOf (newEntry s x f))
          (withdraw (.windowEnd f.source f.id) (listedEntry x f s)) :=
      if_neg (by
        show ¬ reached s.belt.d (s.belt.d + mm x.leadIn + um (x.tolerance * 1000)) = true
        rw [windowEnd_ahead _ _ _ b1 b2 b3]
        simp)
    rw [hr] at h3
    refine uncounted_zero.mp (h3.uncounted (occupancyRise_uncounted ?_))
    refine ((withdraw_calm _ _).trans (holdPosition_calm _ _ _ (windowEnd_ahead _ _ _ b1 b2 b3))).level.uncounted ⟨k.segment, h1.pairs k.pairs, h1.sources k.sources, ?_⟩
    have := k.occupancy
    simp only [listedEntry, insertEntry_length]
    omega

theorem waiterMoved_level (l : Live) (s : State) : Level s (waiterMoved l s) := by
  unfold waiterMoved; split
  · exact .refl s
  · exact (leaveWaiters_calm l s).level.iteThen ((setStatus_calm _ _ _).level.trans (lookup_level _ _))

theorem updatedEntry_pair (f : HandoffFields) (e : ExpectedEntry) :
    (updatedEntry f e).source = e.source ∧ (updatedEntry f e).id = e.id := by
  unfold updatedEntry
  simp only
  split <;> exact ⟨rfl, rfl⟩

/-- R125: a resend. -/
theorem resendEntry_level (f : HandoffFields) (e : ExpectedEntry) (s : State) : Level s (resendEntry f e s) := by
  unfold resendEntry
  simp only
  refine Level.trans ?_ ((entryLookup_level _ _).trans ((watchCheck_calm _ _ _ _).trans (answerAccept_calm _ _)).level)
  refine Level.iteElse ?_ ((waiterMoved_level _ _).trans (duplicateCheck_level _ _))
  refine Level.trans ?_ (entryOffer_level _ _ _)
  exact (updateEntry_level _ _ _ s (updatedEntry_pair f)).iteThen (leaveWaiters_calm _ _).level

theorem claimLookup_level (slot : Nat) (s : State) : Level s (claimLookup slot s) := by
  unfold claimLookup; split
  · exact .refl s
  · exact .ite (.refl s) ((setStatus_calm _ _ s).level.trans (lookup_level _ _))

theorem countPass_slot (s : State) (b : BagRecord) : (countPass s b).slot = b.slot := by unfold countPass; split <;> rfl

theorem claimOffer_level (f : HandoffFields) (r : Bool) (s : State) : Level s (claimOffer f r s) := by
  unfold claimOffer; split
  · exact handoffOffer_level _ _ _ s
  · exact .refl s

theorem claimCount_level (slot : Nat) (s : State) : Level s (claimCount slot s) :=
  updateBag_level _ _ s (fun b _ => by split; · exact countPass_slot s b
                                       · rfl)

theorem claimRedecide_level (slot : Nat) (ls : List Live) (s : State) : Level s (claimRedecide slot ls s) :=
  (claimCount_level slot s).trans (redecideServed_calm _ _).level

/-- R132: a claim. -/
theorem claimRecord_level (f : HandoffFields) (b : BagRecord) (s : State) : Level s (claimRecord f b s) := by
  unfold claimRecord
  simp only
  refine Level.trans ?_ ((watchCheck_calm _ _ _ _).level.trans ((claimRedecide_level _ _ _).trans (answerAccept_calm _ _).level))
  refine Level.trans ?_ ((resolveAgain_level _ _).trans (claimLookup_level _ _))
  refine Level.iteElse ?_ ((waiterMoved_level _ _).trans (duplicateCheck_level _ _))
  refine Level.trans ?_ (claimOffer_level _ _ _)
  have h := (withdraw_calm (.claimEnd b.slot) s).level.trans (updateBag_level b.slot (claimedRecord f) _ (by exact fun _ _ => rfl))
  split
  · exact h.trans ((copyPart_level _ _ _).trans (leaveWaiters_calm _ _).level)
  · exact h

theorem takeHandoff_lawful (x : SourceConfig) (f : HandoffFields) (s : State) (hx : x ∈ (cfg s).sources)
    (hl : s.loader.node ≠ .loading) : Lawful s (takeHandoff x f s) := by
  unfold takeHandoff; split
  · exact (resendEntry_level _ _ s).lawful
  · split
    · exact (answerAccept_calm _ s).lawful
    · split
      · exact (claimRecord_level _ _ s).lawful
      · split
        · exact makeEntry_lawful x f s hx hl (by assumption) (by assumption)
        · exact (offer_calm _ _ s).lawful

theorem handoffTaken_lawful (src : Byte) (p : HandoffPayload) (s : State) : Lawful s (handoffTaken src p s) := by
  unfold handoffTaken; split
  · rename_i hs
    split
    · exact .refl s
    · rename_i x hx
      refine takeHandoff_lawful _ _ s (List.mem_of_find?_eq_some hx) (fun hn => ?_)
      simp [speaks, hn] at hs
  · exact .refl s

theorem claimEnds_level (slot : Nat) (s : State) : Level s (claimEnds slot s) := updateBag_level _ _ s (by exact fun _ _ => rfl)

/-- What arrival matching keeps; the new record is not yet counted (R21, R130). -/
structure Matches (s t : State) : Prop extends Inner s t where
  slots : segmentSlots t = segmentSlots s
  entered : t.tracker.entered = s.tracker.entered
  departed : t.tracker.departed = s.tracker.departed
  lost : t.tracker.lost = s.tracker.lost
  uncounted : s.tracker.segment ≠ [] → Uncounted 1 s → Uncounted 1 t

theorem Level.matching {s t : State} (h : Level s t) : Matches s t :=
  ⟨h.toInner, h.slots, h.entered, h.departed, h.lost, fun _ => h.uncounted⟩

theorem matchFor_mem {e : Pos} {l : List ExpectedEntry} {x : ExpectedEntry} (h : matchFor e l = some x) : x ∈ l := by
  have key : ∀ (l : List ExpectedEntry) (b : Option ExpectedEntry),
      l.foldl (fun best y => match best with
        | none => some y
        | some z => if posDiff y.x z.x < 0 then some y else some z) b = some x → x ∈ l ∨ b = some x := by
    intro l
    induction l with
    | nil => intro b h; exact .inr h
    | cons a l ih =>
      intro b h
      rcases ih _ h with hm | hb
      · exact .inl (List.mem_cons_of_mem _ hm)
      · cases b with
        | none => exact .inl (by rw [Option.some.inj hb]; exact List.mem_cons_self)
        | some z =>
          simp only at hb
          split at hb
          · exact .inl (by rw [Option.some.inj hb]; exact List.mem_cons_self)
          · exact .inr hb
  rcases key _ _ h with hm | hb
  · exact List.mem_of_mem_filter hm
  · cases hb

/-- R130: a matched entry leaves the list. -/
theorem matchEntry_matches (slot : Nat) (x : ExpectedEntry) (s : State) (hm : x ∈ s.handoff.expected) :
    Matches s (matchEntry slot x s) := by
  unfold matchEntry
  simp only
  generalize hu : takeWaiterPlace _ _ _ = u
  have h1 : Level s u := by
    subst hu
    exact ((updateBag_level slot (matchedRecord x) s (by exact fun _ _ => rfl)).iteThen (markDuplicate_level _ _)).trans
      (takeWaiterPlace_calm _ _ _).level
  have h2 : (x.source, x.id) ∈ u.handoff.expected.map (fun e => (e.source, e.id)) := by
    have : u.handoff.expected.map (fun e => (e.source, e.id)) = s.handoff.expected.map (fun e => (e.source, e.id)) := by
      subst hu
      show ((if _ then markDuplicate (.bag slot) _ else _ : State).handoff.expected.map _) = _
      split <;> rfl
    rw [this]
    exact List.mem_map.mpr ⟨x, hm, rfl⟩
  obtain ⟨y, hy, hxy⟩ := List.mem_map.mp h2
  simp only [Prod.mk.injEq] at hxy
  have h3 : Inner u (withdraw (.windowEnd x.source x.id) (removeEntry x.source x.id u)) :=
    (removeEntry_inner _ _ u).trans (withdraw_calm _ _).inner
  refine ⟨h1.toInner.trans (h3.trans (putOccupancy_inner _ _)), ?_, ?_, ?_, ?_, fun hne k => ?_⟩
  · exact ((putOccupancy_calm _ _).slots.trans rfl).trans h1.slots
  · exact ((putOccupancy_calm _ _).entered.trans rfl).trans h1.entered
  · exact ((putOccupancy_calm _ _).departed.trans rfl).trans h1.departed
  · exact ((putOccupancy_calm _ _).lost.trans rfl).trans h1.lost
  · have ku := h1.uncounted k
    refine occupancyFall_uncounted h3 (fun x => x) rfl (fun _ hp => ?_) ku ?_
    · have := removeEntry_length y hy hxy.1 hxy.2 hp
      show u.tracker.segment.length + (removeEntry x.source x.id u).handoff.expected.length + 1 = _
      omega
    · have a1 := List.length_pos_iff.mpr hne
      have a2 := List.length_pos_of_mem hy
      have a3 := h1.segment_length
      have a4 := ku.occupancy
      omega

/-- R130, R131: arrival matching. -/
theorem matchArrival_matches (slot : Nat) (e : Pos) (s : State) : Matches s (matchArrival slot e s) := by
  unfold matchArrival; split
  · exact matchEntry_matches _ _ s (matchFor_mem (by assumption))
  · have h := updateBag_level slot (fun b => { b with flags := { b.flags with claimable := true } }) s (fun _ _ => rfl)
    unfold leaveUnannounced
    refine (h.trans ?_).matching
    split
    · exact (withdraw_calm _ _).level.trans (claimEnds_level slot _)
    · exact offerPosition_level _ _ _ _ (claimEnds_level slot)

end Sys2Proof.Machine
end

