-- ==== Sys2Proof/Laws/Events.lean ====
section
/-! SUPPORT. What the Segment Tracker, the Belt Distance Unit, the Configuration Loader and the receive filter keep, and how
an event ends. The segment queue's law is kept by each whole departure, loss and arrival. -/

namespace Sys2Proof.Machine

/-! ## Records that join and leave (R17, R20, R28) -/

theorem withdrawRecord_calm (slot : Nat) (s : State) : Calm s (withdrawRecord slot s) := by
  unfold withdrawRecord
  simp only
  refine Calm.trans ?_ (.foldl (fun a k => withdraw_calm _ a) _ _)
  refine Calm.trans ?_ ((withdraw_calm _ _).trans ((withdraw_calm _ _).trans ((withdraw_calm _ _).trans (withdraw_calm _ _))))
  exact .ite (withdraw_calm _ s) (.refl s)

theorem onTracker_inner (f : Tracker → Tracker) (s : State)
    (h : (f s.tracker).history = s.tracker.history := by rfl) : Inner s (onTracker f s) :=
  ⟨rfl, rfl, rfl, rfl, rfl, rfl, rfl, rfl, le_rfl, id, id, id, id, id, id, id, id, by
    rw [HistoryLaw, HistoryLaw, onTracker_tracker, h]; exact id, id, id, .refl _⟩

/-- A change of the tracker that leaves the queue, the history and the three counts of the queue. -/
theorem onTracker_level (f : Tracker → Tracker) (s : State) (hs : (f s.tracker).segment = s.tracker.segment)
    (he : (f s.tracker).entered = s.tracker.entered) (hd : (f s.tracker).departed = s.tracker.departed)
    (hl : (f s.tracker).lost = s.tracker.lost) (h : (f s.tracker).history = s.tracker.history := by rfl) :
    Level s (onTracker f s) :=
  (onTracker_inner f s h).level (by simp [segmentSlots, hs]) he hd hl

/-- The part of R28 up to the fall of occupancy. -/
def withoutRecord (slot : Nat) (s : State) : State :=
  bagLeft slot (leaveWaiters (.bag slot) (onReader (readerLeft slot) (onTracker (dropRecord slot) (withdrawRecord slot s))))

theorem removeRecord_eq (slot : Nat) (s : State) :
    removeRecord slot s = stopperLeft slot (occupancyFall (withoutRecord slot s)) := rfl

/-- R28: what a removal does to the slots, the counts, the entries and the occupancy; the rest is kept. -/
theorem withoutRecord_inner (slot : Nat) (s : State) :
    Inner s (withoutRecord slot s) ∧
      segmentSlots (withoutRecord slot s) = (segmentSlots s).filter (fun i => decide (i ≠ slot)) ∧
      (withoutRecord slot s).tracker.entered = s.tracker.entered ∧
      (withoutRecord slot s).tracker.departed = s.tracker.departed ∧
      (withoutRecord slot s).tracker.lost = s.tracker.lost ∧
      (withoutRecord slot s).handoff.expected.length = s.handoff.expected.length ∧
      (withoutRecord slot s).flow.occupancy = s.flow.occupancy := by
  have h1 := withdrawRecord_calm slot s
  have h3 : Level (onTracker (dropRecord slot) (withdrawRecord slot s)) (withoutRecord slot s) :=
    (onReader_level _ _).trans ((leaveWaiters_calm _ _).trans (bagLeft_calm slot _)).level
  refine ⟨h1.inner.trans ((onTracker_inner _ _).trans h3.toInner), ?_, ?_, ?_, ?_, ?_, ?_⟩
  · rw [h3.slots]
    have : segmentSlots (onTracker (dropRecord slot) (withdrawRecord slot s)) =
        (segmentSlots (withdrawRecord slot s)).filter (fun i => decide (i ≠ slot)) := by
      simp [segmentSlots, onTracker, dropRecord, List.filter_map, Function.comp_def]
    exact this.trans (by rw [h1.slots])
  · exact h3.entered.trans h1.entered
  · exact h3.departed.trans h1.departed
  · exact h3.lost.trans h1.lost
  · exact h3.entries.trans h1.expected_length
  · exact h3.occupancy.trans h1.occupancy

/-- R28: what follows the fall of occupancy touches none of what a removal changes. -/
theorem removeRecord_calm (slot : Nat) (s : State) :
    Calm (atOccupancy (s.flow.occupancy - 1) (withoutRecord slot s)) (removeRecord slot s) := by
  have h := putOccupancy_calm ((withoutRecord slot s).flow.occupancy - 1) (withoutRecord slot s)
  rw [(withoutRecord_inner slot s).2.2.2.2.2.2] at h
  rw [removeRecord_eq, occupancyFall, (withoutRecord_inner slot s).2.2.2.2.2.2]
  exact h.trans (stopperLeft_calm slot _)

theorem removeRecord_inner (slot : Nat) (s : State) :
    Inner s (removeRecord slot s) ∧
      segmentSlots (removeRecord slot s) = (segmentSlots s).filter (fun i => decide (i ≠ slot)) ∧
      (removeRecord slot s).tracker.entered = s.tracker.entered ∧
      (removeRecord slot s).tracker.departed = s.tracker.departed ∧
      (removeRecord slot s).tracker.lost = s.tracker.lost := by
  obtain ⟨h1, h2, h3, h4, h5, -, -⟩ := withoutRecord_inner slot s
  have hc := removeRecord_calm slot s
  exact ⟨h1.trans ((atOccupancy_inner _ _).trans hc.inner), hc.slots.trans h2, hc.entered.trans h3, hc.departed.trans h4,
    hc.lost.trans h5⟩

/-- R17: as many distinct slots as before, less the one removed. -/
theorem filter_slot_length (l : List Nat) (slot : Nat) (hn : l.Nodup) (hm : slot ∈ l) :
    (l.filter (fun i => decide (i ≠ slot))).length + 1 = l.length := by
  have h : l.filter (fun i => decide (i ≠ slot)) = l.erase slot := by
    rw [hn.erase_eq_filter]
    exact List.filter_congr (fun x _ => by by_cases hx : x = slot <;> simp [bne, hx])
  rw [h, List.length_erase_of_mem hm]
  have := List.length_pos_of_mem hm
  omega

theorem BitVec_ofNat_pred (n : Nat) (h : n + 1 = m) : BitVec.ofNat 32 n = BitVec.ofNat 32 m - 1 := by
  subst h
  rw [BitVec.ofNat_add]
  exact (BitVec.add_sub_cancel _ _).symm

/-- R29, R37: a removal counted once as departed or as lost keeps the law. -/
theorem removal_segment (slot : Nat) (s u : State) (hu : segmentSlots u = segmentSlots s) (hm : slot ∈ segmentSlots s)
    (he : u.tracker.entered = s.tracker.entered)
    (hc : u.tracker.departed = s.tracker.departed + 1 ∧ u.tracker.lost = s.tracker.lost ∨
      u.tracker.departed = s.tracker.departed ∧ u.tracker.lost = s.tracker.lost + 1)
    (h : SegmentLaw s.tracker) : SegmentLaw (removeRecord slot u).tracker := by
  obtain ⟨-, hs, h1, h2, h3⟩ := removeRecord_inner slot u
  have hlen := filter_slot_length _ slot h.distinct hm
  have hlen' : (removeRecord slot u).tracker.segment.length + 1 = s.tracker.segment.length := by
    have := congrArg List.length hs
    rw [hu] at this
    simp only [segmentSlots, List.length_map] at this hlen
    omega
  refine ⟨?_, ?_, ?_⟩
  · have : (segmentSlots (removeRecord slot u)).Nodup := by rw [hs, hu]; exact h.distinct.filter _
    exact this
  · have := h.bounded; omega
  · rw [BitVec_ofNat_pred _ hlen', ← h.balance, h1, h2, h3, he]
    rcases hc with ⟨a, b⟩ | ⟨a, b⟩ <;> rw [a, b] <;> bv_omega

/-- R28, R29, R37: the removal of a record that stands in the queue, counted once, is lawful. -/
theorem removal_lawful (slot : Nat) (f : Tracker → Tracker) (s : State) (hm : slot ∈ segmentSlots s)
    (hs : (f s.tracker).segment = s.tracker.segment) (he : (f s.tracker).entered = s.tracker.entered)
    (hc : (f s.tracker).departed = s.tracker.departed + 1 ∧ (f s.tracker).lost = s.tracker.lost ∨
      (f s.tracker).departed = s.tracker.departed ∧ (f s.tracker).lost = s.tracker.lost + 1)
    (hh : (f s.tracker).history = s.tracker.history) : Lawful s (removeRecord slot (onTracker f s)) := by
  have hu : segmentSlots (onTracker f s) = segmentSlots s := by simp [segmentSlots, hs]
  obtain ⟨h1, h2, -, -, -, h6, h7⟩ := withoutRecord_inner slot (onTracker f s)
  have hl : SegmentLaw s.tracker → SegmentLaw (withoutRecord slot (onTracker f s)).tracker := fun k => by
    have hr := removal_segment slot s (onTracker f s) hu hm he hc k
    have hk := removeRecord_calm slot (onTracker f s)
    exact hr.congr hk.slots.symm hk.entered.symm hk.departed.symm hk.lost.symm
  have hf := occupancyFall_lawful ((onTracker_inner f s hh).trans h1) hl (h7.trans rfl) (fun k _ => by
    have hn := filter_slot_length _ slot k.distinct hm
    have hq := congrArg List.length h2
    rw [hu] at hq
    have he' : (withoutRecord slot (onTracker f s)).handoff.expected.length = s.handoff.expected.length := h6
    simp only [segmentSlots, List.length_map] at hq hn
    omega) (.inl (fun h0 => by rw [segmentSlots, h0] at hm; cases hm))
  exact hf.trans (stopperLeft_calm slot _).lawful

/-- R29: a record that stands in the queue departs. -/
theorem departRecord_lawful (o : Outlet) (b : BagRecord) (s : State) (hm : b.slot ∈ segmentSlots s) :
    Lawful s (departRecord o b s) :=
  (removal_lawful b.slot _ s hm rfl rfl (.inl ⟨rfl, rfl⟩) rfl).trans (enterHistory_level o _ _).lawful

/-- R26, R37, R38: a record that stands in the queue is lost. -/
theorem loseRecord_lawful (b : BagRecord) (r : StrayReason) (p : Disposition) (s : State) (hm : b.slot ∈ segmentSlots s) :
    Lawful s (loseRecord b r p s) :=
  (removal_lawful b.slot _ s hm rfl rfl (.inr ⟨rfl, rfl⟩) rfl).trans (handStray_calm _ _).lawful

theorem findBag_slot {s : State} {slot : Nat} {b : BagRecord} (h : findBag s slot = some b) :
    b.slot = slot ∧ b ∈ s.tracker.segment := by
  refine ⟨by simpa using List.find?_some h, List.mem_of_find?_eq_some h⟩

theorem findBag_mem {s : State} {slot : Nat} {b : BagRecord} (h : findBag s slot = some b) : b.slot ∈ segmentSlots s :=
  List.mem_map_of_mem (findBag_slot h).2

theorem settleUncertain_calm (b : BagRecord) (s : State) : Calm s (settleUncertain b s) := .ite (handStray_calm _ s) (.refl s)

theorem declareLost_lawful (b : BagRecord) (s : State) (hm : b.slot ∈ segmentSlots s) : Lawful s (declareLost b s) :=
  .ite (loseRecord_lawful _ _ _ s hm) (loseRecord_lawful _ _ _ s hm)

theorem lostReached_lawful (slot : Nat) (s : State) : Lawful s (lostReached slot s) := by
  unfold lostReached; split
  · exact .refl s
  · exact .ite ((updateBag_level _ _ s (by exact fun _ _ => rfl)).lawful) (declareLost_lawful _ s (findBag_mem (by assumption)))

theorem confirmExpires_lawful (slot : Nat) (s : State) : Lawful s (confirmExpires slot s) := by
  unfold confirmExpires; split
  · exact .refl s
  · rename_i b hb
    have h := (updateBag_level slot (fun b => { b with tracking := .releasedUnconfirmed, confirm := none }) s
      (by exact fun _ _ => rfl)).lawful
    refine .ite (h.iteThen (declareLost_lawful b _ ?_)) (.refl s)
    rw [segmentSlots_updateBag _ _ s (by exact fun _ _ => rfl)]
    exact findBag_mem hb

/-! ## The entry eye -/

/-- The drive alone changes, the hold value is left to follow. -/
theorem onDrive_inner (f : Drive → Drive) (s : State) (h1 : (f s.drive).r ≤ s.drive.r)
    (h2 : DriveLaw s.drive → DriveLaw (f s.drive)) (h3 : (f s.drive).reasons.estop = s.drive.reasons.estop) :
    Inner s (onDrive f s) :=
  ⟨rfl, rfl, rfl, rfl, rfl, rfl, rfl, rfl, h1, h2, id, id, fun k => by rw [EstopLaw, onDrive_drive, h3]; exact k,
   id, id, id, id, id, id, id, .refl _⟩

/-- A change of the drive that leaves ESTOP, JAM and STALL. -/
theorem onDrive_level (f : Drive → Drive) (s : State) (h1 : (f s.drive).r ≤ s.drive.r)
    (h2 : DriveLaw s.drive → DriveLaw (f s.drive)) (h3 : (f s.drive).reasons.estop = s.drive.reasons.estop)
    (h4 : (f s.drive).reasons.jam = s.drive.reasons.jam) (h5 : (f s.drive).reasons.stall = s.drive.reasons.stall) :
    Level s (onDrive f s) :=
  (onDrive_inner f s h1 h2 h3).level rfl rfl rfl rfl (hh := .congr rfl h4 h5 rfl rfl)

/-- R8, R142: a change of JAM or STALL that `followHold` follows. -/
theorem followHold_level {s : State} (u : State) (h : Inner s u) (hs : segmentSlots u = segmentSlots s)
    (he : u.tracker.entered = s.tracker.entered) (hd : u.tracker.departed = s.tracker.departed)
    (hl : u.tracker.lost = s.tracker.lost) (ho : u.flow.occupancy = s.flow.occupancy) (hm : u.flow.demand = s.flow.demand)
    (hn : u.handoff.expected.length = s.handoff.expected.length) : Level s (followHold u) :=
  have c := followHold_calm u
  ⟨h.trans c.inner, c.slots.trans hs, c.entered.trans he, c.departed.trans hd, c.lost.trans hl, c.occupancy.trans ho,
   c.demand.trans hm, c.expected_length.trans hn, fun _ => followHold_law u⟩

/-- R8: JAM or STALL joins the set. -/
theorem raiseHalting_level (x : StopReason) (hx : x = .jam ∨ x = .stall) (s : State) : Level s (raiseHalting x s) := by
  unfold raiseHalting
  split
  · exact .refl s
  · simp only
    refine Level.trans ?_ (countEvent_calm _ _).level
    refine followHold_level _ ?_ rfl rfl rfl rfl rfl rfl rfl
    refine (onDrive_inner (joinReason (cfg s).rRun x) s (joinReason_r _ _ _) (joinReason_law _ _ _) ?_).trans ?_
    · rw [joinReason_reasons]
      rcases hx with rfl | rfl <;> rfl
    · exact ⟨rfl, rfl, rfl, rfl, rfl, rfl, rfl, rfl, le_rfl, id, id, id, id, id, id, id, id, id, id, id, .refl _⟩

theorem jamReached_level (s : State) : Level s (jamReached s) := raiseHalting_level _ (.inl rfl) s

theorem putJamPoint_level (p : Pos) (s : State) : Level s (putJamPoint p s) :=
  offerPosition_level _ _ _ s jamReached_level

theorem decideBag_calm (slot : Nat) (s : State) (hd : (segmentSlots s).Nodup) : Calm s (decideBag slot s) := by
  unfold decideBag; split
  · exact .refl s
  · rename_i b0 hb
    split
    · exact .refl s
    · simp only
      refine Calm.trans (updateBag_calm_on slot _ s (fun b hm hs => ?_))
        ((strayOfOutcome_calm _ _ _ _).trans ((schedule_calm _ _ _).trans (handChosen_calm _ _)))
      have hb0 := findBag_slot hb
      have : b = b0 := List.inj_on_of_nodup_map hd hm hb0.2 (hs.trans hb0.1.symm)
      rw [this, writeOutcome_fixed, countPass_fixed]

theorem writeOutcome_slot (oc : Outcome) (b : BagRecord) : (writeOutcome oc b).slot = b.slot :=
  congrArg (fun x => x.slot) (writeOutcome_fixed oc b)

/-- R82: a decision. -/
theorem decideBag_level (slot : Nat) (s : State) : Level s (decideBag slot s) := by
  unfold decideBag; split
  · exact .refl s
  · rename_i b0 hb
    split
    · exact .refl s
    · simp only
      refine Level.trans (updateBag_level slot _ s (fun b hs => ?_))
        ((strayOfOutcome_calm _ _ _ _).trans ((schedule_calm _ _ _).trans (handChosen_calm _ _))).level
      rw [writeOutcome_slot, countPass_slot, (findBag_slot hb).1, hs]

/-- R17: the lowest free slot is free while the queue is not full. -/
theorem freeSlot_free (s : State) (h : s.tracker.segment.length < Config.segmentSlots) : freeSlot s ∉ segmentSlots s := by
  unfold freeSlot
  rcases hf : (List.range Config.segmentSlots).find? (fun i => !(segmentSlots s).contains i) with _ | i
  · exfalso
    have hall : List.range Config.segmentSlots ⊆ segmentSlots s := fun i hi => by
      simpa using List.find?_eq_none.mp hf i hi
    have := (List.nodup_range.subperm hall).length_le
    simp only [List.length_range, segmentSlots, List.length_map] at this
    omega
  · simpa using List.find?_some hf

/-- R20: the new record joins the queue, not yet counted in the occupancy. -/
theorem joinQueue_inner (b : BagRecord) (s : State) : Inner s (joinQueue b s) :=
  ⟨rfl, rfl, rfl, rfl, rfl, rfl, rfl, rfl, le_rfl, id, id, id, id, id, id, id, id, id, id, id, .refl _⟩

theorem joinQueue_segment (b : BagRecord) (s : State) (h : s.tracker.segment.length < Config.segmentSlots)
    (hb : b.slot ∉ segmentSlots s) (k : SegmentLaw s.tracker) : SegmentLaw (joinQueue b s).tracker := by
  refine ⟨?_, ?_, ?_⟩
  · simp only [joinQueue, List.map_append, List.map_cons, List.map_nil]
    exact List.nodup_append.mpr ⟨k.distinct, List.nodup_singleton _, fun a ha c hc hac => by
      simp only [List.mem_singleton] at hc
      exact hb (by rw [← hc, ← hac]; exact ha)⟩
  · simp only [joinQueue, List.length_append, List.length_singleton]
    omega
  · simp only [joinQueue, List.length_append, List.length_singleton]
    rw [BitVec.ofNat_add, ← k.balance]
    bv_omega

/-- R20, R21: an arrival, outside LOADING and while the queue is not full. -/
theorem arrival_lawful (p : Pos) (s : State) (hl : s.loader.node ≠ .loading)
    (h : s.tracker.segment.length < Config.segmentSlots) : Lawful s (arrival p s) := by
  unfold arrival handOn
  simp only
  generalize hb : newRecord s (entryPosition s.tracker p) = b
  have hslot : b.slot = freeSlot s := by rw [← hb]; rfl
  have h1 := joinQueue_inner b s
  have h2 := putJamPoint_level p (joinQueue b s)
  have h3 := matchArrival_matches b.slot b.entry (putJamPoint p (joinQueue b s))
  generalize matchArrival b.slot b.entry (putJamPoint p (joinQueue b s)) = u at h3 ⊢
  generalize hv : offerPosition (.decisionPosition b.slot) _ _ _ = v
  have h4 : Level u v := by
    subst hv
    exact (offerPosition_level _ _ _ _ (readerReached_level _)).trans (offerPosition_level _ _ _ _ (decideBag_level _))
  refine Lawful.trans ?_ ((countEvent_calm _ _).lawful.trans (offerPosition_lawful _ _ _ _ (lostReached_lawful _)))
  have h5 : Inner s v := h1.trans (h2.toInner.trans (h3.toInner.trans h4.toInner))
  have h6 : SegmentLaw s.tracker → SegmentLaw v.tracker := fun k =>
    h4.segmentLaw ((h2.segmentLaw (joinQueue_segment b s h (by rw [hslot]; exact freeSlot_free s h) k)).congr h3.slots
      h3.entered h3.departed h3.lost)
  refine ⟨h5.trans (putOccupancy_inner _ _), fun k => (putOccupancy_calm _ _).level.segmentLaw (h6 k),
    fun _ => putOccupancy_law _ _, fun _ hn => ?_, fun k => ?_⟩
  · rw [show (occupancyRise v).loader = s.loader from (h5.trans (putOccupancy_inner _ _)).loader] at hn
    exact absurd hn hl
  · have k1 : Uncounted 1 (joinQueue b s) :=
      ⟨joinQueue_segment b s h (by rw [hslot]; exact freeSlot_free s h) k.segment, h1.pairs k.pairs, h1.sources k.sources, by
        have := k.occupancy
        simp only [joinQueue, List.length_append, List.length_singleton]
        omega⟩
    refine uncounted_zero.mp (occupancyRise_uncounted (h4.uncounted (h3.uncounted (fun h0 => ?_) (h2.uncounted k1))))
    have := h2.segment_length
    rw [h0] at this
    simp [joinQueue] at this

theorem overrunArrival_level (p : Pos) (s : State) : Level s (overrunArrival p s) :=
  (onTracker_level _ s rfl rfl rfl rfl).trans ((handStray_calm _ _).level.trans (putJamPoint_level _ _))

/-- R20 to R22: a leading edge at the entry eye, outside LOADING. -/
theorem entryLeading_lawful (p : Pos) (s : State) (hl : s.loader.node ≠ .loading) : Lawful s (entryLeading p s) := by
  unfold entryLeading; split
  · exact arrival_lawful p s hl (by assumption)
  · exact (overrunArrival_level p s).lawful

theorem closeLength_level (b : BagRecord) (p : Pos) (s : State) : Level s (closeLength b p s) :=
  (updateBag_level _ _ s (by exact fun _ _ => rfl)).trans
    ((onTracker_level _ _ rfl rfl rfl rfl).trans (lengthKnown_calm _ _ _).level)

theorem openRecord_mem {s : State} {b : BagRecord} (h : openRecord s = some b) : b.slot ∈ segmentSlots s := by
  unfold openRecord at h
  obtain ⟨h1, -⟩ := Option.filter_eq_some_iff.mp h
  exact List.mem_map_of_mem (List.mem_of_getLast? h1)

/-- R24 to R26: a trailing edge at the entry eye. -/
theorem entryTrailing_lawful (p : Pos) (s : State) : Lawful s (entryTrailing p s) := by
  have hw := withdraw_calm .jamPoint s
  unfold entryTrailing
  simp only
  split
  · exact hw.lawful
  · rename_i b hb
    exact .ite (hw.lawful.trans (closeLength_level _ _ _).lawful)
      (hw.lawful.trans (loseRecord_lawful b _ _ _ (by rw [hw.slots]; exact openRecord_mem hb)))

/-! ## The outlet eyes -/

theorem unknownObject_level (o : Outlet) (s : State) : Level s (unknownObject o s) :=
  ((onTracker_level _ s rfl rfl rfl rfl).trans (handStray_calm _ _).level).iteThen (enterHistory_level _ _ _)

theorem chuteEdge_lawful (k : Diverter) (s : State) : Lawful s (chuteEdge k s) := by
  unfold chuteEdge; split
  · exact (unknownObject_level _ s).lawful
  · rename_i b hb
    have hu := (updateBag_level b.slot (fun b => { b with tracking := .diverted, confirm := none }) s
      (by exact fun _ _ => rfl)).lawful
    refine hu.trans ((settleUncertain_calm b _).lawful.trans (departRecord_lawful _ _ _ ?_))
    rw [(settleUncertain_calm b _).slots, segmentSlots_updateBag _ _ s (by exact fun _ _ => rfl)]
    exact List.mem_map_of_mem (List.mem_of_find?_eq_some hb)

theorem exitMatch_mem {s : State} {p : Pos} {b : BagRecord} (h : exitMatch s p = some b) : b.slot ∈ segmentSlots s := by
  unfold exitMatch at h
  split at h
  · rename_i b' hb
    rw [Option.some.injEq] at h
    exact List.mem_map_of_mem (h ▸ List.mem_of_find?_eq_some hb)
  · exact List.mem_map_of_mem (List.mem_of_find?_eq_some h)

theorem misroute_lawful (b : BagRecord) (s : State) (hm : b.slot ∈ segmentSlots s) : Lawful s (misroute b s) := by
  unfold misroute
  simp only
  refine ((updateBag_level b.slot _ s (by exact fun x hx => hx.symm)).lawful).trans
    ((handStray_calm _ _).lawful.trans (departRecord_lawful _ _ _ ?_))
  rw [(handStray_calm _ _).slots, segmentSlots_updateBag _ _ s (by exact fun x hx => hx.symm)]
  exact hm

/-- R33 to R36: a leading edge at the exit eye. -/
theorem exitEdge_lawful (p : Pos) (s : State) : Lawful s (exitEdge p s) := by
  unfold exitEdge; split
  · exact (unknownObject_level _ s).lawful
  · rename_i b hb
    have hm := exitMatch_mem hb
    refine .ite ((settleUncertain_calm b s).lawful.trans (departRecord_lawful _ _ _ ?_)) (misroute_lawful b s hm)
    rw [(settleUncertain_calm b s).slots]
    exact hm

theorem leadingDelivered_lawful (e : Eye) (p : Pos) (s : State) : Lawful s (leadingDelivered e p s) := by
  unfold leadingDelivered; split
  · rename_i ha
    split
    · exact entryLeading_lawful p s (fun hn => by simp [acting, hn] at ha)
    · exact exitEdge_lawful p s
    · exact chuteEdge_lawful _ s
  · exact .refl s

theorem trailingDelivered_lawful (e : Eye) (p : Pos) (s : State) : Lawful s (trailingDelivered e p s) := by
  unfold trailingDelivered; split
  · split
    · exact entryTrailing_lawful p s
    · exact .refl s
    · exact .refl s
  · exact .refl s

/-! ## The Belt Distance Unit -/

theorem deliverLeading_lawful (e : Eye) (s : State) : Lawful s (deliverLeading e s) :=
  .ite (.refl s) (((updateEye_level _ _ s).lawful).trans (leadingDelivered_lawful _ _ _))

theorem deliverTrailing_lawful (e : Eye) (s : State) : Lawful s (deliverTrailing e s) := by
  unfold deliverTrailing; split
  · exact .refl s
  · exact ((updateEye_level _ _ s).lawful).trans (trailingDelivered_lawful _ _ _)

/-- R6, R7: an eye becomes blocked. -/
theorem eyeBlocked_lawful (e : Eye) (s : State) : Lawful s (eyeBlocked e s) := by
  have h1 := (updateEye_level e (fun x => { x with present := true }) s).lawful
  unfold eyeBlocked
  simp only
  split
  · split
    · exact h1.trans (deliverLeading_lawful _ _)
    · exact .ite (h1.trans ((deliverTrailing_lawful _ _).trans (deliverLeading_lawful _ _)))
        (h1.trans ((updateEye_level _ _ _).lawful))
  · exact h1

theorem eyeCleared_lawful (e : Eye) (s : State) : Lawful s (eyeCleared e s) :=
  ((updateEye_level e (fun x => { x with present := false }) s).lawful).iteThen ((updateEye_level _ _ _).lawful)

theorem resyncEntry_lawful (s : State) : Lawful s (resyncEntry s) := by
  unfold resyncEntry
  simp only
  exact .ite (.ite (putJamPoint_level _ s).lawful (deliverLeading_lawful _ s)) (.ite ((updateEye_level _ _ s).lawful) (.refl s))

/-- R3: the report of a registered position. -/
theorem reportPosition_lawful (i : Item) (s : State) : Lawful s (reportPosition i s) := by
  cases i
  · exact (readerReached_level _ s).lawful
  · exact (decideBag_level _ s).lawful
  · exact (jamReached_level s).lawful
  · exact lostReached_lawful _ s
  · exact (claimEnds_level _ s).lawful
  · exact entryMissing_lawful _ _ s
  · exact (fireWindow_calm _ _ s).lawful
  · exact (releaseWindow_calm _ _ s).lawful
  · exact (passReached_calm _ _ s).lawful
  · exact (latchGate_calm _ s).lawful

theorem deliverDue_lawful (x : Due) (s : State) : Lawful s (deliverDue x s) := by
  cases x
  · exact (withdraw_calm _ s).lawful.trans (reportPosition_lawful _ _)
  · exact deliverTrailing_lawful _ s

theorem spendChoice_lawful (s : State) : Lawful s (spendChoice s) :=
  Level.lawful <| Inner.level ⟨rfl, rfl, rfl, rfl, rfl, rfl, rfl, rfl, le_rfl, id, id, id, id, id, id, id, id, id, id, id, .refl _⟩ rfl rfl rfl rfl

/-- R4: everything one count has reached is reported. -/
theorem reportAll_lawful (n : Nat) (s : State) : Lawful s (reportAll n s) := by
  induction n generalizing s with
  | zero => exact .refl s
  | succ n ih =>
    unfold reportAll; split
    · exact .refl s
    · exact (deliverDue_lawful _ s).trans (ih _)
    · exact (spendChoice_lawful s).trans ((deliverDue_lawful _ _).trans (ih _))

theorem otherTrailing_lawful (s : State) : Lawful s (otherTrailing s) :=
  .foldl (fun a e => .ite (deliverTrailing_lawful e a) (.refl a)) _ s

theorem restartQuiet_r (d : Drive) : (restartQuiet d).r = d.r := by unfold restartQuiet; split <;> rfl

theorem restartQuiet_reasons (d : Drive) : (restartQuiet d).reasons = d.reasons := by unfold restartQuiet; split <;> rfl

/-- R15, R116: the belt restart clears the hold-off only while ESTOP is absent. -/
theorem beltRestart_lawful (forward : Bool) (s : State) : Lawful s (beltRestart forward s) := by
  unfold beltRestart; split
  · rename_i h
    refine Level.lawful (Inner.level ⟨rfl, rfl, rfl, rfl, rfl, rfl, rfl, rfl, le_rfl, id, id, id, fun k he => ?_, id, id, id, id, id, id, id,
      .refl _⟩
      rfl rfl rfl rfl)
    have := (k he).2
    simp [h.2] at this
  · exact .refl s

/-- A change of the reports held back is lawful. -/
theorem awaited_lawful (e : Option Eye) (s : State) : Lawful s (onBeltUnit (fun b => { b with awaited := e }) s) :=
  Level.lawful <| Inner.level ⟨rfl, rfl, rfl, rfl, rfl, rfl, rfl, rfl, le_rfl, id, id, id, id, id, id, id, id, id, id, id, .refl _⟩ rfl rfl rfl rfl

/-- R37, R134: the choice between a count's reports and the edge beside them. -/
theorem chooseEdge_lawful (s : State) : Lawful s (chooseEdge s) := by
  unfold chooseEdge; split
  · exact .refl s
  · exact .ite (spendChoice_lawful s) ((spendChoice_lawful s).trans (awaited_lawful _ _))

theorem reportHeldBack_lawful (s : State) : Lawful s (reportHeldBack s) :=
  (awaited_lawful none s).trans (reportAll_lawful _ _)

/-- R1: a count moves D and n and is lawful else. -/
theorem beltCount_lawful (forward : Bool) (s : State) :
    Lawful (onBeltUnit (moveBelt (cfg s) forward) s) (beltCount forward s) := by
  unfold beltCount
  refine Lawful.trans ?_ ((beltRestart_lawful _ _).trans
    ((otherTrailing_lawful _).trans ((chooseEdge_lawful _).trans (reportAll_lawful _ _))))
  exact (onDrive_level restartQuiet _ (restartQuiet_r _).le (restartQuiet_law _) (by rw [restartQuiet_reasons])
    (by rw [restartQuiet_reasons]) (by rw [restartQuiet_reasons])).lawful

theorem judgeStall_r (c : JunctionConfig) (v : Nat) (d : Drive) : (judgeStall c v d).r = d.r := by
  unfold judgeStall; split
  · split <;> rfl
  all_goals rfl

theorem judgeStall_reasons (c : JunctionConfig) (v : Nat) (d : Drive) : (judgeStall c v d).reasons = d.reasons := by
  unfold judgeStall; split
  · split <;> rfl
  all_goals rfl

theorem endWindow_d (c : JunctionConfig) (b : Belt) :
    (endWindow c b).d = b.d ∧ (endWindow c b).restartArmed = b.restartArmed ∧ (endWindow c b).register = b.register := by
  unfold endWindow
  simp only
  split <;> exact ⟨rfl, rfl, rfl⟩

theorem endWindow_speed (c : JunctionConfig) (b : Belt) : SpeedLaw (endWindow c b) := by
  unfold endWindow
  simp only
  split
  · exact le_rfl
  · exact not_lt.mp (by assumption)

/-- R5: the end of a speed window. -/
theorem speedWindow_lawful (s : State) : Lawful s (speedWindow s) := by
  unfold speedWindow
  simp only
  have h1 : Lawful s (onBeltUnit (endWindow (cfg s)) s) :=
    Level.lawful (Inner.level ⟨rfl, rfl, rfl, rfl, rfl, (endWindow_d _ _).1, rfl, rfl, le_rfl, id, id, id,
      fun h => by rw [EstopLaw, onBeltUnit_belt, (endWindow_d _ _).2.1]; exact h, id, id, id, id, id,
      fun _ => endWindow_speed _ _, id, by simp [dueRegister, (endWindow_d _ _).1, (endWindow_d _ _).2.2]⟩ rfl rfl rfl rfl)
  refine h1.trans (Lawful.trans ?_ ((recomputeFires_calm _).trans (recomputeStops_calm _)).lawful)
  exact (onDrive_level _ _ (judgeStall_r _ _ _).le (judgeStall_law _ _ _) (by rw [judgeStall_reasons])
    (by rw [judgeStall_reasons]) (by rw [judgeStall_reasons])).lawful

/-- R14: STALL_DETECTED. -/
theorem stallFires_lawful (s : State) : Lawful s (stallFires s) := by
  unfold stallFires
  refine .ite ((raiseHalting_level _ (.inr rfl) s).lawful.trans (Level.lawful ?_)) (.refl s)
  exact onDrive_level _ _ le_rfl (fun h => ⟨h.rest, h.halts, h.runs, h.coasts⟩) rfl rfl rfl

/-- R6, R37, R134: an eye becomes blocked, and what a count held back for it follows. -/
theorem leadingEdge_lawful (e : Eye) (s : State) : Lawful s (leadingEdge e s) := by
  have h : Lawful s (if (eyeOf s e).present then s else eyeBlocked e s) := .ite (.refl s) (eyeBlocked_lawful e s)
  unfold leadingEdge; simp only
  exact .ite (h.trans (reportHeldBack_lawful _)) h

/-! ## Emergency stop and jam clear -/

theorem markUncertain_lawful (k : Diverter) (slot : Nat) (s : State) : Lawful s (markUncertain k slot s) := by
  unfold markUncertain
  split
  · exact .refl s
  · exact (updateBag_level _ _ s (fun _ _ => by split <;> rfl)).lawful

theorem holdOutputs_lawful (s : State) : Lawful { s with holdOff := true } (holdOutputs s) :=
  .foldl (fun a k => .foldl (fun b _ => .ite (.foldl (fun c slot => markUncertain_lawful k slot c) _ b) (.refl b)) _ a) _ _

/-- R15, R115: ESTOP joins the set. -/
theorem estopJoins_lawful (s : State) : Lawful s (estopJoins s) := by
  unfold estopJoins; split
  · exact .refl s
  · refine Lawful.trans ?_ (holdOutputs_lawful _)
    exact Level.lawful (Inner.level ⟨rfl, rfl, rfl, rfl, rfl, rfl, rfl, rfl, joinReason_r _ _ _, joinReason_law _ _ _, id, id,
      fun _ _ => ⟨rfl, rfl⟩, id, id, id, id, id, id, id, .refl _⟩ rfl rfl rfl rfl
      (hh := .congr rfl ((congrArg Reasons.jam (joinReason_reasons (cfg s).rRun .estop s.drive)).trans rfl)
        ((congrArg Reasons.stall (joinReason_reasons (cfg s).rRun .estop s.drive)).trans rfl) rfl rfl))

/-- R15: ESTOP leaves the set. -/
theorem estopLeaves_lawful (s : State) : Lawful s (estopLeaves s) := by
  unfold estopLeaves; split
  · refine Level.lawful (Inner.level ⟨rfl, rfl, rfl, rfl, rfl, rfl, rfl, rfl, leaveReason_r _ _ _, leaveReason_law _ _ _, id, id,
      fun _ he => ?_, id, id, id, id, id, id, id, .refl _⟩ rfl rfl rfl rfl
      (hh := .congr rfl (by rw [onBeltUnit_drive, onDrive_drive, leaveReason_reasons]; rfl)
        (by rw [onBeltUnit_drive, onDrive_drive, leaveReason_reasons]; rfl) rfl rfl))
    rw [onBeltUnit_drive, onDrive_drive, leaveReason_reasons] at he
    cases he
  · exact .refl s

theorem clearJamStall_estop (n : Nat) (d : Drive) : (clearJamStall n d).reasons.estop = d.reasons.estop := by
  unfold clearJamStall; split
  · rw [examine_reasons]
  · rfl

/-- R9: JAM and STALL leave the set. -/
theorem jamCleared_lawful (s : State) : Lawful s (jamCleared s) := by
  unfold jamCleared; split
  · refine Lawful.trans ?_ (resyncEntry_lawful _)
    refine Level.lawful (followHold_level (s := s) (onDrive (clearJamStall (cfg s).rRun) s) ?_ rfl rfl rfl rfl rfl rfl rfl)
    exact onDrive_inner _ s (clearJamStall_r _ _) (clearJamStall_law _ _) (clearJamStall_estop _ _)
  · exact .refl s

/-! ## Outlets as frames and lines change them -/

theorem routeWrite_lawful (s t : State) (h : Lawful s t) : Lawful s (routeChanged t) := h.trans (routeChanged_calm t).lawful

/-- R136: the closed field of an outlet. -/
theorem putClosed_lawful (o : Outlet) (c : Bool) (s : State) : Lawful s (putClosed o c s) :=
  .ite (routeWrite_lawful _ _ ((updateRow_level _ _ s).lawful)) (.refl s)

theorem updatePeerRows_lawful (st : Byte) (f : RouteRow → RouteRow) (s : State) : Lawful s (updatePeerRows st f s) :=
  .foldl (fun a _ => .ite ((updateRow_level _ _ a).lawful) (.refl a)) _ s

/-- R140: learned reaches. -/
theorem putLearned_lawful (st : Byte) (r : DestSet) (s : State) : Lawful s (putLearned st r s) :=
  .ite (routeWrite_lawful _ _ (updatePeerRows_lawful _ _ s)) (.refl s)

/-- R123: a peer heard. -/
theorem peerHeard_lawful (st : Byte) (s : State) : Lawful s (peerHeard st s) :=
  .ite (routeWrite_lawful _ _ ((updatePeer_calm _ _ s).lawful.trans (updatePeerRows_lawful _ _ _))) (.refl s)

theorem pathTaken_lawful (src : Byte) (r : DestSet) (s : State) : Lawful s (pathTaken src r s) :=
  .ite (putLearned_lawful _ _ s) (.refl s)

theorem holdTaken_lawful (src q : Byte) (s : State) : Lawful s (holdTaken src q s) :=
  .ite ((updatePeerRows_lawful _ _ s).trans (refreshGates_calm _).lawful) (.refl s)

theorem holdLapses_lawful (o : Outlet) (s : State) : Lawful s (holdLapses o s) :=
  .ite (((updateRow_level _ _ s).lawful).trans (refreshGate_calm _ _).lawful) (.refl s)

theorem answerTaken_lawful (p : AnswerPayload) (s : State) : Lawful s (answerTaken p s) := by
  unfold answerTaken; split
  · split
    · split
      · exact (answerFound_level _ _ _ s).lawful
      · exact .refl s
    · exact .ite (failQuery_calm _ s).lawful (.refl s)
  · exact .refl s

theorem updateTaken_lawful (p : UpdatePayload) (s : State) : Lawful s (updateTaken p s) := by
  unfold updateTaken; split
  · split
    · exact (applyUpdate_level _ _ _ s).lawful
    · exact .refl s
  · exact .refl s

theorem missingTaken_calm (pl : BitVec 40) (r : Byte) (s : State) : Calm s (missingTaken pl r s) :=
  .ite (beginSearch_calm _ _ _ s) (.refl s)

theorem foundTaken_calm (p : FoundPayload) (s : State) : Calm s (foundTaken p s) := .ite (unwatch_calm _ s) (.refl s)

theorem countersCleared_calm (s : State) : Calm s (countersCleared s) := .ite (.refl s) ⟨rfl, le_rfl, fun _ => rfl, id, id, id, id, id, rfl, rfl, id, .refl _⟩

theorem statusRequested_calm (h : Header) (i p : Byte) (s : State) : Calm s (statusRequested h i p s) :=
  .ite (offer_calm _ _ s) (.refl s)

/-- R80: the late set written is lawful else. -/
theorem putLate_lawful (late : DestSet) (s : State) :
    Lawful { s with routes := { s.routes with late := late } } (putLate late s) := by
  unfold putLate; split
  · rename_i h
    subst h
    exact .refl s
  · exact (redecideAll_calm _).lawful

/-! ## The Hall Bus Interface -/

theorem onBus_lawful (f : Bus → Bus) (s : State) (h : QueueLaw s.bus → QueueLaw (f s.bus)) : Lawful s (onBus f s) :=
  Level.lawful (Inner.level ⟨rfl, rfl, rfl, rfl, rfl, rfl, rfl, rfl, le_rfl, id, h, id, id, id, id, id, id, id, id, id, .refl _⟩ rfl rfl rfl rfl)

theorem highestClass_le (w : List Queued) (m : Nat) : w.foldl (fun m q => min m (queuedClass q)) m ≤ m := by
  induction w generalizing m with
  | nil => exact le_rfl
  | cons q w ih => exact le_trans (ih _) (min_le_left _ _)

/-- R170: a frame that is begun moves from the waiting frames into attempt. -/
theorem beginSending_queue (b : Bus) : queueLength (beginSending b) = queueLength b := by
  unfold beginSending
  rcases ha : b.attempt with _ | a
  · simp only
    rcases hn : nextFrame b.waiting with _ | q
    · rfl
    · have hq := List.mem_of_find?_eq_some hn
      have hc := List.find?_some hn
      have hpos := List.length_pos_of_mem hq
      simp only [queueLength, ha, Option.isSome_some, Option.isSome_none, if_true, Bool.false_eq_true, if_false]
      rw [List.length_eraseP_of_mem hq hc]
      omega
  · simp only
    split
    · simp [queueLength, ha]
    · rfl

theorem beginSending_lawful (s : State) : Lawful s (onBus beginSending s) :=
  onBus_lawful _ s (fun h => by rw [QueueLaw, beginSending_queue]; exact h)

theorem collide_queue (b : Bus) : queueLength (collide b) = queueLength b := by
  unfold collide; split
  · rename_i h; simp [queueLength, h]
  · rfl

theorem backoffEnds_queue (b : Bus) : queueLength (backoffEnds b) = queueLength b := by
  unfold backoffEnds; split
  · rename_i h; simp [queueLength, h]
  · rfl

/-- R172: a frame abandoned leaves the queue. -/
theorem abandonFrame_lawful (q : Queued) (s : State) : Lawful s (abandonFrame q s) := by
  unfold abandonFrame
  simp only
  refine Lawful.trans (onBus_lawful _ s ?_) ((countEvent_calm _ _).trans ((oweReport_calm _ _).trans
    ((drainReports_calm _ _).trans (deliverPending_calm _)))).lawful
  intro h
  exact le_trans (by simp [queueLength, takePending]) h

theorem jamEnds_lawful (s : State) : Lawful s (jamEnds s) := by
  unfold jamEnds; split
  · rename_i q c h
    refine .ite (onBus_lawful _ s (fun k => ?_)) (abandonFrame_lawful _ s)
    have : queueLength (backOff q c s.bus) = queueLength s.bus := by simp [backOff, queueLength, h]
    rw [QueueLaw, this]
    exact k
  · exact .refl s

theorem frameLeaves_lawful (s : State) : Lawful s (frameLeaves s) := by
  unfold frameLeaves; split
  · refine Lawful.trans (onBus_lawful _ s (fun h => le_trans ?_ h)) (deliverPending_calm _).lawful
    simp [queueLength, takePending]
  · exact .refl s

/-! ## Start-up -/

theorem endLoading_lawful (n : NodeState) (s : State) :
    Lawful (onLoader (fun l => { l with node := n, reading := false, readdress := none }) s) (endLoading n s) :=
  Level.lawful (Inner.level ⟨rfl, rfl, rfl, rfl, rfl, rfl, rfl, rfl, le_rfl, id, id, id, id, id, id, id, id, id, id, id, .refl _⟩ rfl rfl rfl rfl)

/-- R185: entering CONFIG_FAULT changes the Loader and is lawful else. -/
theorem enterConfigFault_lawful (s : State) :
    Lawful (onLoader (fun l => { l with node := .configFault, reading := false, readdress := none }) s) (enterConfigFault s) := by
  unfold enterConfigFault
  simp only
  exact (endLoading_lawful .configFault s).iteThen ((offer_calm _ _ _).trans (offer_calm _ _ _)).lawful

theorem leaveNotRunning_lawful (n : Nat) (s : State) : Lawful s (onDrive (leaveReason n .notRunning) s) := by
  exact (onDrive_level _ s (leaveReason_r _ _ _) (leaveReason_law _ _ _) (by rw [leaveReason_reasons]; rfl)
    (by rw [leaveReason_reasons]; rfl) (by rw [leaveReason_reasons]; rfl)).lawful

/-- R183: entering RUNNING changes the Loader and is lawful else. -/
theorem enterRunning_lawful (s : State) :
    Lawful (onLoader (fun l => { l with node := .running, listen := none }) s) (enterRunning s) := by
  unfold enterRunning
  simp only
  refine Lawful.trans ?_ (leaveNotRunning_lawful _ _)
  refine Calm.lawful (Calm.setRefresh ?_ _)
  exact (toSources_calm _ _).iteThen (toSources_calm _ _)

theorem jamPointAtJoining_lawful (s : State) : Lawful s (jamPointAtJoining s) := .ite (putJamPoint_level _ s).lawful (.refl s)

/-- R183: entering JOINING puts the configuration in force and is lawful else. -/
theorem enterJoining_lawful (c : JunctionConfig) (s : State) :
    ∃ u, Lawful (onLoader (fun l => { l with node := .joining, reading := false, readdress := none, config := some c }) s) u ∧
      enterJoining c s = onLoader (fun l => { l with listen := some Config.listenTime }) u := by
  refine ⟨_, ?_, rfl⟩
  refine Lawful.trans ?_ ((offer_calm _ _ _).lawful)
  refine Lawful.trans ?_ (jamPointAtJoining_lawful _)
  refine Lawful.trans ?_ ((recomputeReach_calm _).trans (refreshGates_calm _)).lawful
  exact Level.lawful (Inner.level ⟨rfl, rfl, rfl, rfl, rfl, rfl, rfl, rfl, le_rfl, id, id, id, id, id, id, id, id, id, id, id, .refl _⟩ rfl rfl rfl rfl)

/-- R184: what a frame bearing this station's number makes of the Loader. -/
def loaderSeen (l : Loader) : Loader :=
  if l.node = .joining then { l with duplicates := l.duplicates + 1, node := .duplicate, listen := none }
  else { l with duplicates := l.duplicates + 1 }

/-- R184: a frame bearing this station's number changes the Loader and is lawful else. -/
theorem ownNumberSeen_lawful (s : State) : Lawful (onLoader loaderSeen s) (ownNumberSeen s) := by
  unfold ownNumberSeen loaderSeen
  rcases hn : s.loader.node with _ | _ | _ | _ | _ <;> simp only [onLoader, hn, reduceCtorEq, if_true, if_false]
  · exact .refl _
  · exact onBus_lawful _ _ (fun _ => by simp [QueueLaw, queueLength])
  · exact .ite (.refl _) (offer_calm _ _ _).lawful
  · exact .refl _
  · exact .refl _

/-! ## How an event ends -/

theorem settle_lawful (s : State) : Lawful s (settle s) := (settle_calm s).lawful

/-- With no report owed the end of an event only brings the pins up to date. -/
theorem settle_of_none {s : State} (h : s.owed = []) : settle s = drivePins s := by
  unfold settle reportFuel
  rw [drainReports.eq_def]
  simp [h]

/-- R177: no report is owed once an event has ended. -/
theorem drainReports_owed (n : Nat) (s : State) : (drainReports n s).owed = [] := by
  induction n generalizing s with
  | zero => rfl
  | succ n ih =>
    unfold drainReports
    split
    · assumption
    · exact ih _

theorem settle_owed (s : State) : (settle s).owed = [] := drainReports_owed _ s

/-- The output lines do not read themselves. -/
theorem pinsOf_pins (s : State) (p : Pins) : pinsOf { s with pins := p } = pinsOf s := rfl

theorem drivePins_law (s : State) : PinLaw (drivePins s) := rfl

/-- The outcome of a command in a part that is out of reset. -/
theorem act_ready {f : State → State} {s : State} (h : s.inReset = false) : act f s = .next (settle (f s)) := by
  simp [act, h]

/-- The outcome of a command in a part that is held in reset. -/
theorem act_held {f : State → State} {s : State} (h : s.inReset = true) : act f s = .next s := by simp [act, h]

/-- What an accepted frame makes of the part before its owner takes it (R174, R175). -/
theorem deliverFrame_ready {h : Header} {owner : State → State} {s : State} (ho : onLine s.bus = false)
    (hs : stationNumber h.src = true) (hn : h.src ≠ s.loader.station) (hd : addressedHere s.loader.station h.dest = true) :
    deliverFrame h owner s = owner (peerHeard h.src (onBus (fun b => { b with received := b.received + 1 }) s)) := by
  unfold deliverFrame
  simp [ho, hs, hn, hd]

end Sys2Proof.Machine
end

