-- ==== Sys2Proof/Laws/Reports.lean ====
section
/-! SUPPORT. What the reports of a count can do (R3, R4): `reportReached` reports, in the order of each owner's positions, every
registration that D has reached and that no report withdraws or the wait for an edge holds back (log 40). -/

namespace Sys2Proof.Machine

/-! ## The order of reached positions (R2, R4) -/

/-- How far D has passed a position. -/
def passedBy (d p : Pos) : Nat := (d - p).toNat

/-- R2: of two reached positions D has passed the lesser one farther. -/
theorem posDiff_reached {d p q : Pos} (hp : reached d p = true) (hq : reached d q = true) :
    posDiff p q = (passedBy d q : Int) - passedBy d p := by
  simp only [reached, posDiff, decide_eq_true_eq, passedBy, BitVec.toInt_eq_toNat_cond, BitVec.toNat_sub] at *
  have := d.isLt
  have := p.isLt
  have := q.isLt
  split at hp <;> split at hq <;> split <;> omega

theorem position_eq {d p q : Pos} (h : passedBy d p = passedBy d q) : p = q := by
  simp only [passedBy] at h
  bv_omega

/-- The choice of R4 among the registrations of a list, from one at hand. -/
def firstOf (b : Registration) (l : List Registration) : Registration :=
  l.foldl (fun b r => if posDiff r.position b.position < 0 then r else b) b

/-- The registration at hand is chosen, or one that D has passed first; and D passes the one chosen before every other, but for
equal ones behind it. -/
theorem firstOf_spec {d : Pos} (l : List Registration) (b : Registration) (h : ∀ y ∈ b :: l, reached d y.position = true) :
    firstOf b l ∈ b :: l ∧
    (firstOf b l = b ∨ passedBy d b.position < passedBy d (firstOf b l).position) ∧
    ∀ y ∈ b :: l, y = firstOf b l ∨ passedBy d y.position < passedBy d (firstOf b l).position ∨
      (y.position = (firstOf b l).position ∧ [firstOf b l, y].Sublist (b :: l)) := by
  induction l generalizing b with
  | nil => simp [firstOf]
  | cons x l ih =>
    have hb := h b (by simp)
    have hx := h x (by simp)
    have hc := posDiff_reached hx hb
    by_cases hlt : posDiff x.position b.position < 0
    · have e : firstOf b (x :: l) = firstOf x l := by simp [firstOf, hlt]
      rw [e]
      obtain ⟨h0, h1, h2⟩ := ih x (fun y hy => h y (List.mem_cons_of_mem _ hy))
      have hbr : passedBy d b.position < passedBy d (firstOf x l).position := by
        rcases h1 with h1 | h1
        · rw [h1]; omega
        · omega
      refine ⟨List.mem_cons_of_mem _ h0, .inr hbr, fun y hy => ?_⟩
      rcases List.mem_cons.mp hy with rfl | hy
      · exact .inr (.inl hbr)
      · rcases h2 y hy with h2 | h2 | ⟨h2, h3⟩
        · exact .inl h2
        · exact .inr (.inl h2)
        · exact .inr (.inr ⟨h2, h3.cons _⟩)
    · have e : firstOf b (x :: l) = firstOf b l := by simp [firstOf, hlt]
      rw [e]
      have hs : (b :: l).Sublist (b :: x :: l) := (List.sublist_cons_self x l).cons_cons b
      obtain ⟨h0, h1, h2⟩ := ih b (fun y hy => h y (hs.subset hy))
      refine ⟨hs.subset h0, h1, fun y hy => ?_⟩
      rcases List.mem_cons.mp hy with rfl | hy
      · rcases h2 y (by simp) with h2 | h2 | ⟨h2, h3⟩
        · exact .inl h2
        · exact .inr (.inl h2)
        · exact .inr (.inr ⟨h2, h3.trans hs⟩)
      · rcases List.mem_cons.mp hy with rfl | hy
        · rcases h1 with h1 | h1
          · rw [h1]
            rcases Nat.lt_or_ge (passedBy d y.position) (passedBy d b.position) with hn | hn
            · exact .inr (.inl hn)
            · exact .inr (.inr ⟨position_eq (d := d) (by omega), ((List.nil_sublist l).cons_cons y).cons_cons b⟩)
          · exact .inr (.inl (by omega))
        · rcases h2 y (List.mem_cons_of_mem _ hy) with h2 | h2 | ⟨h2, h3⟩
          · exact .inl h2
          · exact .inr (.inl h2)
          · exact .inr (.inr ⟨h2, h3.trans hs⟩)

theorem firstReached_cons {d : Pos} {l rest : List Registration} {b : Registration}
    (h : l.filter (fun r => reached d r.position) = b :: rest) : firstReached d l = some (firstOf b rest) := by
  unfold firstReached firstOf
  rw [h, List.foldl_cons]
  simp only
  clear h
  induction rest generalizing b with
  | nil => rfl
  | cons x rest ih =>
    simp only [List.foldl_cons]
    rw [← ih]
    split <;> rfl

theorem firstReached_none {d : Pos} {l : List Registration} (h : firstReached d l = none) :
    l.filter (fun r => reached d r.position) = [] := by
  cases hf : l.filter (fun r => reached d r.position) with
  | nil => rfl
  | cons b rest =>
    rw [firstReached_cons hf] at h
    cases h

/-- R4: the registration chosen is a reached one of the list, and D passes it before every other reached one, but for equal ones
registered later. -/
theorem firstReached_some {d : Pos} {l : List Registration} {r : Registration} (h : firstReached d l = some r) :
    r ∈ l ∧ reached d r.position = true ∧ ∀ y ∈ l, reached d y.position = true →
      y = r ∨ 0 < posDiff y.position r.position ∨ (y.position = r.position ∧ [r, y].Sublist l) := by
  rcases hf : l.filter (fun r => reached d r.position) with _ | ⟨b, rest⟩
  · simp [firstReached, hf] at h
  · rw [firstReached_cons hf] at h
    have h := Option.some.inj h
    have hm : ∀ y, y ∈ b :: rest ↔ y ∈ l ∧ reached d y.position = true := fun y => by rw [← hf]; simp
    obtain ⟨h0, -, h2⟩ := firstOf_spec rest b (fun y hy => ((hm y).mp hy).2)
    rw [h] at h0 h2
    refine ⟨((hm r).mp h0).1, ((hm r).mp h0).2, fun y hy hr => ?_⟩
    rcases h2 y ((hm y).mpr ⟨hy, hr⟩) with h2 | h2 | ⟨h2, h3⟩
    · exact .inl h2
    · refine .inr (.inl ?_)
      rw [posDiff_reached hr ((hm r).mp h0).2]
      omega
    · exact .inr (.inr ⟨h2, h3.trans (hf ▸ List.filter_sublist)⟩)

/-! ## What a report leaves of the Belt Distance Unit -/

/-- An operation that leaves the eyes and the wait for an edge as they were. -/
def SameEyes (s t : State) : Prop := t.belt.eyes = s.belt.eyes ∧ t.belt.awaited = s.belt.awaited

namespace SameEyes

variable {s t u : State}

theorem refl (s : State) : SameEyes s s := ⟨rfl, rfl⟩

/-- A change beside the Belt Distance Unit. -/
theorem beside (h : t.belt = s.belt) : SameEyes s t := ⟨by rw [h], by rw [h]⟩

theorem trans (h : SameEyes s t) (k : SameEyes t u) : SameEyes s u := ⟨k.1.trans h.1, k.2.trans h.2⟩

theorem ite {p : Prop} [Decidable p] (ht : SameEyes s t) (hu : SameEyes s u) : SameEyes s (if p then t else u) := by
  split
  · exact ht
  · exact hu

theorem foldl {α : Type} {f : State → α → State} (h : ∀ a x, SameEyes a (f a x)) (l : List α) (s : State) :
    SameEyes s (l.foldl f s) := by
  induction l generalizing s with
  | nil => exact .refl s
  | cons x l ih => exact (h s x).trans (ih _)

end SameEyes

theorem Calm.sameEyes {s t : State} (h : Calm s t) : SameEyes s t :=
  ⟨h.eyes, congrArg (fun x => x.belt.awaited) h.steady⟩

theorem copyPart_belt (l : Live) (p : ManifestPart) (s : State) : (copyPart l p s).belt = s.belt := by cases l <;> rfl

theorem markDuplicate_belt (l : Live) (s : State) : (markDuplicate l s).belt = s.belt := by cases l <;> rfl

theorem lookup_sameEyes (l : Live) (s : State) : SameEyes s (lookup l s) := by
  unfold lookup; split
  · exact .refl s
  · split
    · split
      · exact SameEyes.trans (.beside (by rw [copyPart_belt]; rfl)) (redecideServed_calm [l] _).sameEyes
      · exact (SameEyes.beside rfl).trans (queryMiss_calm _ _ _).sameEyes
    · exact .refl s

theorem duplicateCheck_sameEyes (l : Live) (s : State) : SameEyes s (duplicateCheck l s) := by
  unfold duplicateCheck; split
  · exact .refl s
  · refine .ite (.refl s) (.foldl (fun a m => ?_) _ s)
    split
    · exact .refl a
    · exact .ite (.beside (markDuplicate_belt _ a)) (.refl a)

theorem lateStray_sameEyes (slot : Nat) (r : StrayReason) (s : State) : SameEyes s (lateStray slot r s) := by
  unfold lateStray; split
  · exact .refl s
  · exact .ite (.refl s) ((SameEyes.beside (updateBag_belt _ _ s)).trans (handStray_calm _ _).sameEyes)

theorem resolveLate_sameEyes (slot : Nat) (r : ReadResult) (s : State) : SameEyes s (resolveLate slot r s) := by
  unfold resolveLate; split
  · exact .refl s
  · split
    · exact .refl s
    · exact .ite ((SameEyes.beside (updateBag_belt _ _ s)).trans (duplicateCheck_sameEyes _ _))
        (.ite (.beside (updateBag_belt _ _ s)) ((SameEyes.beside (updateBag_belt _ _ s)).trans (lateStray_sameEyes _ _ _)))
    · exact (SameEyes.beside (updateBag_belt _ _ s)).trans (lateStray_sameEyes _ _ _)

theorem resolveTimely_sameEyes (slot : Nat) (r : ReadResult) (s : State) : SameEyes s (resolveTimely slot r s) :=
  have h := SameEyes.beside (updateBag_belt slot (timelyRecord r) s)
  .ite h (h.trans (duplicateCheck_sameEyes _ _))

theorem deliver_sameEyes (slot : Nat) (r : ReadResult) (s : State) : SameEyes s (deliver slot r s) := by
  unfold deliver; split
  · exact .refl s
  · rename_i b _
    have hb := SameEyes.beside (updateBag_belt slot (fun b => { b with held := some r }) s)
    have hr := hb.trans (.ite (p := isDecided b = true) (resolveLate_sameEyes slot r _) (resolveTimely_sameEyes slot r _))
    have hw := hr.trans (watchPlates_calm slot (resultPlates r) _).sameEyes
    have hc := SameEyes.ite (p := r = .noRead) (hw.trans (countEvent_calm .noReadResults _).sameEyes) hw
    exact .ite hc (hc.trans (lookup_sameEyes _ _))

theorem removeRecord_sameEyes (slot : Nat) (s : State) : SameEyes s (removeRecord slot s) := by
  have h1 := (withdrawRecord_calm slot s).sameEyes
  have h2 := ((leaveWaiters_calm (.bag slot) (onReader (readerLeft slot) (onTracker (dropRecord slot) (withdrawRecord slot s)))).trans
    (bagLeft_calm slot _)).sameEyes
  have h3 := (removeRecord_calm slot s).sameEyes
  exact (h1.trans (.trans (.beside rfl) h2)).trans (.trans (.beside rfl) h3)

theorem loseRecord_sameEyes (b : BagRecord) (r : StrayReason) (p : Disposition) (s : State) :
    SameEyes s (loseRecord b r p s) := by
  have h := removeRecord_sameEyes b.slot (onTracker (fun t => { t with lost := t.lost + 1 }) s)
  exact ((SameEyes.beside (onTracker_belt _ s)).trans h).trans (handStray_calm _ _).sameEyes

theorem entryMissing_sameEyes (source id : Byte) (s : State) : SameEyes s (entryMissing source id s) := by
  unfold entryMissing; split
  · exact .refl s
  · have h : SameEyes s (enterMissing source id (leaveWaiters (.entry source id) (occupancyFall (removeEntry source id s)))) :=
      .trans (t := atOccupancy ((removeEntry source id s).flow.occupancy - 1) (removeEntry source id s)) (.beside rfl)
        (.trans ((putOccupancy_calm _ _).trans (leaveWaiters_calm (.entry source id) _)).sameEyes (.beside rfl))
    refine .ite ?_ ?_
    · exact h.trans (handStray_calm _ _).sameEyes
    · exact (h.trans (handStray_calm _ _).sameEyes).trans (beginSearch_calm _ _ _ _).sameEyes

/-- R27: the jam point discards the pending trailing edge of EYE_IN (R7). -/
theorem jamReached_eyes (s : State) : (jamReached s).belt.awaited = s.belt.awaited ∧
    ((jamReached s).belt.eyes = s.belt.eyes ∨ (jamReached s).belt.eyes.entry.trailing = none) := by
  unfold jamReached raiseHalting
  split
  · exact ⟨rfl, .inl rfl⟩
  · simp only
    generalize hu : ({ onDrive (joinReason (cfg s).rRun .jam) s with belt := _ } : State) = u
    have h := ((followHold_calm u).trans (countEvent_calm .jamsAndStalls _)).sameEyes
    exact ⟨by rw [h.2, ← hu]; rfl, .inr (by rw [h.1, ← hu])⟩

/-- R3: a report leaves the wait for an edge as it was, and latches no trailing edge. -/
theorem reportPosition_eyes (i : Item) (s : State) : (reportPosition i s).belt.awaited = s.belt.awaited ∧
    ((reportPosition i s).belt.eyes = s.belt.eyes ∨ (reportPosition i s).belt.eyes.entry.trailing = none) := by
  have same : ∀ {t}, SameEyes s t → t.belt.awaited = s.belt.awaited ∧
    (t.belt.eyes = s.belt.eyes ∨ t.belt.eyes.entry.trailing = none) := fun h => ⟨h.2, .inl h.1⟩
  cases i
  · exact same (.ite (deliver_sameEyes _ _ s) (.ite (.refl s) (.ite (.refl s) (deliver_sameEyes _ _ s))))
  · refine same ?_
    show SameEyes s (decideBag _ s)
    unfold decideBag; split
    · exact .refl s
    · exact .ite (.refl s) ((strayOfOutcome_calm _ _ _ _).trans ((schedule_calm _ _ _).trans (handChosen_calm _ _))).sameEyes
  · exact jamReached_eyes s
  · refine same ?_
    show SameEyes s (lostReached _ s)
    unfold lostReached; split
    · exact .refl s
    · exact .ite (.refl s) (.ite (loseRecord_sameEyes _ _ _ s) (loseRecord_sameEyes _ _ _ s))
  · exact same (.refl s)
  · exact same (entryMissing_sameEyes _ _ s)
  · exact same (fireWindow_calm _ _ s).sameEyes
  · exact same (releaseWindow_calm _ _ s).sameEyes
  · exact same (passReached_calm _ _ s).sameEyes
  · exact same (latchGate_calm _ s).sameEyes

theorem closeLength_sameEyes (b : BagRecord) (p : Pos) (s : State) : SameEyes s (closeLength b p s) := by
  unfold closeLength
  simp only
  refine SameEyes.trans ?_ (lengthKnown_calm _ _ _).sameEyes
  exact .beside (onTracker_belt _ _)

/-- R7: the pending trailing edge, once delivered, is pending no more. -/
theorem deliverTrailing_eyes (s : State) : (deliverTrailing .entry s).belt.awaited = s.belt.awaited ∧
    (deliverTrailing .entry s).belt.eyes.entry.trailing = none := by
  unfold deliverTrailing
  split
  · exact ⟨rfl, by assumption⟩
  · rename_i p _
    have h : ∀ u, SameEyes u (trailingDelivered .entry p u) := fun u => by
      refine .ite ?_ (.refl u)
      show SameEyes u (entryTrailing p u)
      unfold entryTrailing
      have hw := (withdraw_calm .jamPoint u).sameEyes
      split
      · exact hw
      · exact .ite (hw.trans (closeLength_sameEyes _ _ _)) (hw.trans (loseRecord_sameEyes _ _ _ _))
    exact ⟨(h _).2, by rw [(h _).1]; rfl⟩

/-! ## All reports of a count (R4) -/

/-- What is still to be delivered: at most one report for each reached registration, and the pending trailing edge. -/
def toDeliver (s : State) : Nat :=
  (dueRegister s).length + if s.belt.eyes.entry.trailing.any (chatterPassed s.belt.d) then 1 else 0

theorem mem_dueRegister {s : State} {r : Registration} :
    r ∈ dueRegister s ↔ r ∈ s.belt.register ∧ reached s.belt.d r.position = true := by simp [dueRegister]

theorem dueRegister_withdraw (i : Item) (s : State) :
    dueRegister (withdraw i s) = (dueRegister s).filter (fun r => decide (r.item ≠ i)) := by
  simp only [dueRegister, withdraw, List.filter_filter]
  exact List.filter_congr (fun _ _ => Bool.and_comm _ _)

/-- R3: a reported registration is removed, and a report registers no position that D has reached. -/
theorem deliver_due (r : Registration) (s : State) :
    (dueRegister (reportPosition r.item (withdraw r.item s))).Sublist
      ((dueRegister s).filter (fun y => decide (y.item ≠ r.item))) :=
  dueRegister_withdraw r.item s ▸ (reportPosition_lawful r.item (withdraw r.item s)).due

theorem allOwners_mem (o : Owner) : o ∈ allOwners := by cases o <;> decide

/-- What may be delivered next: of one owner the position first passed, or the trailing edge. -/
theorem dueNow_position {s : State} {r : Registration} (h : Due.position r ∈ dueNow s) :
    r ∈ dueRegister s ∧ ∀ y ∈ dueRegister s, itemOwner r.item = itemOwner y.item →
      y = r ∨ 0 < posDiff y.position r.position ∨ (y.position = r.position ∧ [r, y].Sublist (dueRegister s)) := by
  have h : ∃ o, firstReached s.belt.d
      (s.belt.register.filter (fun r => decide (itemOwner r.item = o) && !heldBack s r)) = some r := by
    simp only [dueNow, List.mem_append, List.mem_filterMap, Option.map_eq_some_iff, Due.position.injEq, exists_eq_right] at h
    rcases h with ⟨o, -, h⟩ | h
    · exact ⟨o, h⟩
    · split at h <;> simp at h
  obtain ⟨o, ho⟩ := h
  obtain ⟨h1, h2, h3⟩ := firstReached_some ho
  obtain ⟨hm, hp⟩ := List.mem_filter.mp h1
  simp only [Bool.and_eq_true, decide_eq_true_eq, Bool.not_eq_true'] at hp
  refine ⟨mem_dueRegister.mpr ⟨hm, h2⟩, fun y hy hown => ?_⟩
  obtain ⟨hym, hyr⟩ := mem_dueRegister.mp hy
  rcases hh : heldBack s y with _ | _
  · have hyf : y ∈ s.belt.register.filter (fun r => decide (itemOwner r.item = o) && !heldBack s r) := by
      simp [hym, hh, ← hown, hp.1]
    rcases h3 y hyf hyr with h | h | ⟨h, hs⟩
    · exact .inl h
    · exact .inr (.inl h)
    · refine .inr (.inr ⟨h, ?_⟩)
      have hs := (hs.trans List.filter_sublist).filter (fun x => reached s.belt.d x.position)
      simpa [dueRegister, h2, hyr] using hs
  · obtain ⟨e, he, hd⟩ : ∃ e, s.belt.awaited = some e ∧ itemOwner y.item = edgeOwner e ∧ y.position = s.belt.d := by
      simpa [heldBack, Option.any_eq_true] using hh
    refine .inr (.inl ?_)
    have hne : r.position ≠ s.belt.d := fun hc => by
      have : heldBack s r = true := by simp [heldBack, he, hown, hd.1, hc]
      rw [this] at hp
      cases hp.2
    rw [posDiff_reached hyr h2, hd.2]
    have : 0 < passedBy s.belt.d r.position := Nat.pos_of_ne_zero (fun hc => hne (by
      refine (position_eq (d := s.belt.d) (hc.trans ?_))
      simp [passedBy]))
    have : passedBy s.belt.d s.belt.d = 0 := by simp [passedBy]
    omega

/-- With nothing to deliver next, what is reached is held back for an edge (log 40). -/
theorem dueNow_nil {s : State} (h : dueNow s = []) : ∀ y ∈ dueRegister s, heldBack s y = true := by
  intro y hy
  obtain ⟨hym, hyr⟩ := mem_dueRegister.mp hy
  by_contra hh
  rw [Bool.not_eq_true] at hh
  have hn : firstReached s.belt.d (s.belt.register.filter (fun r => decide (itemOwner r.item = itemOwner y.item) && !heldBack s r)) =
      none := by
    have := (List.append_eq_nil_iff.mp h).1
    rw [List.filterMap_eq_nil_iff] at this
    simpa using this (itemOwner y.item) (allOwners_mem _)
  have : y ∈ (s.belt.register.filter (fun r => decide (itemOwner r.item = itemOwner y.item) && !heldBack s r)).filter
      (fun r => reached s.belt.d r.position) := by simp [hym, hh, hyr]
  rw [firstReached_none hn] at this
  cases this

/-- What the reports of a state leave: the reports made, in their order, and the state behind them. -/
structure AllReported (s : State) (l : List Registration) (t : State) : Prop where
  reports : Reports s l t
  lawful : Lawful s t
  awaited : t.belt.awaited = s.belt.awaited
  due : ∀ r ∈ l, r ∈ dueRegister s
  order : ReportOrder (dueRegister s) l
  rest : ∀ y ∈ dueRegister t, heldBack t y = true

theorem AllReported.choose {s t : State} {l : List Registration} (h : AllReported (spendChoice s) l t) : AllReported s l t :=
  ⟨.choose h.reports, (spendChoice_lawful s).trans h.lawful, h.awaited, h.due, h.order, h.rest⟩

theorem ReportOrder.mono {a b l : List Registration} (h : ReportOrder a l) (hs : a.Sublist b) : ReportOrder b l :=
  ⟨h.once, h.passed.imp (fun k ho => (k ho).imp_right (fun x => ⟨x.1, x.2.trans hs⟩))⟩

theorem AllReported.deliver {s t : State} {x : Due} {l : List Registration} (hx : x ∈ dueNow s)
    (h : AllReported (deliverDue x s) l t) :
    ∃ l', AllReported s l' t := by
  cases x with
  | position r =>
    obtain ⟨hr, hf⟩ := dueNow_position hx
    have hd := deliver_due r s
    have hsub : (dueRegister (deliverDue (.position r) s)).Sublist (dueRegister s) := hd.trans List.filter_sublist
    have hne : ∀ y ∈ l, y.item ≠ r.item := fun y hy => by
      have := hd.subset (h.due y hy)
      simpa using (List.mem_filter.mp this).2
    refine ⟨r :: l, .report (mem_dueRegister.mp hr).1 (mem_dueRegister.mp hr).2 h.reports,
      (deliverDue_lawful _ s).trans h.lawful, ?_, ?_, ⟨?_, ?_⟩, h.rest⟩
    · exact h.awaited.trans (reportPosition_eyes _ _).1
    · intro y hy
      rcases List.mem_cons.mp hy with rfl | hy
      · exact hr
      · exact hsub.subset (h.due y hy)
    · rw [List.map_cons, List.nodup_cons]
      exact ⟨fun hc => by
        obtain ⟨y, hy, he⟩ := List.mem_map.mp hc
        exact hne y hy he, h.order.once⟩
    · refine List.pairwise_cons.mpr ⟨fun y hy ho => ?_, (h.order.mono hsub).passed⟩
      rcases hf y (hsub.subset (h.due y hy)) ho with he | he | he
      · exact absurd (by rw [he]) (hne y hy)
      · exact .inl he
      · exact .inr he
  | trailing =>
    have hp : ∃ p, s.belt.eyes.entry.trailing = some p ∧ chatterPassed s.belt.d p = true := by
      simp only [dueNow, List.mem_append, List.mem_filterMap, Option.map_eq_some_iff, reduceCtorEq, and_false, exists_false,
        false_or] at hx
      split at hx
      · rename_i hd
        simpa [Option.any_eq_true] using hd
      · cases hx
    obtain ⟨p, h1, h2⟩ := hp
    have hsub := (deliverDue_lawful .trailing s).due
    exact ⟨l, .edge h1 (of_decide_eq_true h2) h.reports, (deliverDue_lawful _ s).trans h.lawful,
      h.awaited.trans (deliverTrailing_eyes s).1, fun y hy => hsub.subset (h.due y hy), h.order.mono hsub, h.rest⟩

theorem toDeliver_deliver {s : State} {x : Due} (hx : x ∈ dueNow s) : toDeliver (deliverDue x s) < toDeliver s := by
  cases x with
  | position r =>
    obtain ⟨hr, -⟩ := dueNow_position hx
    have h1 := (deliver_due r s).length_le
    have h2 : ((dueRegister s).filter (fun y => decide (y.item ≠ r.item))).length < (dueRegister s).length :=
      List.length_filter_lt_length_iff_exists.mpr ⟨r, hr, by simp⟩
    have h3 : (if (deliverDue (.position r) s).belt.eyes.entry.trailing.any (chatterPassed (deliverDue (.position r) s).belt.d) then 1 else 0)
        ≤ if s.belt.eyes.entry.trailing.any (chatterPassed s.belt.d) then 1 else 0 := by
      rw [(deliverDue_lawful (.position r) s).d]
      rcases (reportPosition_eyes r.item (withdraw r.item s)).2 with he | he
      · show (if (reportPosition r.item (withdraw r.item s)).belt.eyes.entry.trailing.any _ then 1 else 0) ≤ _
        rw [he]
        exact le_rfl
      · show (if (reportPosition r.item (withdraw r.item s)).belt.eyes.entry.trailing.any _ then 1 else 0) ≤ _
        rw [he]
        simp
    simp only [toDeliver]
    have h1' : (dueRegister (deliverDue (.position r) s)).length ≤ _ := h1
    omega
  | trailing =>
    have hp : s.belt.eyes.entry.trailing.any (chatterPassed s.belt.d) = true := by
      simp only [dueNow, List.mem_append, List.mem_filterMap, Option.map_eq_some_iff, reduceCtorEq, and_false, exists_false,
        false_or] at hx
      split at hx
      · assumption
      · cases hx
    have h1 := (deliverDue_lawful .trailing s).due.length_le
    have h2 : (deliverDue .trailing s).belt.eyes.entry.trailing = none := (deliverTrailing_eyes s).2
    simp only [toDeliver, hp, h2, Option.any_none, Bool.false_eq_true, if_false, if_true]
    omega

/-- R4: with as many turns as there is to deliver, everything is reported. -/
theorem reportAll_reports (n : Nat) (s : State) (h : toDeliver s ≤ n) : ∃ l, AllReported s l (reportAll n s) := by
  have done : ∀ s, dueNow s = [] → AllReported s [] s := fun s hs =>
    ⟨.finish s, .refl s, rfl, by simp, ⟨by simp, by simp⟩, dueNow_nil hs⟩
  induction n generalizing s with
  | zero =>
    refine ⟨[], done s (List.eq_nil_iff_forall_not_mem.mpr (fun x hx => ?_))⟩
    have := toDeliver_deliver hx
    omega
  | succ n ih =>
    have next : ∀ s x, toDeliver s ≤ n + 1 → x ∈ dueNow s → ∃ l, AllReported s l (reportAll n (deliverDue x s)) :=
      fun s x hs hx => by
        obtain ⟨l, hl⟩ := ih (deliverDue x s) (by have := toDeliver_deliver hx; omega)
        exact hl.deliver hx
    unfold reportAll
    split
    · rename_i h0
      exact ⟨[], done s h0⟩
    · rename_i x hx
      exact next s x h (by simp [hx])
    · rename_i x xs _ hx
      obtain ⟨l, hl⟩ := next (spendChoice s) ((x :: xs).getD (freeIndex s (x :: xs).length) x) h (by
        show _ ∈ dueNow s
        rw [hx, List.getD_eq_getElem?_getD]
        rcases hg : (x :: xs)[freeIndex s (x :: xs).length]? with _ | y
        · simp
        · exact List.mem_of_getElem? hg)
      exact ⟨l, hl.choose⟩

/-- R4: all that the register has due is reported. -/
theorem reportReached_reports (s : State) : ∃ l, AllReported s l (reportReached s) := by
  refine reportAll_reports _ s ?_
  have : (dueRegister s).length ≤ s.belt.register.length := List.length_filter_le _ _
  simp only [toDeliver]
  split <;> omega

/-! ## A count (R1) -/

/-- R13, R15: a count restarts a running quiet timer. -/
theorem restartQuiet_eq (d : Drive) : restartQuiet d = { d with quiet := d.quiet.map (fun _ => 100) } := by
  unfold restartQuiet
  rcases d with ⟨_, _, _, quiet, _⟩
  cases quiet <;> rfl

theorem otherTrailing_none (s : State)
    (h : ∀ e p, e ≠ .entry → (eyeOf s e).trailing = some p → posDiff s.belt.d p < 20000) : otherTrailing s = s := by
  have : ∀ e, e ≠ .entry → (eyeOf s e).trailing.any (chatterPassed s.belt.d) = false := by
    intro e he
    rcases ht : (eyeOf s e).trailing with _ | p
    · rfl
    · exact decide_eq_false (by have := h e p he ht; simp only [Config.chatter]; omega)
  simp [otherTrailing, this]

/-- R1: a count with no trailing edge due at the four other eyes moves D and n, does what R13 and R15 say, and makes its reports. -/
theorem encoderSample_taken (a b forward : Bool) (s : State) (ha : acting s = true)
    (hq : quadrature s.lines.encA s.lines.encB a b = some forward)
    (ht : ∀ e p, e ≠ .entry → (eyeOf s e).trailing = some p → posDiff (movedTo forward s) p < 20000) :
    encoderSample a b s = reportReached (chooseEdge (countTaken a b forward s)) := by
  have h : beltRestart forward (onDrive restartQuiet (onBeltUnit (moveBelt (cfg s) forward)
      { s with lines := { s.lines with encA := a, encB := b } })) = countTaken a b forward s := by
    unfold beltRestart
    cases forward <;> rcases hr : s.belt.restartArmed with _ | _ <;>
      simp [countTaken, restoreOutputs, onBeltUnit, onDrive, moveBelt, movedTo, restartQuiet_eq, hr]
  simp only [encoderSample, hq]
  rw [if_pos ha, beltCount]
  show reportReached (chooseEdge (otherTrailing (beltRestart forward (onDrive restartQuiet (onBeltUnit (moveBelt (cfg s) forward)
    { s with lines := { s.lines with encA := a, encB := b } }))))) = _
  rw [h, otherTrailing_none (countTaken a b forward s) ht]

end Sys2Proof.Machine
end

