-- ==== Sys2Proof/Laws/Stop.lean ====
section
/-! SUPPORT. What an emergency stop does to the Divert Scheduler (R115): which records it marks, and that it changes nothing
else but the hold-off. -/

namespace Sys2Proof.Machine

/-- The state in which the records that satisfy p carry UNCERTAIN too, and nothing else differs. -/
def markedWhere (p : BagRecord → Bool) (s : State) : State :=
  { s with tracker := { s.tracker with segment := s.tracker.segment.map (fun b =>
      { b with flags := { b.flags with uncertain := b.flags.uncertain || p b } }) } }

/-- R115: the record stands live in one of the fired windows, and its pass position at the diverter has been reached. -/
def pivotPassed (s : State) (k : Diverter) (ws : List Window) (b : BagRecord) : Bool :=
  ws.any (fun w => w.fired && (liveSlots w).contains b.slot) &&
    (diverterCfg s k).any (fun x => reached s.belt.d (b.entry + mm x.position))

theorem markedWhere_never (s : State) : markedWhere (fun _ => false) s = s := by simp [markedWhere]

/-- Two rounds of marks that look at slot and entry position alone are one round. -/
theorem markedWhere_twice (f g : Nat → Pos → Bool) (s : State) :
    markedWhere (fun b => g b.slot b.entry) (markedWhere (fun b => f b.slot b.entry) s) =
      markedWhere (fun b => f b.slot b.entry || g b.slot b.entry) s := by
  simp [markedWhere, Function.comp_def, Bool.or_assoc]

theorem markUncertain_marks (k : Diverter) (slot : Nat) (s : State) :
    markUncertain k slot s = markedWhere (fun b =>
      decide (b.slot = slot) && (diverterCfg s k).any (fun x => reached s.belt.d (b.entry + mm x.position))) s := by
  unfold markUncertain
  split
  · rename_i h; simp [h, markedWhere]
  · rename_i x h
    simp only [h, updateBag, markedWhere, Option.any_some]
    congr 2
    refine List.map_congr_left fun b _ => ?_
    by_cases a : b.slot = slot
    · subst a
      cases c : reached s.belt.d (b.entry + mm x.position) <;> simp
    · simp [a]

/-- The marks of a list of steps, each of which marks by what the state holds outside the segment, are one round. -/
theorem foldl_marks {α : Type} (step : State → α → State) (q : State → α → Nat → Pos → Bool)
    (hstep : ∀ s a, step s a = markedWhere (fun b => q s a b.slot b.entry) s)
    (hq : ∀ p s a, q (markedWhere p s) a = q s a) (l : List α) (s : State) :
    l.foldl step s = markedWhere (fun b => l.any (fun a => q s a b.slot b.entry)) s := by
  induction l generalizing s with
  | nil => simp [markedWhere_never]
  | cons a l ih =>
    rw [List.foldl_cons, ih, hstep, markedWhere_twice (q s a) (fun n e => l.any (fun c => q _ c n e))]
    simp [hq]

/-- R115: what the emergency stop does to the scheduler: the hold-off is set and exactly the live bags of fired windows whose
pass position has been reached gain UNCERTAIN. -/
theorem holdOutputs_marks (s : State) :
    holdOutputs s = markedWhere (fun b => allDiverters.any (fun k => pivotPassed s k (windowList (windowsOf s k)) b))
      { s with holdOff := true } := by
  let past := fun (s : State) (k : Diverter) (e : Pos) => (diverterCfg s k).any (fun x => reached s.belt.d (e + mm x.position))
  have bags : ∀ k (l : List Nat) s, l.foldl (fun x slot => markUncertain k slot x) s =
      markedWhere (fun b => l.any (fun n => decide (b.slot = n) && past s k b.entry)) s := fun k =>
    foldl_marks _ (fun s n slot e => decide (slot = n) && past s k e) (fun s n => markUncertain_marks k n s) (fun _ _ _ => rfl)
  have one : ∀ k s (w : Window),
      (if w.fired then (liveSlots w).foldl (fun x slot => markUncertain k slot x) s else s) =
        markedWhere (fun b => w.fired && ((liveSlots w).any (fun n => decide (b.slot = n) && past s k b.entry))) s := by
    intro k s w
    cases h : w.fired <;> simp [markedWhere_never, bags]
  unfold holdOutputs
  rw [foldl_marks _ (fun s k slot e => (windowList (windowsOf s k)).any (fun w => w.fired &&
    ((liveSlots w).any (fun n => decide (slot = n) && past s k e))))
    (fun s k => foldl_marks _ (fun s (w : Window) slot e => w.fired &&
      ((liveSlots w).any (fun n => decide (slot = n) && past s k e))) (one k) (fun _ _ _ => rfl) _ s) (fun _ _ _ => rfl)]
  congr 1
  funext b
  congr 1
  funext k
  rw [Bool.eq_iff_iff]
  simp only [pivotPassed, List.any_eq_true, Bool.and_eq_true, decide_eq_true_eq, List.contains_iff_mem]
  constructor
  · rintro ⟨w, hw, hf, n, hn, rfl, hp⟩; exact ⟨⟨w, hw, hf, hn⟩, hp⟩
  · rintro ⟨⟨w, hw, hf, hn⟩, hp⟩; exact ⟨w, hw, hf, _, hn, rfl, hp⟩
end Sys2Proof.Machine
end

