-- ==== Sys2Proof/Tests/Slice0.lean ====
section
/-! SUPPORT. Tests of one step each, their expected values worked out by hand from the datasheet's examples; ill-formed
commands that each check refuses; and for every statement with hypotheses a state that meets them. -/

namespace Sys2Proof.Tests

open Sys2Proof Sys2Proof.Machine

/-! ## A junction and states of it -/

/-- The configuration of the ramp example of chapter 1 and the queue example of chapter 2. -/
def site : JunctionConfig :=
  { exceptionOutlet := .o3, preferred := [.o1, .o2, .o3, .o0], loopHead := false, readerPresent := true, ships := 6,
    highMark := 12, lowMark := 6, holdQuanta := 50, passLimit := 3, holdMargin := 50,
    counter1 := ⟨some .strays, 3, false⟩, counter2 := ⟨some .noReadResults, 2, true⟩, scale := 500, vMax := 2000,
    rRun := 750, aUp := 1000, aDn := 2500, lMax := 900, lJam := 1200, exitPosition := 12000, exitTolerance := 300,
    readerPosition := 400, decisionPosition := 1500, claimDistance := 300,
    diverters := ⟨none, some ⟨4200, 120, 150, 200, 200, 900⟩, some ⟨9000, 120, 150, 200, 200, 900⟩⟩,
    outlets := ⟨some ⟨.peer, 41, 0xFF0000, false⟩, none, some ⟨.terminal, 0, 0xC000, false⟩,
      some ⟨.terminal, 0, 0x1, false⟩⟩,
    sources := [⟨17, 2000, 100, false⟩] }

/-- The node after LOADING in a node state, at rest with an empty queue. -/
def at_ (n : NodeState) : State :=
  { State.reset with
    loader := { State.reset.loader with node := n, station := 30, config := some site, reading := false, listen := some 0 }
    routes := { rows := rowsFor site, advertised := 0xFFC000 }
    handoff := { peers := peersFor site }
    exc := { counter1 := counterFor site.counter1, counter2 := counterFor site.counter2 } }

/-- The node running, its stop-reason set empty, the drive in a state at a reference. -/
def driving (st : DriveState) (r : Nat) : State :=
  { at_ .running with drive := { reasons := { notRunning := false }, state := st, r := r } }

/-- The node running at r_run. -/
def on : State := driving .run 750

/-- The state with the stop-reason set replaced. -/
def withReasons (x : Reasons) (s : State) : State := { s with drive := { s.drive with reasons := x } }

/-- The state a command leaves. -/
def after (o : Host.Outcome State Fault Refusal) : State :=
  match o with
  | .next t => t
  | .fault _ => State.reset
  | .refused _ => State.reset

/-- A frame from the source 17, and one from the peer 41, for this node. -/
def fromSource : Header := ⟨30, 17⟩
def fromPeer : Header := ⟨30, 41⟩

/-- A bag record of a slot on the belt. -/
def bagAt (slot : Nat) (e : Pos) : BagRecord := { slot := slot, created := slot, entry := e, length := some 600, tracking := .onBelt }

/-- The state with a segment queue, its counts in balance. -/
def withBags (l : List BagRecord) (s : State) : State :=
  { s with tracker := { s.tracker with segment := l, entered := BitVec.ofNat 32 l.length } }

/-- Frames that wait. -/
def waitingFrames (n : Nat) : List Queued := List.replicate n ⟨17, .counterClear, 0⟩

def withWaiting (l : List Queued) (s : State) : State := { s with bus := { s.bus with waiting := l } }

def atD (d : Pos) (s : State) : State := { s with belt := { s.belt with d := d } }

def withEntryEye (e : EyeState) (s : State) : State :=
  { s with belt := { s.belt with eyes := { s.belt.eyes with entry := e } } }

/-- The junction of section 6.11 at a position: W1 of diverter 2 has fired with A and B, and A's pass position has been
reported, so that only B's is registered. -/
def firedAt (d : Pos) : State :=
  let bag := fun (slot : Nat) (e : Pos) => { bagAt slot e with chosen := some .o2, tracking := .diverting }
  let w : Window := ⟨0, [⟨0, 1000000, some 700, false⟩, ⟨1, 2200000, some 600, false⟩], 5020000, some 7100000, true⟩
  let s := atD d (withBags [bag 0 1000000, bag 1 2200000] on)
  { s with divert := { windows := ⟨{}, ⟨some w, none⟩, {}⟩ }
           belt := { s.belt with register := [⟨.releasePoint .d2 0, 7100000⟩, ⟨.passPosition .d2 1, 6400000⟩] } }

/-! ## Commands that are not well formed -/

theorem test_wf_header_source_zero : (Instr.epochReceived ⟨30, 0⟩ 1).wellFormed = false := by decide
theorem test_wf_header_source_126 : (Instr.counterClearReceived ⟨30, 126⟩).wellFormed = false := by decide
theorem test_wf_image_without_header : (Instr.configReadComplete [1, 0, 61, 0]).wellFormed = false := by decide
theorem test_wf_five_plates : (Instr.readReply true 0 [1, 2, 3, 4, 5]).wellFormed = false := by decide
theorem test_wf_plate_zero : (Instr.queryDeadline 0).wellFormed = false := by decide
theorem test_wf_plate_too_large : (Instr.queryDeadline 10000000000).wellFormed = false := by decide
theorem test_wf_slot_32 : (Instr.confirmTimeout 32).wellFormed = false := by decide
theorem test_wf_reply_too_long : (Instr.statusReplyReceived ⟨30, 17⟩ 1 0 (List.replicate 47 0)).wellFormed = false := by decide
theorem test_wf_own_frame_too_long : (Instr.ownNumberFrame 127 1 (List.replicate 49 0)).wellFormed = false := by decide
theorem test_wf_frame_of_57_bytes : (Instr.frameDiscarded ⟨List.replicate 57 0, true⟩).wellFormed = false := by decide
theorem test_wf_boundaries_pass :
    (Instr.confirmTimeout 31).wellFormed = true ∧ (Instr.queryDeadline 9999999999).wellFormed = true ∧
      (Instr.epochReceived ⟨30, 125⟩ 1).wellFormed = true := by decide

/-! ## Belt and drive (chapter 1) -/

/-- Example: comparison across the wrap, the last three rows. -/
theorem test_reached_across_the_wrap :
    reached 4294967000 1000000 = false ∧ reached 999800 1000000 = false ∧ reached 1000200 1000000 = true := by decide

/-- R1: ENC_A leads ENC_B in forward travel; D goes down again in backward travel. -/
theorem test_encoder_forward_and_back :
    (after (exec (.encoderCount true false) on)).belt.d = 500 ∧
      (after (exec (.encoderCount false true) on)).belt.d = (0 : Pos) - 500 := by decide

/-- Example: stall and clearing: n = 14 gives v = 700 and a stall window, n = 15 gives 750 and none. -/
theorem test_speed_window :
    let ended := fun (n : Int) => after (exec .speedWindowEnd { on with belt := { on.belt with n := n } })
    (ended 14).belt.v = 700 ∧ (ended 14).drive.stall = 1 ∧ (ended 15).belt.v = 750 ∧ (ended 15).drive.stall = 0 := by decide

/-- Example: ramp, hold and release: 0 to 5; 750 to 738 in DECEL; the last step takes 6 to 0. -/
theorem test_ramp_up : (after (exec .rampStep (driving .accel 0))).drive.r = 5 := by decide
theorem test_ramp_down :
    (after (exec .rampStep (withReasons { hold := true, notRunning := false } (driving .decel 750)))).drive.r = 738 ∧
      (after (exec .rampStep (withReasons { hold := true, notRunning := false } (driving .decel 6)))).drive.state = .stopped := by
  decide

/-- Example: stall and clearing, at 2,000 ms and 40,000 ms. -/
theorem test_stall_halts : (after (exec .stallDetected on)).drive = ⟨⟨false, false, true, false, false, false⟩, .halted, 0, some 100, 0⟩ := by
  decide
theorem test_jam_clear_starts_the_belt :
    (after (exec .jamclrActivation (withReasons { stall := true, notRunning := false } (driving .stopped 0)))).drive.state = .accel := by
  decide

/-- Examples: emergency stop from RUN: HALTED at 0; STOPPED after the quiet time; ACCEL when ESTOP_N is released. Section 6.11,
first row: at D = 5,300,000 A is marked (4,300,000 ≥ 4,200,000) and B is not (3,100,000). R2 at its boundary: A is marked at
5,200,000 exactly and not where the belt has moved back one count from there, its pass position being reported all the same. -/
theorem test_estop_halts :
    (after (exec .estopAsserted on)).drive.state = .halted ∧ (after (exec .estopAsserted on)).holdOff = true ∧
    let stop := fun d => after (exec .estopAsserted (firedAt d))
    let marks := fun d => (stop d).tracker.segment.map (fun b => b.flags.uncertain)
    (stop 5300000).pins.div.get .d2 = false ∧ marks 5300000 = [true, false] ∧ marks 5200000 = [true, false] ∧
      marks 5199500 = [false, false] := by decide
theorem test_estop_release_arms :
    let s := withReasons { estop := true, notRunning := false } (driving .stopped 0)
    (after (exec .estopDeasserted s)).drive.state = .accel ∧ (after (exec .estopDeasserted s)).belt.restartArmed = true := by decide
theorem test_quiet_time_ends :
    let s := withReasons { estop := true, notRunning := false } (driving .halted 0)
    (after (exec .haltQuietTimeout { s with drive := { s.drive with quiet := some 0 } })).drive.state = .stopped := by decide

/-- Example: the chatter filter at the entry eye, the second row: the reblock at 10,015,000 is absorbed. -/
theorem test_reblock_is_absorbed :
    (after (exec (.eyeLeadingEdge .entry) (atD 10015000 (withEntryEye ⟨false, true, some 10000000⟩ on)))).belt.eyes.entry =
      ⟨true, true, none⟩ := by decide

/-! ## Queue, outlets and reader (chapters 2 and 3) -/

/-- Sequence: arrivals: slot 1 enters at 21,100,000 behind a trailing end of 20,650,000: gap 450,000. -/
theorem test_arrival_gap :
    let s := { withBags [{ bagAt 0 20000000 with length := some 650 }] on with
      tracker := { (withBags [{ bagAt 0 20000000 with length := some 650 }] on).tracker with floor := some 20650000 } }
    ((after (exec (.eyeLeadingEdge .entry) (atD 21100000 s))).tracker.segment.map (fun b => (b.slot, b.entry, b.gapAhead))) =
      [(0, 20000000, none), (1, 21100000, some 450000)] := by decide

/-- Sequence: four ways off the belt, the CFM2 edge: slot 0 departs through outlet 2. -/
theorem test_confirm_edge_departs :
    let s := atD 16500000 (withBags [{ bagAt 0 10000000 with chosen := some .o2, tracking := .diverting, confirm := some 500 },
      { bagAt 1 10900000 with chosen := some .o0, tracking := .decided }] on)
    let t := after (exec (.eyeLeadingEdge (.confirm .d2)) s)
    segmentSlots t = [1] ∧ t.tracker.departed = 1 ∧ t.tracker.history.map Departure.outlet = [.o2] := by decide

/-- The same, the EYE_X0 edge at 22,880,000: slot 1 departs through outlet 0 with a HANDOFF to 41. -/
theorem test_exit_edge_hands_off :
    let s := atD 22880000 (withBags [{ bagAt 1 10900000 with chosen := some .o0, tracking := .decided },
      { bagAt 2 11800000 with chosen := some .o0, tracking := .decided }] on)
    let t := after (exec (.eyeLeadingEdge .exit) s)
    segmentSlots t = [2] ∧ t.tracker.history.map (fun d => (d.peer, d.state, d.attempts)) = [(41, .awaitingAccept, 1)] ∧
      t.bus.waiting.map queuedClass = [3] := by decide

/-- R45, R47: the third miss in a row sets READER_DOWN. -/
theorem test_third_miss_sets_down :
    let s := { on with reader := { on.reader with outstanding := some ⟨4, .poll, 0⟩, misses := 2 } }
    (after (exec .pollTimeout s)).reader.down = true ∧ (after (exec .pollTimeout s)).reader.idle = some 500 := by decide

/-- R50: one plate read on a record without one. -/
theorem test_read_reply_gives_the_plate :
    let s := { withBags [bagAt 3 0] on with reader := { on.reader with outstanding := some ⟨9, .read (some 3), 40⟩ } }
    ((after (exec (.readReply true 9 [4400000149]) s)).tracker.segment.map (fun b => (b.plate, b.identity))) =
      [(4400000149, .read)] := by decide

/-! ## Cache and routes (chapters 4 and 5) -/

/-- A manifest part of a revision, and a way of set 21. -/
def partOf (rev : BitVec 16) : ManifestPart := ⟨2, 8114, 14, .standard, rev⟩
def wayOf (rank plate : Nat) (epoch : Byte) : Way := ⟨rank, some ⟨4400000000 + plate, partOf 11, epoch⟩⟩

/-- Sequence: one set across an epoch change, the first install: the old-epoch way 1 is replaced. -/
theorem test_install_replaces_the_old_epoch :
    installInSet 3 ⟨4400000021, partOf 11, 3⟩ [wayOf 0 85 3, wayOf 1 149 2, wayOf 2 213 3, wayOf 3 277 3] =
      [wayOf 1 85 3, wayOf 0 21 3, wayOf 2 213 3, wayOf 3 277 3] := by decide

/-- The same, the walk at 22 ms: the ways 1, 2, 3 are emptied and keep ranks 1, 2, 3. -/
theorem test_walk_empties_the_set :
    sweepSet 4 [wayOf 0 405 4, wayOf 3 21 3, wayOf 1 341 3, wayOf 2 277 3] =
      [wayOf 0 405 4, ⟨1, none⟩, ⟨2, none⟩, ⟨3, none⟩] := by decide

/-- Example: one UPDATE, four holders, slot 9: the over-length record holds STANDARD as OVERSIZE. -/
theorem test_update_fills_an_unresolved_record :
    let s := withBags [{ bagAt 9 0 with plate := 4400000149, overLength := true, status := .unresolved }] on
    ((after (exec (.updateReceived fromSource ⟨4400000149, rawManifest (partOf 12), 0⟩) s)).tracker.segment.map
      (fun b => (b.part, b.status))) = [(some ⟨2, 8114, 14, .oversize, 12⟩, .resolved)] := by decide

/-- R80: DEST_CLOSE adds and removes. -/
theorem test_dest_close :
    (after (exec (.destCloseReceived fromSource 6 1) on)).routes.late = 6 ∧
      (after (exec (.destCloseReceived fromSource 4 0) { on with routes := { on.routes with late := 6 } })).routes.late = 2 := by
  decide

/-! ## Diverters, handoffs, flow (chapters 6 to 8) -/

/-- Example: the lead check: 240,000 in RUN at 2,000 mm/s with T = 120, 247,200 in ACCEL. -/
theorem test_lead :
    let s := fun st => { driving st 750 with belt := { on.belt with v := 2000 } }
    leadOf (s .run) ⟨4200, 120, 150, 200, 200, 900⟩ = 240000 ∧ leadOf (s .accel) ⟨4200, 120, 150, 200, 200, 900⟩ = 247200 := by
  decide

/-- Example: stop positions: 450,000 at 1,500 mm/s; the stop position for outlet 0 is 14,900,000. -/
theorem test_stop_position :
    let s := { on with belt := { on.belt with v := 1500 } }
    stopDistance s = 450000 ∧ stopPoint s .o0 (bagAt 2 3400000) = some 14900000 := by decide

/-- R140: a PATH of the peer narrows the advertised reach. -/
theorem test_path_is_learned :
    (after (exec (.pathReceived fromPeer 0x10000) on)).routes.advertised = 0x1C000 := by decide

/-- R144: a HOLD of 5 quanta lapses 100 ms later. -/
theorem test_hold_expiry_time :
    ((after (exec (.holdReceived fromPeer 5) on)).routes.rows.o0.bind RouteRow.holdExpiry) = some 100 := by decide

/-! ## Counters, bus, start-up (chapters 9 to 11) -/

/-- Sequence: a chained pair: a NO_READ result counts in counter 2 only while counter 1 is frozen. -/
theorem test_chained_pair :
    let frozen := { on with exc := { on.exc with counter1 := { on.exc.counter1 with value := 3, frozen := true } } }
    (countEvent .noReadResults on).exc.counter2.value = 0 ∧ (countEvent .noReadResults frozen).exc.counter2.value = 1 := by
  decide

/-- R172: the register 1 steps to 2, 0x8000 to 1: the top bit alone is fed back. -/
theorem test_lfsr : lfsrStep 1 = 2 ∧ lfsrStep 0x8000 = 1 ∧ lfsrStep 0x8400 = 0x0800 := by decide

/-- R179: the CRC of the digits 1 to 9 (PRESUMED: the check value of this CRC that is in general use). -/
theorem test_crc : crcOf [0x31, 0x32, 0x33, 0x34, 0x35, 0x36, 0x37, 0x38, 0x39] = 0x29B1 := by decide +kernel

/-- R179: the frame of a HOLD of 5 quanta from 41 to 30, its bytes in the order of the table. -/
theorem test_hold_frame : (frameBytes 41 30 (.hold 5)).take 6 = [0x5A, 30, 41, 0x19, 1, 5] := by decide

/-- R184: the second station of the sequence of chapter 11 at 16 ms. -/
theorem test_second_station :
    let t := after (exec (.ownNumberFrame 127 1 []) (at_ .joining))
    t.loader.node = .duplicate ∧ t.loader.duplicates = 1 ∧ t.pins.alert = true := by decide

/-- R183: at the end of the listen time the belt starts. -/
theorem test_listen_time_starts_the_belt :
    (after (exec .listenTimeout (at_ .joining))).drive.state = .accel := by decide

/-! ## Witnesses: for each statement with hypotheses, states and operands that meet them together, clause by clause -/

/-- The premises of `Taken` as one evaluation. -/
def takes (h : Header) (s : State) : Bool :=
  !onLine s.bus && stationNumber h.src && decide (h.src ≠ s.loader.station) && decide (h.dest = 127 ∨ stationNumber s.loader.station = true ∧ h.dest = s.loader.station) &&
    !peerDown s h.src && !s.inReset && s.owed.isEmpty && s.bus.due.isEmpty && s.belt.awaited.isNone

theorem taken_of_takes {h : Header} {s : State} (x : takes h s = true) : Taken h s := by
  simp only [takes, Bool.and_eq_true, Bool.not_eq_true', decide_eq_true_eq, List.isEmpty_iff, Option.isNone_iff_eq_none] at x
  obtain ⟨⟨⟨⟨⟨⟨⟨⟨a, b⟩, c⟩, d⟩, e⟩, f⟩, g⟩, h⟩, i⟩ := x
  exact ⟨⟨a, b, c, d⟩, ⟨f, g, h, i⟩, e⟩

/-- The premises of `RisingQueue` as one evaluation, for a queue of closed records. -/
def rises (s : State) : Bool :=
  acting s && decide (segmentSlots s).Nodup && !s.tracker.segment.isEmpty && s.tracker.segment.all (fun b => b.length.isSome) &&
    decide (s.tracker.segment.Pairwise (fun a b => 0 ≤ posDiff b.entry a.entry ∧
      a.length.all (fun l => decide (0 ≤ posDiff b.entry (a.entry + mm l))) = true)) &&
    s.tracker.segment.all (fun b => decide ((posDiff s.belt.d b.entry).natAbs < 2 ^ 29) && b.length.all (fun l =>
      decide (l ≤ 5000 ∧ l ≠ 0) && s.tracker.floor.any (fun f => decide (0 ≤ posDiff f (b.entry + mm l))))) &&
    s.tracker.floor.all (fun f => decide ((posDiff s.belt.d f).natAbs < 2 ^ 29))

theorem rising_of_rises {s : State} (x : rises s = true) : RisingQueue s := by
  simp only [rises, Bool.and_eq_true, decide_eq_true_eq, List.all_eq_true, Bool.not_eq_true', List.isEmpty_eq_false_iff] at x
  obtain ⟨⟨⟨⟨⟨⟨a, b⟩, c⟩, d⟩, e⟩, f⟩, g⟩ := x
  have closed : ∀ y ∈ s.tracker.segment, ∀ l, y.length = some l →
      (l ≤ 5000 ∧ l ≠ 0) ∧ ∃ z, s.tracker.floor = some z ∧ 0 ≤ posDiff z (y.entry + mm l) := by
    intro y h l k
    have m := (f y h).2
    simpa [k, Option.any_eq_true] using m
  refine ⟨⟨fun h => by simp [a] at h, b, e.imp (fun {y z} h => ⟨h.1, fun l k => by simpa [k] using h.2⟩),
      fun y h l k => (closed y h l k).2, fun h => absurd h c, fun y h k => by
        have m := d y h
        rw [k] at m
        cases m⟩,
    ⟨fun y h => ⟨(f y h).1, fun l k => (closed y h l k).1.1⟩, fun z k => by simpa [k] using g⟩, fun y h k => ?_⟩
  exact (closed y h 0 k).1.2 rfl

theorem test_witness_StepRunsFrontCommand :
    ({ on with pending := [.rampStep, .speedWindowEnd] } : State).pending = .rampStep :: [.speedWindowEnd] := rfl

theorem test_witness_EmptyQueueRunsTheTimeBase :
    (State.reset.pending = [] ∧ ({ State.reset with inReset := true } : State).inReset = true) ∧
    (dueCommands { State.reset with loader := { State.reset.loader with readdress := some 0 } } = [.configReaddress]) ∧
    (2 ≤ (dueCommands { on with drive := { on.drive with quiet := some 0, stall := 200 } }).length) ∧
    (dueCommands on = [] ∧ on.drive.state = .run ∧ on.pending = [] ∧ on.inReset = false) ∧
    (dueCommands State.reset = [] ∧ State.reset.drive.state = .stopped) ∧
    (dueCommands { on with time := 9 } = [] ∧ (({ on with time := 9 } : State).time + 1) % 10 = 0) ∧
    (let s := { on with cache := { on.cache with walk := some 63 } }; dueCommands s = [] ∧ s.cache.walk.isSome = true) := by
  decide

/-- The field lines between two samples, FULL2 asserted for 499 samples, a watch entry 600 s old. -/
def sampled : State :=
  { on with
    time := 600999
    lines := { on.lines with estop := true, estopSample := true, jamclr := true, jamclrSample := true, full := ⟨false, true, false⟩ }
    flow := { on.flow with runs := ⟨0, 499, 0⟩ }
    exc := { on.exc with watch := [⟨7, 1, 17⟩] } }

theorem test_witness_EmptyQueueRunsTheTimeBase_samples :
    dueCommands sampled = [] ∧ sampled.drive.reasons.estop = false ∧ sampled.lines.jamclrTaken = false ∧
    (after (step sampled)).pending = [.speedWindowEnd, .rampStep, .estopAsserted, .jamclrActivation, .chuteFullClose .d2, .watchLapse] ∧
    (acting sampled && isTerminal sampled (outletOfDiverter .d2)) = true := by decide

/-- Example: emergency stop from RUN, 9,000 ms: the release of ESTOP_N follows the ramp step of its boundary, so that the first step
comes at 9,010 ms (log 1). A quiet timer that ends at a boundary is taken after the boundary's commands (log 56). -/
theorem test_boundary_commands_come_first :
    let released := withReasons { estop := true, notRunning := false } (driving .stopped 0)
    let coasting := driving .halted 0
    let quiet := after (step { coasting with time := 9, drive := { coasting.drive with quiet := some 1 } })
    (after (step { released with time := 8999 })).pending = [.speedWindowEnd, .rampStep, .estopDeasserted] ∧
      quiet.pending = [.speedWindowEnd, .rampStep] ∧ dueCommands { quiet with pending := [] } = [.haltQuietTimeout] := by decide

/-- What RESET finds at a station number. -/
def found (straps : BitVec 7) : ResetLines :=
  ⟨straps, 0x2A0000, false, false, false, false, false, false, false, false, false, false, false, false⟩

theorem test_witness_ResetLeavesEveryBlockEmpty :
    stationNumber ((found 1).straps.setWidth 8) = true ∧ stationNumber ((found 125).straps.setWidth 8) = true ∧
      stationNumber ((found 0).straps.setWidth 8) = false ∧ stationNumber ((found 126).straps.setWidth 8) = false ∧
      stationNumber ((found 127).straps.setWidth 8) = false := by decide

theorem test_witness_HeldInResetNothingHappens :
    let s := { on with inReset := true }
    s.inReset = true ∧ (∀ r, Instr.rampStep ≠ .reset r) ∧ Instr.rampStep ≠ .resetNAsserted :=
  ⟨rfl, nofun, by decide⟩

/-- A collision is the waiting command. -/
def beforeCollision (s : State) : State := { s with pending := [.collision] }

theorem test_witness_EveryStepKeepsDriveAndEstopLaws :
    let s := beforeCollision (withReasons { estop := true } { at_ .running with holdOff := true })
    (∃ t, step s = .next t) ∧ DriveLaw s.drive ∧ EstopLaw s ∧ SpeedLaw { s.belt with v := 4000 } :=
  ⟨⟨_, rfl⟩, ⟨by decide, by decide, by decide, by decide⟩, by unfold EstopLaw; decide, by unfold SpeedLaw; decide⟩

theorem test_witness_EveryStepKeepsQueueLaw :
    let s := beforeCollision (withWaiting (waitingFrames 16) on)
    QueueLaw s.bus ∧ queueLength s.bus = 16 ∧ ∃ t, step s = .next t :=
  ⟨by unfold QueueLaw; decide, by decide, ⟨_, rfl⟩⟩

theorem test_witness_EveryStepKeepsSegmentLaw :
    let s := beforeCollision (withBags ((List.range 32).map (fun i => bagAt i 0)) on)
    SegmentLaw s.tracker ∧ s.tracker.segment.length = 32 ∧ ∃ t, step s = .next t :=
  ⟨⟨by decide, by decide, by decide⟩, by decide, ⟨_, rfl⟩⟩

/-- An expected entry of the source 17. -/
def entryAt (id : Byte) (x : Pos) : ExpectedEntry := ⟨17, id, 0, 4400000149, none, .pending, 0, {}, none, some 600, x, 100000⟩

theorem test_witness_EveryStepKeepsSegmentLaw_occupancy :
    let s := beforeCollision { withBags [bagAt 0 0] on with
      handoff := { on.handoff with expected := [entryAt 3 0] }, flow := { on.flow with occupancy := 2 } }
    OccupancyLaw s ∧ ∃ t, step s = .next t :=
  ⟨⟨⟨by decide, by decide, by decide⟩, by unfold PairLaw; decide, by unfold SourceLaw; decide, rfl⟩, ⟨_, rfl⟩⟩

/-- A closed record and an open one behind it. -/
def queued : State :=
  { withEntryEye ⟨true, true, none⟩ (atD 700000 on) with
    tracker := { on.tracker with segment := [bagAt 0 0, { bagAt 1 600000 with length := none }], floor := some 600000 }
    pending := [.resetNAsserted] }

theorem test_witness_EveryStepKeepsSegmentLaw_order :
    OrderedQueue queued ∧ NearQueue queued ∧ ∃ t, step queued = .next t ∧ NearQueue t := by
  have two : ∀ b ∈ queued.tracker.segment, b = bagAt 0 0 ∨ b = { bagAt 1 600000 with length := none } := by decide
  have near : NearQueue queued := by
    refine ⟨fun b h => ?_, by rintro f ⟨⟩; decide⟩
    rcases two b h with rfl | rfl
    · exact ⟨by decide, fun l h => by cases h; decide⟩
    · exact ⟨by decide, fun l h => by cases h⟩
  refine ⟨⟨by decide, by decide, .cons ?_ (.cons (fun _ h => nomatch h) .nil), fun a h => ?_, nofun, by decide⟩, near,
    ⟨_, rfl, near.entries, near.floor⟩⟩
  · intro b h
    cases List.mem_singleton.1 h
    exact ⟨by decide, fun l h => by cases h; decide⟩
  · rcases two a h with rfl | rfl
    · exact fun l h => by cases h; exact ⟨_, rfl, by decide⟩
    · exact fun l h => by cases h

theorem test_witness_EveryStepKeepsTheTables :
    let s := beforeCollision { on with handoff := { on.handoff with expected := List.replicate 16 (entryAt 3 0) } }
    (∃ t, step s = .next t ∧ NearLaw t.handoff) ∧ RankLaw s.cache ∧ ListLaw s.exc ∧ ExpectedLaw s.handoff ∧ OrderLaw s.handoff :=
  ⟨⟨_, rfl, by unfold NearLaw; decide⟩, by unfold RankLaw; decide, by unfold ListLaw; decide, by unfold ExpectedLaw; decide,
    by unfold OrderLaw; decide⟩

theorem test_witness_EveryStepKeepsTheTables_windows :
    let w : Window := ⟨0, [⟨0, 0, none, false⟩, ⟨1, 0, none, false⟩, ⟨2, 0, none, false⟩, ⟨3, 0, none, false⟩], 0, none, false⟩
    let s := beforeCollision { on with
      divert := { windows := ⟨{}, ⟨some w, none⟩, {}⟩ }, serial := { on.serial with window := 1 }
      queries := (List.range 8).map (fun i => ⟨i + 1, 1, 200, List.replicate 4 (.bag i)⟩) }
    (∃ t, step s = .next t) ∧ QueryLaw s.queries ∧ WindowLaw s ∧ HistoryLaw s.tracker :=
  ⟨⟨_, rfl⟩, ⟨by decide, by decide, by decide⟩,
    fun k => by cases k <;> exact ⟨by decide, by decide, by decide, by decide⟩, by unfold HistoryLaw; decide⟩

theorem test_witness_EveryStepKeepsPinsInStep :
    let s := beforeCollision (drivePins on)
    PinLaw s ∧ s.owed = [] ∧ ∃ t, step s = .next t :=
  ⟨rfl, rfl, ⟨_, rfl⟩⟩

theorem test_witness_ReferenceNeverRisesWhileStopped :
    let s := withReasons { hold := true, notRunning := false } (driving .decel 6)
    DriveLaw s.drive ∧ noReasons s.drive.reasons = false ∧ ∃ t, exec .rampStep s = .next t :=
  ⟨⟨by decide, by decide, by decide, by decide⟩, by decide, ⟨_, rfl⟩⟩

theorem test_witness_SettingsChangeByTheirCommandsOnly :
    (∃ t, exec .rampStep on = .next t) ∧ (∀ r, Instr.rampStep ≠ .reset r) ∧ (∀ bytes, Instr.rampStep ≠ .configReadComplete bytes) ∧
      (∀ h d a, Instr.rampStep ≠ .destCloseReceived h d a) ∧ (∀ h e, Instr.rampStep ≠ .epochReceived h e) :=
  ⟨⟨_, rfl⟩, nofun, nofun, nofun, nofun⟩

/-- The station 30 in LOADING, its memory being read. -/
def loading : State := { State.reset with loader := { State.reset.loader with station := 30 } }

/-- An image of 61 bytes: no diverter, no source, outlet 0 TERMINAL; its bytes sum to 2,384, 0x0950. -/
def image : List Byte :=
  [1, 0, 61, 0, 0] ++
    [0, 0, 1, 2, 3, 0, 0, 6, 12, 6, 50, 3, 0, 50, 0, 0, 1, 0, 0, 1, 0] ++
    [0x01, 0xF4, 0x07, 0xD0, 0x02, 0xEE, 0x03, 0xE8, 0x09, 0xC4, 0x03, 0x84, 0x04, 0xB0, 0x2E, 0xE0, 0x01, 0x2C, 0x01, 0x90,
      0x05, 0xDC, 0x01, 0x2C] ++
    [1, 0, 1, 0, 0, 0, 0, 0, 0] ++ [0x09, 0x50]

theorem image_passes : imagePasses 30 (bytesRead image) = true := by decide +kernel

/-- An image of 88 bytes: diverter 2, outlet 0 PEER to 41, outlet 2 TERMINAL and narrow, the source 17 a loop return; its bytes
sum to 4164, 0x1044. -/
def imageOfBlocks : List Byte :=
  [1, 0, 88, 2, 1] ++ (image.drop 5).take 5 ++ [2] ++ (image.drop 11).take 39 ++
    [0x10, 0x68, 0, 120, 0, 150, 0, 200, 0, 200, 0x03, 0x84] ++ [2, 41, 0, 0, 0xFF, 0, 0, 0, 0] ++ [1, 0, 0, 0xC0, 0, 0, 0, 0, 1] ++
    [17, 0x07, 0xD0, 0, 100, 1] ++ [0x10, 0x44]

theorem image_checks : ImageChecks 30 (bytesRead image) := by
  constructor <;> (try unfold InRanges) <;> decide +kernel

/-- Section 11.3: the blocks behind the belt block, and their fields. -/
theorem test_image_blocks :
    ImageChecks 30 imageOfBlocks ∧ diverterBlocks imageOfBlocks = [(.d2, 50)] ∧
      outletBlocks imageOfBlocks = [(.o0, 62), (.o2, 71)] ∧ sourceBlocks imageOfBlocks = [80] ∧
      (readConfig imageOfBlocks).diverters.d2 = some ⟨4200, 120, 150, 200, 200, 900⟩ ∧
      (readConfig imageOfBlocks).outlets.o0 = some ⟨.peer, 41, 0xFF0000, false⟩ ∧
      (readConfig imageOfBlocks).outlets.o2 = some ⟨.terminal, 0, 0xC000, true⟩ ∧
      (readConfig imageOfBlocks).sources = [⟨17, 2000, 100, true⟩] := by
  refine ⟨?_, by decide +kernel⟩
  constructor <;> (try unfold InRanges) <;> decide +kernel

/-- Each of the ten checks refuses an image that breaks it alone: the checksum is made to fit but for check 3. -/
def fitted (i : Nat) (b : Byte) : List Byte :=
  let body := (image.take 59).set i b
  body ++ bytes2 (BitVec.ofNat 16 (imageSum (body ++ [0, 0])))

theorem test_image_refused :
    imagePasses 30 (fitted 0 1) = true ∧
    ∀ x ∈ ([(0, 2), (4, 1), (13, 49), (6, 1), (5, 1), (40, 1), (36, 5), (14, 12)] : List (Nat × Byte)),
      imagePasses 30 (fitted x.1 x.2) = false := by decide +kernel

theorem test_witness_NodeStateMoves :
    (after (exec .configAddressNack { loading with loader := { loading.loader with nacks := 2 } })).loader.node = .configFault ∧
    (after (exec (.configReadComplete []) loading)).loader.node = .configFault ∧
    (after (exec .listenTimeout (at_ .joining))).loader.node = .running ∧
    (after (exec (.ownNumberFrame 127 1 []) (at_ .joining))).loader.node = .duplicate ∧
    (after (exec (.announceReceived ⟨127, 30⟩ ⟨5, 30, 2, 0⟩) (at_ .joining))).loader.node = .duplicate := by decide

theorem test_witness_NodeStateMoves_joining :
    (after (exec (.configReadComplete image) loading)).loader.node = .joining := by decide +kernel

theorem test_witness_AlertLineFollowsItsCauses :
    (∃ t, exec .collision on = .next t ∧ t.inReset = false) ∧ stationNumber ((found 125).straps.setWidth 8) = true :=
  ⟨⟨_, rfl, rfl⟩, by decide⟩

theorem test_witness_OutputLinesFollowTheState :
    (∃ t, exec .estopAsserted on = .next t ∧ t.inReset = false ∧ EstopLaw t ∧ t.drive.reasons.estop = true) :=
  ⟨_, rfl, rfl, fun _ => ⟨rfl, rfl⟩, rfl⟩

theorem test_witness_LoadRetriesAndFails :
    let nacked := fun n => { loading with loader := { loading.loader with nacks := n } }
    (Ready (nacked 1) ∧ (nacked 1).loader.node = .loading ∧ (nacked 1).loader.reading = true ∧ (nacked 1).loader.nacks + 1 < 3) ∧
    (Ready loading ∧ loading.loader.node = .loading ∧
      ({ loading with loader := { loading.loader with readdress := some 0 } } : State).loader.readdress.isSome = true) ∧
    (Ready (nacked 2) ∧ (nacked 2).loader.reading = true ∧ stationNumber (nacked 2).loader.station = true ∧
      (nacked 2).bus.waiting = [] ∧ (nacked 2).bus.attempt = none ∧ (nacked 2).bus.reports = [] ∧
      3 ≤ (nacked 2).loader.nacks + 1 ∧ imagePasses (nacked 2).loader.station (bytesRead []) = false) := by
  unfold Ready; decide

theorem test_witness_GoodImageEntersJoining :
    ∀ blocked, let s := withEntryEye ⟨blocked, false, none⟩ loading
    Ready s ∧ s.loader.node = .loading ∧ s.loader.reading = true ∧ ImageChecks s.loader.station (bytesRead image) ∧
      s.tracker.segment = [] ∧ s.belt.register = [] ∧ s.flow.gates = ⟨none, none, none, none⟩ ∧
      s.drive.reasons.hold = false ∧ s.drive.reasons.blocked = false ∧ Room 1 s :=
  fun _ => ⟨⟨rfl, rfl, rfl, rfl⟩, rfl, rfl, image_checks, rfl, rfl, rfl, rfl, rfl, (by decide : 0 + 1 ≤ 16)⟩

theorem test_witness_ListenTimeEndsInRunning :
    let s := withWaiting (waitingFrames 14) { at_ .joining with flow := { holdValue := 50 } }
    Ready s ∧ s.loader.node = .joining ∧ s.loader.listen.isSome = true ∧ Room (2 * (cfg s).sources.length) s ∧
      0 < s.flow.holdValue ∧ s.drive.state = .stopped ∧ noReasons { s.drive.reasons with notRunning := false } = true ∧
      s.drive.reasons.notRunning = true ∧ (cfg s).rRun ≠ 0 := by
  unfold Ready Room; decide

theorem test_witness_OwnNumberFrameIsCounted :
    let announced := withWaiting [⟨127, .announce ⟨0, 30, 2, 0⟩, 0⟩] on
    (Ready (at_ .joining) ∧ onLine (at_ .joining).bus = false ∧ (at_ .joining).loader.node = .joining) ∧
    (Ready on ∧ onLine on.bus = false ∧ on.loader.node = .running ∧ announceWaits on = false ∧
      Room 1 (withWaiting (waitingFrames 15) on)) ∧
    (Ready announced ∧ announced.loader.node ≠ .joining ∧ announceWaits announced = true) ∧
    (Ready loading ∧ loading.loader.node ≠ .joining ∧ loading.loader.node ≠ .running) := by
  unfold Ready Room; decide

theorem test_witness_EncoderCountMovesTheBelt :
    (Ready on ∧ quadrature on.lines.encA on.lines.encB true true = none) ∧ (Ready loading ∧ acting loading = false) ∧
    (acting on = true ∧ quadrature on.lines.encA on.lines.encB true false = some true ∧
      quadrature on.lines.encA on.lines.encB false true = some false) ∧
    ∀ forward : Bool, (∀ y ∈ (firedAt 5200000).belt.register, reached (movedTo forward (firedAt 5200000)) y.position = false) ∧
      ∀ e, (eyeOf (firedAt 5200000) e).trailing = none := by
  refine ⟨?_, ?_, by decide, fun forward => ⟨by cases forward <;> decide, ?_⟩⟩
  · unfold Ready; decide
  · unfold Ready; decide
  · intro e; cases e with
    | entry => rfl
    | exit => rfl
    | confirm k => cases k <;> rfl

theorem test_witness_SpeedWindowEndMeasuresSpeed :
    Ready on ∧ on.divert.windows = ⟨{}, {}, {}⟩ ∧ on.flow.gates = ⟨none, none, none, none⟩ := by unfold Ready; decide

theorem test_witness_StallHaltsTheDrive :
    (Ready on ∧ on.drive.state = .run ∧ DriveLaw on.drive) ∧ Ready (driving .accel 5) ∧ (driving .accel 5).drive.state ≠ .run :=
  ⟨⟨⟨rfl, rfl, rfl, rfl⟩, rfl, ⟨by decide, by decide, by decide, by decide⟩⟩, ⟨rfl, rfl, rfl, rfl⟩, by decide⟩

/-- DECEL at a reference with HOLD in the set, and with the set empty. -/
def slowing (r : Nat) (hold : Bool) : State := withReasons { hold := hold, notRunning := false } (driving .decel r)

/-- HALTED with the quiet timer running out, JAM in the set or not. -/
def halted (jam : Bool) : State :=
  { on with drive := { reasons := { jam := jam, notRunning := false }, state := .halted, quiet := some 0 } }

theorem test_witness_RampStepAndQuietTimer :
    (Ready (driving .accel 745) ∧ (driving .accel 745).drive.state = .accel) ∧
    (let down := max 1 (10 * (cfg on).aDn / (cfg on).vMax)
     ((slowing 13 true).drive.state = .decel ∧ down < (slowing 13 true).drive.r) ∧
     ((slowing 12 true).drive.r ≤ down ∧ noReasons (slowing 12 true).drive.reasons = false) ∧
     ((slowing 12 false).drive.r ≤ down ∧ noReasons (slowing 12 false).drive.reasons = true ∧ (cfg (slowing 12 false)).rRun ≠ 0)) ∧
    (on.drive.state = .run ∧ on.drive.quiet = none) ∧
    ((halted true).drive.quiet.isSome = true ∧ noReasons (halted true).drive.reasons = false) ∧
    ((halted false).drive.quiet.isSome = true ∧ noReasons (halted false).drive.reasons = true ∧ (cfg (halted false)).rRun ≠ 0) := by
  unfold Ready; decide

theorem test_witness_EstopJoinsAndLeaves :
    let stopped := fun n => withReasons { estop := true, notRunning := n } (driving .stopped 0)
    let stillHalted := withReasons { estop := true, notRunning := false } (halted false)
    (Ready on ∧ on.drive.reasons.estop = false) ∧
    (Ready stillHalted ∧ stillHalted.drive.reasons.estop = true ∧ stillHalted.drive.state = .halted) ∧
    ((stopped true).drive.reasons.estop = true ∧ (stopped true).drive.state = .stopped ∧
      noReasons { (stopped true).drive.reasons with estop := false } = false) ∧
    ((stopped false).drive.reasons.estop = true ∧ noReasons { (stopped false).drive.reasons with estop := false } = true ∧
      (cfg (stopped false)).rRun ≠ 0) := by
  unfold Ready; decide

theorem test_witness_EstopJoinsAndLeaves_marks :
    ∀ x ∈ ([(5200000, 0), (5300000, 0), (6400000, 1)] : List (Pos × Nat)),
    Ready (firedAt x.1) ∧ (firedAt x.1).drive.reasons.estop = false ∧
    ∃ b ∈ (firedAt x.1).tracker.segment, b.slot = x.2 ∧ ∃ c, diverterCfg (firedAt x.1) .d2 = some c ∧
      ∃ w ∈ windowList ((firedAt x.1).divert.windows.get .d2), w.fired = true ∧ b.slot ∈ liveSlots w ∧
        0 ≤ posDiff (firedAt x.1).belt.d (b.entry + mm c.position) := by
  intro x hx
  refine ⟨⟨rfl, rfl, rfl, rfl⟩, rfl, ?_⟩
  fin_cases hx <;> [refine ⟨_, .head _, rfl, ?_⟩; refine ⟨_, .head _, rfl, ?_⟩; refine ⟨_, .tail _ (.head _), rfl, ?_⟩] <;>
    exact ⟨_, rfl, _, .head _, rfl, by decide, by decide⟩

theorem test_witness_JamClearRemovesJamAndStall :
    (Ready on ∧ on.drive.reasons.jam = false ∧ on.drive.reasons.stall = false) ∧
    ((halted true).drive.reasons.jam = true ∧ (halted true).belt.eyes.entry.present = false ∧ (halted true).drive.state = .halted) := by
  unfold Ready; decide

theorem test_witness_EyeEdgesThatDeliverNothing :
    let eye := fun x => withEntryEye x on
    Ready (eye {}) ∧ (eyeOf (eye ⟨true, true, none⟩) .entry).present = true ∧
    ((eyeOf loading .entry).present = false ∧ followsEye loading .entry = false) ∧
    (followsEye (eye {}) .entry = true ∧ posDiff (atD 19999 (eye ⟨false, true, some 0⟩)).belt.d 0 < 20000) ∧
    ((eyeOf (eye ⟨false, true, none⟩) .entry).trailing = none ∧ (eyeOf (eye ⟨false, true, none⟩) .entry).delivered = true) ∧
    ((eyeOf (eye ⟨true, false, none⟩) .entry).present = true ∧ (eyeOf (eye ⟨true, false, none⟩) .entry).delivered = false) := by
  unfold Ready; decide

theorem test_witness_ArrivalMakesARecordOrAnOverrun :
    let one := withWaiting (waitingFrames 13) (withBags [bagAt 0 0] (atD 5000000 on))
    let full := withWaiting (waitingFrames 13) (withBags ((List.range 32).map (fun i => bagAt i 0)) (atD 5000000 on))
    let e := entryPosition one.tracker one.belt.d
    let c := cfg one
    (Ready one ∧ acting one = true ∧ jammed one = false ∧ one.belt.eyes.entry = ⟨false, false, none⟩ ∧
      reached one.belt.d (one.belt.d + mm c.lJam) = false ∧ one.tracker.segment.length < 32 ∧ one.handoff.expected = [] ∧
      Room (c.sources.length + 2) one ∧ reached one.belt.d (e + mm c.readerPosition) = false ∧
      reached one.belt.d (e + mm c.decisionPosition) = false ∧
      reached one.belt.d (e + mm (c.exitPosition + c.exitTolerance)) = false ∧
      c.claimDistance ≠ 0 ∧ reached one.belt.d (e + mm c.claimDistance) = false) ∧
    (let s := { one with loader := { one.loader with config := some { site with claimDistance := 0 } } }
     (cfg s).claimDistance = 0 ∧ acting s = true ∧ Room ((cfg s).sources.length + 2) s) ∧
    (Ready full ∧ acting full = true ∧ jammed full = false ∧ full.belt.eyes.entry = ⟨false, false, none⟩ ∧
      reached full.belt.d (full.belt.d + mm (cfg full).lJam) = false ∧ 32 ≤ full.tracker.segment.length ∧ Room 3 full) ∧
    (let s := { on with tracker := { on.tracker with segment := [bagAt 0 0], floor := some 650000 } }
     s.tracker.segment ≠ [] ∧ s.tracker.floor = some 650000) := by
  unfold Ready Room; decide

theorem no_trailing (e : Eye) : (eyeOf on e).trailing = none := by
  cases e with
  | entry => rfl
  | exit => rfl
  | confirm k => cases k <;> rfl

/-- A record whose lost point stays registered while a position of this item is reached: its own, or one behind it. -/
def staying : Item → Nat
  | .readerPosition slot | .decisionPosition slot | .claimEnd slot | .passPosition _ slot => slot
  | .lostPoint slot => slot + 1
  | .stopPosition _ => 4
  | .jamPoint | .windowEnd _ _ | .firePoint _ _ | .releasePoint _ _ => 0

/-- The belt at 999,500 with a position registered at 1,000,000, and the lost point of a record that entered at 0. -/
def before (i : Item) (s : State) : State :=
  { s with belt := { on.belt with d := 999500, register := [⟨i, 1000000⟩, ⟨.lostPoint (staying i), 12300000⟩] } }

/-- The count that follows reaches the one position and not the other. -/
theorem reaches_only {i : Item} {s : State} (h : s.belt = (before i on).belt) (hs : (cfg s).scale = 500) :
    ReachesOnly i 1000000 true s := by
  have hd : movedTo true s = 1000000 := by rw [movedTo, h, hs]; rfl
  refine ⟨by rw [h]; exact .head _, by rw [hd]; decide, fun y hy hn => ?_⟩
  rw [h] at hy
  rw [hd]
  rcases List.mem_cons.mp hy with rfl | hy
  · exact absurd rfl hn
  · rw [List.mem_singleton.mp hy]
    exact (by decide : reached 1000000 12300000 = false)

theorem count_comes (s : State) (x : Ready s) (y : acting s = true) (z : s.lines = {}) : CountComes true false true s :=
  ⟨x, y, by rw [z]; decide⟩

/-- A count that reaches the reader positions of slots 5 and 6, and neither lost point. -/
def reachesTwo (p q : Pos) : State :=
  { withBags [bagAt 5 0, bagAt 6 0] on with
    belt := { on.belt with d := 999500, register := [⟨.readerPosition 6, p⟩, ⟨.lostPoint 6, 12300000⟩, ⟨.readerPosition 5, q⟩,
      ⟨.lostPoint 5, 12300000⟩] } }

theorem test_witness_EncoderCountMovesTheBelt_reports :
    let s := reachesTwo 1000000 999900
    CountComes true false true s ∧ (∀ e, (eyeOf s e).trailing = none) ∧ (∀ e, ¬ EdgeWaits e s) ∧
      (s.belt.register.map Registration.item).Nodup ∧
      s.belt.register.map (fun y => reached (movedTo true s) y.position) = [true, false, true, false] :=
  ⟨count_comes _ ⟨rfl, rfl, rfl, rfl⟩ rfl rfl, no_trailing, (fun _ ⟨_, x⟩ => nomatch x), by decide, by decide⟩

/-- R4: of two reader positions of one count the one first passed is told first, so that it is read and the other waits; of two
equal ones the earlier registered. Both leave the register. -/
theorem test_positions_of_one_count_in_order :
    ∀ x ∈ ([((1000000, 999900), (5, 6)), ((999900, 1000000), (6, 5)), ((1000000, 1000000), (6, 5))] : List ((Pos × Pos) × Nat × Nat)),
    let t := after (exec (.encoderCount true false) (reachesTwo x.1.1 x.1.2))
    t.reader.outstanding.map Outstanding.asked = some (.read (some x.2.1)) ∧ t.reader.queue = [x.2.2] ∧
      t.belt.register.map Registration.item = [.lostPoint 6, .lostPoint 5] := by decide

theorem test_witness_TrailingEdgeClosesTheLength :
    let s := fun (l : List BagRecord) => withBags l (atD 20669500 (withEntryEye ⟨false, true, some 20650000⟩ on))
    let open_ := fun (e : Pos) => { bagAt 1 e with length := none, tracking := .entering }
    (∀ l, CountComes true false true (s l) ∧ (∀ e, e ≠ .entry → (eyeOf (s l) e).trailing = none) ∧
      (s l).belt.eyes.entry.trailing = some 20650000 ∧ (s l).divert.windows = ⟨{}, {}, {}⟩ ∧ (s l).belt.register = []) ∧
    20000 ≤ posDiff (movedTo true (s [])) 20650000 ∧ openRecord (s []) = none ∧
    ((s [bagAt 0 0, open_ 20000000]).tracker.segment = [bagAt 0 0] ++ [open_ 20000000] ∧ (open_ 20000000).length = none ∧
      (∀ x ∈ [bagAt 0 0], x.slot ≠ (open_ 20000000).slot) ∧ 0 < posDiff 20650000 (open_ 20000000).entry) ∧
    posDiff 20650000 (open_ 20650000).entry ≤ 0 := by
  refine ⟨fun l => ⟨count_comes _ ⟨rfl, rfl, rfl, rfl⟩ rfl rfl, ?_, rfl, rfl, rfl⟩, by decide, by decide, by decide, by decide⟩
  intro e x
  cases e with
  | entry => exact absurd rfl x
  | exit => rfl
  | confirm k => cases k <;> rfl

theorem test_witness_DecisionWritesTheOutcome :
    let r := { bagAt 0 0 with status := .resolved, part := some (partOf 11) }
    let s := withWaiting (waitingFrames 13) (withBags [r] (before (.decisionPosition 0) on))
    CountComes true false true s ∧ (∀ e, (eyeOf s e).trailing = none) ∧
    (s.divert.windows = ⟨{}, {}, {}⟩ ∧ s.flow.gates = ⟨none, none, none, none⟩ ∧
      findBag s 0 = some r ∧ isDecided r = false ∧ queueLength s.bus + 3 ≤ 16) ∧
    ReachesOnly (.decisionPosition 0) 1000000 true s ∧
    (r.flags = {} ∧ r.part = some (partOf 11) ∧ (partOf 11).cls = .standard ∧ (partOf 11).ship ≠ 0 ∧
      (cfg s).ships.getLsbD (partOf 11).ship = true ∧ s.routes.late.getLsbD (partOf 11).destination = false ∧
      r.passCount < (cfg s).passLimit ∧ bestCandidate s (partOf 11) = some .o2) ∧
    (({ r with flags := { duplicate := true } } : BagRecord).flags.stray = false) :=
  ⟨count_comes _ ⟨rfl, rfl, rfl, rfl⟩ rfl rfl, no_trailing, by decide, reaches_only rfl rfl, by decide, rfl⟩

theorem test_witness_WindowFiresAndReleases :
    let w := fun fired => (⟨0, [⟨0, 0, some 600, false⟩], 1000000, none, fired⟩ : Window)
    let s := fun (i : Item) fired => { before i (withBags [{ bagAt 0 0 with tracking := .decided, chosen := some .o2 }] on) with
      divert := { windows := ⟨{}, ⟨some (w fired), none⟩, {}⟩ } }
    let fire := s (.firePoint .d2 0) false
    let release := s (.releasePoint .d2 0) true
    (CountComes true false true fire ∧ ∀ e, (eyeOf fire e).trailing = none) ∧
    (fire.flow.gates = ⟨none, none, none, none⟩ ∧ diverterCfg fire .d2 = some ⟨4200, 120, 150, 200, 200, 900⟩ ∧
      fire.divert.windows.get .d2 = ⟨some (w false), none⟩ ∧ (w false).fired = false ∧ liveSlots (w false) = [0] ∧
      reached (movedTo true fire) (0 + mm 4200) = false) ∧
    ReachesOnly (.firePoint .d2 (w false).number) 1000000 true fire ∧
    (CountComes true false true release ∧ release.divert.windows.get .d2 = ⟨some (w true), none⟩ ∧
      ReachesOnly (.releasePoint .d2 (w true).number) 1000000 true release) :=
  ⟨⟨count_comes _ ⟨rfl, rfl, rfl, rfl⟩ rfl rfl, no_trailing⟩, by decide, reaches_only rfl rfl,
    count_comes _ ⟨rfl, rfl, rfl, rfl⟩ rfl rfl, rfl, reaches_only rfl rfl⟩

theorem test_witness_OutletEyesAccountForObjects :
    let diverting := withBags [{ bagAt 0 0 with chosen := some .o2, tracking := .diverting, confirm := some 5 }] on
    let passing := atD 12300000 (withBags [{ bagAt 1 0 with chosen := some .o0, tracking := .decided }] on)
    (Ready diverting ∧ acting diverting = true ∧ eyeOf diverting (.confirm .d2) = ⟨false, false, none⟩ ∧
      (confirmable diverting .d2).isSome = true) ∧
    (Ready passing ∧ eyeOf passing .exit = ⟨false, false, none⟩ ∧ (exitMatch passing passing.belt.d).isSome = true) ∧
    (confirmable on .d2 = none ∧ peerOf on (outletOfDiverter .d2) = none ∧ exitMatch on on.belt.d = none) := by
  unfold Ready; decide

theorem test_witness_ConfirmTimerRunsOut :
    let b := fun passed => { bagAt 31 0 with chosen := some .o2, tracking := .diverting, confirm := some 0, lostPointPassed := passed }
    let s := fun passed => withBags [b passed] on
    (Ready (s false) ∧ findBag (s false) 31 = some (b false) ∧ (b false).tracking = .diverting ∧ (b false).confirm.isSome = true ∧
      (b false).lostPointPassed = false) ∧
    (Ready (s true) ∧ findBag (s true) 31 = some (b true) ∧ (b true).lostPointPassed = true) ∧
    findBag (s true) 0 = none := by
  unfold Ready; decide

/-- The node with a request outstanding under number 9 and some slots queued. -/
def asked (a : Asked) (queue : List Nat) : State :=
  { on with reader := { on.reader with outstanding := some ⟨9, a, 40⟩, queue := queue, misses := 2 } }

theorem test_witness_ReaderLinkWithoutAResult :
    (Ready on ∧ linkActs on = true ∧ ([1, 2, 3, 4] : List Nat).length ≤ 4) ∧
    (∀ slot, ¬ ReadOutstanding 9 slot on) ∧ (∀ timer, on.reader.outstanding ≠ some ⟨9, .poll, timer⟩) ∧
    (ReadOutstanding 9 none (asked (.read none) []) ∧ (asked (.read none) []).reader.queue = []) ∧
    (asked .poll []).reader.outstanding = some ⟨9, .poll, 40⟩ ∧
    (ReadOutstanding 9 none (asked (.read none) [5]) ∧ (asked (.read none) [5]).reader.queue = [5]) ∧
    (asked .poll [5]).reader.outstanding = some ⟨9, .poll, 40⟩ ∧ on.reader.outstanding = none ∧
    ({ on with reader := { on.reader with idle := some 0 } } : State).reader.idle.isSome = true :=
  ⟨⟨⟨rfl, rfl, rfl, rfl⟩, by decide, by decide⟩, (fun _ ⟨_, x⟩ => nomatch x), nofun, ⟨⟨_, rfl⟩, rfl⟩, rfl, ⟨⟨_, rfl⟩, rfl⟩, rfl, rfl, rfl⟩

theorem test_witness_ReadReplyResolvesIdentity :
    let s := withBags [bagAt 5 0] (asked (.read (some 5)) [])
    let announced := { bagAt 5 0 with plate := 7 }
    (Ready s ∧ linkActs s = true ∧ findBag s 5 = some (bagAt 5 0) ∧ isDecided (bagAt 5 0) = false) ∧
    ReadOutstanding 9 (some 5) s ∧ ([8, 7, 8, 8] : List Nat).length ≤ 4 ∧
    (readResult [0] = .noRead ∧ readResult [7, 7] = .one 7 ∧ readResult [8, 7, 8, 8] = .several [8, 7]) ∧
    ((bagAt 5 0).plate = 0 ∧ announced.plate = 7 ∧ announced.plate ≠ 8) := by
  refine ⟨?_, ⟨_, rfl⟩, by decide, by decide, by decide⟩
  unfold Ready; decide

/-- The node with one query for the plate 4,400,000,149. -/
def asking (attempts : Nat) (waiters : List Live) : State := { on with queries := [⟨4400000149, attempts, 200, waiters⟩] }

theorem test_witness_QueryDeadlinePasses :
    let first := withWaiting (waitingFrames 15) (asking 1 [.bag 0])
    let second := withWaiting (waitingFrames 14) (asking 2 [.bag 0])
    let silent := { asking 1 [.bag 0] with loader := (at_ .duplicate).loader }
    (Ready first ∧ queryFor 4400000149 first = some ⟨4400000149, 1, 200, [.bag 0]⟩ ∧ first.loader.node ≠ .duplicate ∧ Room 1 first) ∧
    (Ready second ∧ queryFor 4400000149 second = some ⟨4400000149, 2, 200, [.bag 0]⟩ ∧ Room (2 * ([.bag 0] : List Live).length) second) ∧
    (Ready silent ∧ silent.loader.node = .duplicate ∧ Room 2 silent) := by
  unfold Ready Room; decide

theorem test_witness_EpochTurnsOverByTheWalk :
    (Taken fromSource on ∧ acting on = true) ∧ on.cache.epoch = 0 ∧ (1 : Byte) ≠ on.cache.epoch ∧ on.queries = [] ∧
    (let s := { on with cache := { on.cache with walk := some 63 } }
     Ready s ∧ s.cache.walk = some 63 ∧ s.cache.sets.length = 64 ∧ ((getSet s 63).map Way.rank).Perm [0, 1, 2, 3]) :=
  ⟨⟨taken_of_takes (by decide), rfl⟩, rfl, by decide, rfl, ⟨rfl, rfl, rfl, rfl⟩, rfl, by decide, by decide⟩

theorem test_witness_EpochTurnsOverByTheWalk_served :
    let entry := some (⟨4400000149, partOf 11, 1⟩ : CacheEntry)
    let s := fun (tr : Tracking) (l : Live) => { withBags [{ bagAt 5 0 with plate := 4400000149, tracking := tr }] (asking 1 [l]) with
      cache := { on.cache with sets := on.cache.sets.set (4400000149 % 64) [⟨0, entry⟩, ⟨1, none⟩, ⟨2, none⟩, ⟨3, none⟩] } }
    (∀ tr ∈ [Tracking.onBelt, .decided, .diverting, .releasedUnconfirmed], ∀ l ∈ [Live.bag 5, .entry 17 3],
      takes fromSource (s tr l) = true ∧ acting (s tr l) = true ∧ (1 : Byte) ≠ (s tr l).cache.epoch ∧
      (s tr l).queries = [] ++ ⟨4400000149, 1, 200, [l]⟩ :: [] ∧
      (getSet (s tr l) (4400000149 % 64)).filter (wayHolds 4400000149) = [⟨0, some ⟨4400000149, partOf 11, 1⟩⟩] ∧
      (findBag (s tr l) 5).isSome = true ∧ (segmentSlots (s tr l)).Nodup ∧ queueLength (s tr l).bus + 3 ≤ 16 ∧
      (movers (s tr l) ((s tr l).tracker.segment.map (BagRecord.given (partOf 11)))).length = if tr = .decided then 1 else 0) ∧
    isDecided { bagAt 5 0 with tracking := .onBelt } = false ∧
    (∀ q ∈ (asking 1 [.bag 5]).queries, ∀ w ∈ getSet (asking 1 [.bag 5]) (q.plate % 64), ∀ x, w.entry = some x →
      x.plate = q.plate → x.epoch ≠ 1) := by
  refine ⟨by decide +kernel, by decide, ?_⟩
  intro q a w b x c
  have d : q = ⟨4400000149, 1, 200, [.bag 5]⟩ := by simpa [asking] using a
  subst d
  have e : ∀ w ∈ getSet (asking 1 [.bag 5]) (4400000149 % 64), w.entry = none := by decide +kernel
  rw [e w b] at c
  cases c

/-- A RESOLVED record in a slot that is decided for an outlet, each slot a metre behind the one before. -/
def routed (slot : Nat) (tr : Tracking) (o : Outlet) : BagRecord :=
  { bagAt slot (mm (1000 * slot)) with status := .resolved, part := some (partOf 11), tracking := tr, chosen := some o, decision := ⟨some o, none, false⟩ }

/-- A queue with its entry floor. -/
def inOrder (l : List BagRecord) (s : State) : State :=
  { withBags l s with tracker := { (withBags l s).tracker with floor := some (mm 8000) } }

/-- Waiters of the plate's query, a bag record and an expected entry, and UNRESOLVED holders of the plate. -/
def waitersAnd (l : List BagRecord) (s : State) : State :=
  { withWaiting (waitingFrames 13) (withBags
      ({ bagAt 5 0 with plate := 4400000149, status := .awaitingAnswer } ::
        l.map (fun b => { b with plate := 4400000149, status := .unresolved, part := none })) s) with
    queries := [⟨4400000149, 1, 200, [.bag 5, .entry 17 3]⟩]
    handoff := { s.handoff with
      expected := [{ entryAt 3 0 with status := .awaitingAnswer }, { entryAt 4 0 with status := .unresolved }] } }

theorem test_witness_AnswerServesTheWaiter :
    let p := fun (found : Byte) (part : RawPart) => (⟨4400000149, found, part, 0⟩ : AnswerPayload)
    let s := waitersAnd [bagAt 6 0] on
    Taken fromSource s ∧ (acting s = true ∧ plateValid (p 1 (rawManifest (partOf 12))).plate.toNat = true ∧
      (segmentSlots s).Nodup ∧ s.cache.sets.length = 64 ∧ (queryFor 4400000149 s).isSome = true ∧
      (∀ b ∈ s.tracker.segment, isDecided b = false) ∧ readManifest (rawManifest (partOf 12)) = some (partOf 12) ∧
      (p 0 noManifestBytes).found = 0 ∧ (p 2 noManifestBytes).found ≠ 0 ∧ (p 2 noManifestBytes).found ≠ 1 ∧
      readManifest noManifestBytes = none) ∧ RankLaw s.cache ∧ PairLaw s.handoff ∧ Room 2 s :=
  ⟨taken_of_takes (by decide), by decide, by unfold RankLaw; decide, by unfold PairLaw; decide, by unfold Room; decide⟩

theorem test_witness_AnswerServesTheWaiter_decided :
    let s := waitersAnd [routed 6 .decided .o2, routed 7 .diverting .o3] on
    let b := { routed 6 .decided .o0 with plate := 4400000149, status := .unresolved, part := none }
    let one := { withWaiting (waitingFrames 13) (withBags [b] on) with queries := [] }
    (Taken fromSource s ∧ acting s = true ∧ (segmentSlots s).Nodup ∧ PairLaw s.handoff ∧ RankLaw s.cache ∧ Room 3 s) ∧
    (movers s (s.tracker.segment.map (BagRecord.given (partOf 12))) = [] ∧
      s.tracker.segment.map (fun b => redecided s (b.given (partOf 12))) ≠ s.tracker.segment.map (BagRecord.given (partOf 12))) ∧
    (Taken fromSource one ∧ one.tracker.segment = [b] ∧ (b.plate = 4400000149 ∧ b.status = .unresolved) ∧
      Moves one (b.given (partOf 12)) ∧ Room 3 one) :=
  ⟨⟨taken_of_takes (by decide), by decide, by decide, by unfold PairLaw; decide, by unfold RankLaw; decide, by unfold Room; decide⟩,
    by decide,
    ⟨taken_of_takes (by decide), rfl, by decide, ⟨rfl, by decide, .inl rfl⟩, by unfold Room; decide⟩⟩

/-- Decided records that hold the plate in a queue in order: two that are moved and a fired one. -/
def holdingThree (status : RouteStatus) : State :=
  let hold := fun b : BagRecord => { b with plate := 4400000149, status := status, part := (partOf 11) }
  inOrder [hold (routed 5 .decided .o0), hold (routed 6 .decided .o0), hold (routed 7 .diverting .o3)] (withWaiting (waitingFrames 10) on)

theorem test_witness_AnswerServesTheWaiter_every :
    let s := holdingThree .unresolved
    (takes fromSource s = true ∧ rises s = true ∧ PairLaw s.handoff ∧ RankLaw s.cache) ∧ s.divert.windows = ⟨{}, {}, {}⟩ ∧
      (movers s (s.tracker.segment.map (BagRecord.given (partOf 12)))).length = 2 ∧ Room (2 + 2) s := by
  unfold PairLaw RankLaw Room; decide

theorem test_witness_UpdateReplacesOlderParts_every :
    let s := holdingThree .resolved
    (takes fromSource s = true ∧ rises s = true ∧ PairLaw s.handoff ∧ RankLaw s.cache) ∧ s.divert.windows = ⟨{}, {}, {}⟩ ∧
      (movers s (s.tracker.segment.map (BagRecord.given (partOf 12)))).length = 2 ∧ Room (2 + 2) s := by
  unfold PairLaw RankLaw Room; decide

theorem test_witness_UpdateReplacesOlderParts :
    let bag := fun (slot : Nat) (rev : BitVec 16) => { bagAt slot 0 with plate := 4400000149, status := .resolved, part := some (partOf rev) }
    let s := { waitersAnd [bagAt 6 0] on with
      tracker := { on.tracker with segment := (waitersAnd [bagAt 6 0] on).tracker.segment ++ [bag 7 11, bag 8 12] } }
    let one := { withWaiting (waitingFrames 13) (withBags [{ routed 6 .decided .o0 with plate := 4400000149 }] on) with queries := [] }
    let b := { routed 6 .decided .o0 with plate := 4400000149 }
    (Taken fromSource s ∧ acting s = true ∧ (segmentSlots s).Nodup ∧ PairLaw s.handoff ∧ RankLaw s.cache) ∧
    (s.cache.sets.length = 64 ∧ plateValid 4400000149 = true ∧ (queryFor 4400000149 s).isSome = true ∧
      (∀ b ∈ s.tracker.segment, isDecided b = false) ∧ newerThan (partOf 12) (partOf 11) = true ∧
      newerThan (partOf 12) (partOf 12) = false ∧ newerThan (partOf 0) (partOf 32768) = false ∧
      readManifest (rawManifest (partOf 12)) = some (partOf 12) ∧ readManifest noManifestBytes = none) ∧
    (Taken fromSource one ∧ queryFor 4400000149 one = none ∧ one.tracker.segment = [b] ∧ b.status = .resolved ∧
      b.part.any (newerThan (partOf 12)) = true ∧ Moves one (b.given (partOf 12)) ∧ Room 3 one) ∧
    (let s := withBags [{ routed 6 .decided .o2 with plate := 4400000149 }, { routed 7 .diverting .o3 with plate := 4400000149 }] one
     Taken fromSource s ∧ movers s (s.tracker.segment.map (BagRecord.given (partOf 12))) = [] ∧ Room 3 s) :=
  ⟨⟨taken_of_takes (by decide), by decide, by decide, by unfold PairLaw; decide, by unfold RankLaw; decide⟩, by decide,
    ⟨taken_of_takes (by decide), rfl, rfl, rfl, by decide, ⟨rfl, by decide, .inl rfl⟩, by unfold Room; decide⟩,
    ⟨taken_of_takes (by decide), by decide, by unfold Room; decide⟩⟩

theorem test_witness_ChuteFullWritesClosed :
    Ready on ∧ followsChute on .d1 = false ∧ followsChute on .d2 = true := by unfold Ready; decide

/-- Decided records, one of them fired; and two more. -/
def standing (s : State) : State := withBags [routed 6 .decided .o0, routed 7 .diverting .o3, bagAt 8 0] s
def movingTwo (s : State) : State := inOrder [routed 6 .decided .o3, routed 7 .decided .o3] s

/-- What a table change from s to u needs: room for its frames, a queue that stands, one that is moved, and two that are. -/
def changes (s u : State) : Bool :=
  (movers u (standing u).tracker.segment).isEmpty && decide (segmentSlots (standing u)).Nodup && rises (movingTwo u) &&
    decide (u.divert.windows = ⟨{}, {}, {}⟩) && decide ((movers u (movingTwo u).tracker.segment).length = 2) &&
    decide (queueLength s.bus + (2 + (cfg s).sources.length + redecisionFrames u (movingTwo u).tracker.segment) ≤ 16)

theorem test_witness_ChuteFullWritesClosed_decided :
    let s := withWaiting (waitingFrames 9) on
    let closed := { s with
      routes := { s.routes with rows := s.routes.rows.set .o2 ((row s .o2).map (fun r => { r with closed := true })) } }
    (Ready s ∧ followsChute s .d2 = true ∧ (row s .o2).map RouteRow.closed = some false) ∧ changes s closed = true ∧
      (∀ o, Sys2Proof.Machine.gated closed o = false) ∧ Moves closed (routed 6 .decided .o3) :=
  ⟨by unfold Ready; decide, by decide, fun o => by cases o <;> decide, ⟨rfl, by decide, .inl rfl⟩⟩

theorem test_witness_FramesWriteTheRouteTable_decided :
    let s := withWaiting (waitingFrames 9) on
    let learnt := { s with
      routes := { s.routes with rows := s.routes.rows.set .o0 ((row s .o0).map (fun r => { r with learned := 0xF00000 })) } }
    let late := { s with routes := { s.routes with late := 0x4000 } }
    (Taken fromPeer s ∧ (row s .o0).map (fun r => (r.kind, r.peer, r.learned)) = some (.peer, fromPeer.src, 0xFF0000)) ∧
    (movers learnt [routed 6 .decided .o2, routed 7 .diverting .o3] = [] ∧
      (movers learnt (movingTwo learnt).tracker.segment).length = 2) ∧
    (∀ o, Sys2Proof.Machine.gated learnt o = false) ∧ Moves learnt (routed 6 .decided .o3) ∧
    (movers late [routed 6 .decided .o3, routed 7 .diverting .o2] = [] ∧
      (movers late [routed 6 .decided .o2, routed 7 .decided .o2]).length = 2) ∧
    (rises (movingTwo learnt) = true ∧ rises (inOrder [routed 6 .decided .o2, routed 7 .decided .o2] late) = true ∧
      learnt.divert.windows = ⟨{}, {}, {}⟩ ∧ late.divert.windows = ⟨{}, {}, {}⟩) ∧
    Moves late (routed 6 .decided .o2) ∧ Room (1 + redecisionFrames learnt (movingTwo learnt).tracker.segment) s :=
  ⟨⟨taken_of_takes (by decide), by decide⟩, by decide, fun o => by cases o <;> decide, ⟨rfl, by decide, .inl rfl⟩, by decide,
    by decide, ⟨rfl, by decide, .inl rfl⟩, by unfold Room; decide⟩

theorem test_witness_FramesWriteTheRouteTable :
    Taken fromPeer on ∧ acting on = true ∧ (2 : Byte) ≠ 0 ∧ (2 : Byte) ≠ 1 := ⟨taken_of_takes (by decide), by decide⟩

/-- The node with outlet 0 held. -/
def held : State :=
  { on with routes := { on.routes with rows := on.routes.rows.set .o0 ((on.routes.rows.get .o0).map (fun r => { r with holdExpiry := some 0 })) } }

theorem test_witness_HoldLapses :
    Ready held ∧ heldOutlet held .o0 = true ∧ blockedOutlet held .o0 = false ∧ heldOutlet held .o2 = false := by unfold Ready; decide

theorem test_witness_HoldsGoToEverySource :
    let s := withWaiting (waitingFrames 15) { on with flow := { on.flow with demand := true, refresh := some 0 } }
    Ready s ∧ s.loader.node = .running ∧ Room (cfg s).sources.length s ∧ wantedHold s ≠ s.flow.holdValue ∧
      s.flow.refresh.isSome = true := by unfold Ready Room; decide

theorem test_witness_BestCandidateIsTerminalFirst :
    bestCandidate on (partOf 11) = some .o2 ∧ bestCandidate on ⟨2, 1, 16, .standard, 0⟩ = some .o0 ∧
      (cfg on).preferred = [.o1] ++ .o2 :: [.o3, .o0] ∧ candidate on ⟨2, 1, 16, .standard, 0⟩ .o0 = true := by decide

theorem test_witness_LeadStaysInRange :
    let s := fun st => { driving st 750 with
      belt := { on.belt with v := 4000 }
      loader := { on.loader with config := some { site with aUp := 5000 } } }
    (s .accel).belt.v ≤ 4000 ∧ (⟨4200, 500, 150, 200, 200, 900⟩ : DiverterConfig).travel ≤ 500 ∧ (cfg (s .accel)).aUp ≤ 5000 ∧
      (s .decel).drive.state = .decel ∧ (s .halted).drive.state = .halted ∧ leadOf (s .accel) ⟨4200, 500, 150, 200, 200, 900⟩ = 2625000 := by decide

/-- A HANDOFF payload, and the node with one open handoff to 41 under id 3. -/
def payload : HandoffPayload := ⟨3, 0, 0, noManifestBytes, 0, 0, 600, 0⟩
def opened (attempts : Nat) (w : HandoffWait) : State :=
  { on with tracker := { on.tracker with
      history := [⟨0, .o0, none, 0, 41, some 3, .awaitingAccept, attempts, some ⟨payload, w⟩⟩] } }

theorem test_witness_OpenHandoffTakesItsCourse :
    (Taken fromPeer (opened 4 (.answer 0)) ∧ acting (opened 4 (.answer 0)) = true ∧
      (openDeparture fromPeer.src 3 (opened 4 (.answer 0))).map (fun d => (d.attempts, d.outgoing)) =
        some (4, some ⟨payload, .answer 0⟩)) ∧
    (Taken fromPeer (opened 4 (.retry 0)) ∧ (openDeparture fromPeer.src 3 (opened 4 (.retry 0))).map Departure.outgoing =
        some (some ⟨payload, .retry 0⟩) ∧ (opened 4 (.retry 0)).loader.node ≠ .duplicate ∧ queueLength (opened 4 (.retry 0)).bus + 1 ≤ 16) ∧
    (Taken fromPeer on ∧ openDeparture fromPeer.src 3 on = none) :=
  ⟨⟨taken_of_takes (by decide), by decide⟩, ⟨taken_of_takes (by decide), by decide⟩, taken_of_takes (by decide), rfl⟩

theorem test_witness_FifthAttemptGivesUp :
    let s := fun n => withWaiting (waitingFrames 11) { opened 5 (.answer 0) with handoff := { on.handoff with peers := [⟨40, true, 3⟩] ++ ⟨41, false, n⟩ :: [] } }
    let lost := { s 2 with handoff := { on.handoff with peers := [⟨40, true, 3⟩] ++ ⟨41, true, 3⟩ :: [] } }
    (Ready (s 1) ∧ (openDeparture 41 3 (s 1)).map (fun d => (d.attempts, d.outgoing)) = some (5, some ⟨payload, .answer 0⟩) ∧
      (s 1).handoff.peers = [⟨40, true, 3⟩] ++ ⟨41, false, 1⟩ :: [] ∧ (∀ y ∈ ([⟨40, true, 3⟩] : List PeerState) ++ [], y.station ≠ 41) ∧
      Room 2 (s 1) ∧ (s 2).handoff.peers = [⟨40, true, 3⟩] ++ ⟨41, false, 2⟩ :: [] ∧ acting (s 2) = true) ∧
    (let two := inOrder [routed 6 .decided .o0, routed 7 .decided .o0] lost
     rises two = true ∧ two.divert.windows = ⟨{}, {}, {}⟩ ∧ (movers two two.tracker.segment).length = 2) ∧
    (let l := [routed 6 .decided .o2, routed 7 .diverting .o3]
     (l.map BagRecord.slot).Nodup ∧ movers lost l = [] ∧ (∀ b ∈ l, b.chosen ≠ some .o0) ∧
      (Sys2Proof.Machine.gated lost .o0 = true ∧ Sys2Proof.Machine.gated lost .o2 = false ∧ Sys2Proof.Machine.gated lost .o3 = false)) ∧
    Moves lost (routed 6 .decided .o0) ∧ (movers lost [routed 6 .decided .o0, routed 7 .decided .o0]).length = 2 ∧
    Room (2 + (cfg (s 2)).sources.length + 2) (s 2) :=
  ⟨by unfold Ready Room; decide, by decide, by decide, ⟨rfl, by decide, .inl rfl⟩, by decide, by unfold Room; decide⟩

/-- The source block of 17. -/
def source17 : SourceConfig := ⟨17, 2000, 100, false⟩

theorem test_witness_HandoffAtAFullListIsRefused :
    let s := withWaiting (waitingFrames 15) { on with handoff := { on.handoff with expected := List.replicate 16 (entryAt 9 0) } }
    Taken fromSource s ∧ (speaks s = true ∧ sourceOf s fromSource.src = some source17 ∧ findEntry s fromSource.src payload.id = none ∧
      pairHeld (readHandoff fromSource.src payload) s = false ∧ claimTarget (readHandoff fromSource.src payload) s = none ∧
      16 ≤ s.handoff.expected.length) ∧ Room 1 s :=
  ⟨taken_of_takes (by decide), by decide, by unfold Room; decide⟩

theorem test_witness_HandoffMakesAnEntry :
    let s := withWaiting (waitingFrames 14) { on with handoff := { on.handoff with expected := List.replicate 15 (entryAt 9 0) } }
    Taken fromSource s ∧ (speaks s = true ∧ sourceOf s fromSource.src = some source17 ∧ findEntry s fromSource.src payload.id = none ∧
      pairHeld (readHandoff fromSource.src payload) s = false ∧ claimTarget (readHandoff fromSource.src payload) s = none ∧
      s.handoff.expected.length < 16 ∧
      reached s.belt.d (s.belt.d + mm source17.leadIn + um (source17.tolerance * 1000)) = false ∧
      payload.plate = 0 ∧ payload.present.getLsbD 0 = false ∧ ∀ w ∈ s.exc.watch, w.plate ≠ 0) ∧ Room ((cfg s).sources.length + 1) s :=
  ⟨taken_of_takes (by decide), by decide, by unfold Room; decide⟩

theorem test_witness_HandoffAlreadyKnownIsAccepted :
    let carried := withBags [{ bagAt 0 0 with source := 17, sourceId := some 3 }] on
    let missed := withWaiting (waitingFrames 15) { on with handoff := { on.handoff with recentMissing := [(17, 3)] } }
    (Taken fromPeer on ∧ sourceOf on fromPeer.src = none) ∧ (Taken fromSource (at_ .duplicate) ∧ speaks (at_ .duplicate) = false) ∧
    (Taken fromSource carried ∧ speaks carried = true ∧ sourceOf carried fromSource.src = some source17 ∧
      findEntry carried fromSource.src payload.id = none ∧
      (∃ b ∈ carried.tracker.segment, b.source = fromSource.src ∧ b.sourceId = some payload.id) ∧
      queueLength carried.bus + 1 ≤ 16) ∧
    (Taken fromSource missed ∧ (fromSource.src, payload.id) ∈ missed.handoff.recentMissing ∧ queueLength missed.bus + 1 ≤ 16) :=
  ⟨⟨taken_of_takes (by decide), by decide⟩, ⟨taken_of_takes (by decide), by decide⟩, ⟨taken_of_takes (by decide), by decide⟩,
    taken_of_takes (by decide), by decide⟩

theorem test_witness_WatchListFollowsTheSearch :
    Ready on ∧ Taken fromSource on ∧ (acting on = true ∧ plateValid (9999999999 : BitVec 40).toNat = true ∧ stationNumber 125 = true ∧
      sighting 9999999999 on = none ∧ plateValid (0 : BitVec 40).toNat = false ∧ stationNumber 126 = false) :=
  ⟨⟨rfl, rfl, rfl, rfl⟩, taken_of_takes (by decide), by decide⟩

theorem test_witness_StatusRequestDrawsOneReply :
    let s := withWaiting (waitingFrames 15) on
    (Taken fromSource s ∧ fromSource.dest ≠ 127 ∧ s.loader.node = .running ∧ queueLength s.bus + 1 ≤ 16) ∧
      (Taken ⟨127, 17⟩ s ∧ (⟨127, 17⟩ : Header).dest = 127) ∧ (Taken fromSource (at_ .configFault) ∧ Room 1 (at_ .configFault)) ∧
      (Taken fromSource loading ∧ loading.loader.node = .loading) :=
  ⟨⟨taken_of_takes (by decide), by decide⟩, ⟨taken_of_takes (by decide), rfl⟩,
    ⟨taken_of_takes (by decide), by unfold Room; decide⟩, taken_of_takes (by decide), rfl⟩

theorem test_witness_CounterClearClearsBoth :
    let lost := { on with handoff := { on.handoff with peers := [⟨41, true, 3⟩] } }
    (Taken fromSource on ∧ on.loader.node ≠ .loading ∧ on.exc.counter2.chained = true ∧ acting on = true ∧
      on.exc.counter1.event = some .strays ∧ on.exc.counter1.chained = false) ∧ Taken fromSource loading ∧
    (Ready lost ∧ Delivered fromPeer lost ∧ acting lost = true ∧ peerDown lost fromPeer.src = true ∧ lost.tracker.segment = [] ∧
      Room (cfg lost).sources.length lost) :=
  ⟨⟨taken_of_takes (by decide), by decide⟩, taken_of_takes (by decide), ⟨rfl, rfl, rfl, rfl⟩,
    ⟨by decide, by decide, by decide, by decide⟩, by decide, by decide, by decide, by unfold Room; decide⟩

theorem test_witness_EventCountersCount :
    let s := withWaiting (waitingFrames 14) { on with exc := { on.exc with counter1 := { on.exc.counter1 with value := 2 } } }
    (acting s = true ∧ s.exc.counter1.chained = false ∧ speaks s = true ∧ queueLength s.bus + 2 ≤ 16) ∧
      (acting (at_ .duplicate) = true ∧ speaks (at_ .duplicate) = false) := by decide

/-- The node with a frame in attempt after c collisions. -/
def trying (c : Nat) (ph : BusPhase) : State := { on with bus := { on.bus with attempt := some ⟨⟨17, .counterClear, 0⟩, c, ph⟩ } }

theorem test_witness_FrameTakesItsCourse :
    (let s := withWaiting [⟨17, .counterClear, 0⟩, ⟨41, .hold 1, 0⟩, ⟨17, .hold 1, 0⟩] on
     Ready s ∧ s.bus.attempt = none ∧ s.bus.waiting = [⟨17, .counterClear, 0⟩] ++ ⟨41, .hold 1, 0⟩ :: [⟨17, .hold 1, 0⟩] ∧
      (∀ x ∈ ([⟨17, .counterClear, 0⟩] : List Queued), queuedClass ⟨41, .hold 1, 0⟩ < queuedClass x) ∧
      (∀ x ∈ ([⟨17, .hold 1, 0⟩] : List Queued), queuedClass ⟨41, .hold 1, 0⟩ ≤ queuedClass x)) ∧
    ((trying 0 .waiting).bus.attempt = some ⟨⟨17, .counterClear, 0⟩, 0, .waiting⟩ ∧
      (trying 12 .sending).bus.attempt = some ⟨⟨17, .counterClear, 0⟩, 12, .sending⟩ ∧ (trying 12 .sending).bus.reports = [] ∧
      (trying 12 .jamming).bus.attempt = some ⟨⟨17, .counterClear, 0⟩, 12, .jamming⟩ ∧
      (trying 13 .jamming).bus.attempt = some ⟨⟨17, .counterClear, 0⟩, 13, .jamming⟩ ∧
      (trying 1 (.backoff 1)).bus.attempt = some ⟨⟨17, .counterClear, 0⟩, 1, .backoff 1⟩ ∧ on.bus.waiting = []) := by
  unfold Ready; decide

theorem test_witness_OffersToTheTransmitQueue :
    let q : Queued := ⟨41, .hold 5, 0⟩
    let full := withWaiting (⟨17, .handoff payload, 1⟩ :: waitingFrames 15) on
    (on.loader.node ≠ .duplicate ∧ replaces q.dest q.payload ⟨41, .hold 1, 0⟩ = true ∧
      (∀ y ∈ waitingFrames 2, replaces q.dest q.payload y = false)) ∧
    queueLength (withWaiting (waitingFrames 15) on).bus < 16 ∧
    (16 ≤ queueLength full.bus ∧ full.bus.waiting = (⟨17, .handoff payload, 1⟩ :: waitingFrames 14) ++ ⟨17, .counterClear, 0⟩ :: [] ∧
      (∀ y ∈ (⟨17, .handoff payload, 1⟩ :: waitingFrames 14), queuedClass y ≤ queuedClass ⟨17, .counterClear, 0⟩) ∧
      queuedClass q < queuedClass ⟨17, .counterClear, 0⟩ ∧ (∀ y ∈ full.bus.waiting, replaces q.dest q.payload y = false)) ∧
    (∀ y ∈ full.bus.waiting, queuedClass y ≤ queuedClass ⟨41, .counterClear, 0⟩) := by decide

theorem test_witness_DiscardedFramesAreCounted :
    Ready on ∧ (onLine (trying 0 .sending).bus = true ∧ onLine on.bus = false) ∧
    classify 30 ⟨[0x5A, 30, 17, 0x19, 1, 5], true⟩ = .runt ∧ classify 30 ⟨List.replicate 7 0, false⟩ = .format ∧
    classify 30 ⟨[0x5A, 30, 17, 0x19, 1, 5, 0, 0], true⟩ = .crc ∧ Room 2 on := by
  unfold Ready Room; decide +kernel

theorem test_witness_DiscardedFramesAreCounted_elsewhere :
    classify 30 ⟨frameBytes 17 31 (.hold 5), true⟩ = .elsewhere ∧
      classify 30 ⟨[0x5A, 30, 17, 0x7F, 0] ++ bytes2 (crcOf [30, 17, 0x7F, 0]), true⟩ = .unknownKind := by decide +kernel

theorem test_witness_KindsWithoutAnOwner :
    let lost := { on with handoff := { on.handoff with peers := [⟨41, true, 3⟩] } }
    ((∃ p, Instr.alertReceived fromSource ⟨1, 2, 3⟩ = .alertReceived fromSource p) ∧ Taken fromSource on) ∧
    (Ready on ∧ onLine on.bus = false ∧ stationNumber 17 = true ∧ (17 : Byte) ≠ on.loader.station ∧ (31 : Byte) ≠ on.loader.station ∧
      (31 : Byte) ≠ 127 ∧ stationNumber 126 = false) ∧
    (Delivered fromPeer lost ∧ acting lost = true ∧ peerDown lost fromPeer.src = true ∧
      Room ((cfg lost).sources.length + 3) lost) ∧
    (movers on [routed 6 .decided .o2, routed 7 .diverting .o3] = [] ∧ (∀ o, Sys2Proof.Machine.gated on o = false) ∧
      Moves on (routed 6 .decided .o3)) ∧
    (rises (movingTwo on) = true ∧ on.divert.windows = ⟨{}, {}, {}⟩ ∧ (movers on (movingTwo on).tracker.segment).length = 2) :=
  ⟨⟨⟨_, rfl⟩, taken_of_takes (by decide)⟩, by unfold Ready; decide,
    ⟨⟨by decide, by decide, by decide, by decide⟩, by decide, by decide, by unfold Room; decide⟩,
    ⟨by decide, fun o => by cases o <;> decide, ⟨rfl, by decide, .inl rfl⟩⟩, by decide⟩

theorem test_witness_FramesReadAsTheyAreWritten :
    (stationNumber 125 = true ∧ (125 : Byte) ≠ 30 ∧ ((127 : Byte) = 30 ∨ (127 : Byte) = 127) ∧
      (List.replicate 46 (0 : Byte)).length ≤ 46) ∧
    classify 30 ⟨frameBytes 125 127 (.hold 5), true⟩ = .delivered ⟨127, 125⟩ (.hold 5) := by decide +kernel

/-! ## Witnesses of the clauses on one event more -/

theorem test_witness_OutputLinesFollowTheState_line :
    (trying 0 .sending).inReset = false ∧ (exec .listenTimeout (trying 0 .sending) = .next (drivePins (trying 0 .sending))) ∧
      (exec .listenTimeout (trying 0 .jamming) = .next (drivePins (trying 0 .jamming))) ∧
      (drivePins (trying 0 .jamming)).pins.busTx.length = 16 ∧ (drivePins (trying 0 .sending)).pins.busTx.length = 70 :=
  ⟨rfl, rfl, rfl, by decide, by decide +kernel⟩

theorem test_witness_StallHaltsTheDrive_jam :
    let s := fun d => withWaiting (waitingFrames 13) { before .jamPoint on with drive := d }
    let still : Drive := { reasons := { stall := true, notRunning := false }, state := .halted, quiet := some 7 }
    (∀ d, CountComes true false true (s d) ∧ (∀ e, (eyeOf (s d) e).trailing = none)) ∧
    (∀ d, ReachesOnly .jamPoint 1000000 true (s d)) ∧
    ((s on.drive).drive.reasons.jam = false ∧ (s on.drive).drive.state ≠ .halted ∧ still.reasons.jam = false) ∧
    Room ((cfg (s on.drive)).sources.length + 2) (s on.drive) :=
  ⟨fun _ => ⟨count_comes _ ⟨rfl, rfl, rfl, rfl⟩ rfl rfl, no_trailing⟩, fun _ => reaches_only rfl rfl, by decide,
    by unfold Room; decide⟩

theorem test_witness_OutletEyesAccountForObjects_peer :
    let past := fun (st : HandoffState) => (⟨0, .o0, none, 0, 41, some 9, st, 1, none⟩ : Departure)
    let s := fun (l : List Departure) => withWaiting (waitingFrames 12) { on with tracker := { on.tracker with history := l } }
    (Ready (s []) ∧ acting (s []) = true ∧ eyeOf (s []) .exit = ⟨false, false, none⟩ ∧ exitMatch (s []) (s []).belt.d = none ∧
      peerOf (s []) .o0 = some 41 ∧ openDeparture 41 (s []).handoff.nextId (s []) = none ∧ (s []).loader.node ≠ .duplicate ∧
      Room 4 (s []) ∧ (∀ q ∈ (s []).handoff.peers, q.giveUps < 2) ∧ (s []).tracker.history.length < 32) ∧
    (∀ st : HandoffState, st = .awaitingAccept ∨ st = .accepted →
      let l := List.replicate 32 (past st)
      32 ≤ l.length ∧ l.getLast? = some (past st) ∧ openDeparture 41 (s l).handoff.nextId (s l) = none) := by
  refine ⟨?_, ?_⟩
  · unfold Ready Room; decide
  · rintro st (rfl | rfl) <;> decide

theorem test_witness_ConfirmTimerRunsOut_lost :
    let s := fun (b : BagRecord) => withWaiting (waitingFrames 12) (withBags [b] (before (.lostPoint 0) on))
    let running := { bagAt 0 0 with tracking := .diverting, confirm := some 5 }
    (∀ b, CountComes true false true (s b) ∧ (∀ e, (eyeOf (s b) e).trailing = none) ∧
      ReachesOnly (.lostPoint 0) 1000000 true (s b) ∧
      queueLength (s b).bus + ((cfg (s b)).sources.length + 3) = 16) ∧
    (findBag (s running) 0 = some running ∧ running.tracking = .diverting ∧ running.confirm.isSome = true) ∧
    (findBag (s (bagAt 0 0)) 0 = some (bagAt 0 0) ∧ (bagAt 0 0).tracking ≠ .diverting) :=
  ⟨fun _ => ⟨count_comes _ ⟨rfl, rfl, rfl, rfl⟩ rfl rfl, no_trailing, reaches_only rfl rfl, rfl⟩,
    by decide, by decide⟩

theorem test_witness_ReadReplyResolvesIdentity_late :
    let late := fun made => { bagAt 5 0 with plate := 7, tracking := .decided, chosen := some .o2, lateStrayMade := made }
    let s := fun b => withBags [b] (asked (.read (some 5)) [])
    (∀ made, Ready (s (late made)) ∧ linkActs (s (late made)) = true ∧ findBag (s (late made)) 5 = some (late made) ∧
      isDecided (late made) = true) ∧
    ReadOutstanding 9 (some 5) (s (late true)) ∧
    (readResult [] = .noRead ∧ readResult [7] = .one 7 ∧ readResult [8] = .one 8 ∧ readResult [7, 8] = .several [7, 8]) ∧
    isDecided { bagAt 5 0 with tracking := .releasedUnconfirmed } = true := by
  refine ⟨fun made => ⟨⟨rfl, rfl, rfl, rfl⟩, rfl, rfl, rfl⟩, ⟨_, rfl⟩, by decide, by decide⟩

theorem test_witness_QueryDeadlinePasses_lookup :
    let p := 4400000149
    let s := withWaiting (waitingFrames 10) (withBags [bagAt 5 0] (asked (.read (some 5)) []))
    let cached := fun (e : Byte) => { s with cache := { s.cache with
      sets := s.cache.sets.set (p % 64) [⟨0, some ⟨p, partOf 11, e⟩⟩, ⟨1, none⟩, ⟨2, none⟩, ⟨3, none⟩] } }
    let asking := fun n => { s with queries := [⟨p, 1, 200, List.replicate n (.entry 17 3)⟩] }
    let others := fun n => { s with queries := (List.range n).map (fun i => ⟨i + 1, 1, 200, [.entry 17 3]⟩) }
    (linkActs s = true ∧ readResult [p] = .one p ∧ findBag s 5 = some (bagAt 5 0) ∧ isDecided (bagAt 5 0) = false ∧
      (bagAt 5 0).plate = 0 ∧ (bagAt 5 0).part = none ∧ (bagAt 5 0).status = .pending) ∧
    (Ready s ∧ ReadOutstanding 9 (some 5) s ∧ NoneHolds p s ∧ Room 6 s) ∧
    ((getSet (cached 0) (p % 64)).filter (wayHolds p) = [⟨0, some ⟨p, partOf 11, (cached 0).cache.epoch⟩⟩] ∧
      (getSet (cached 1) (p % 64)).filter (wayHolds p) = [⟨0, some ⟨p, partOf 11, 1⟩⟩] ∧ (1 : Byte) ≠ (cached 1).cache.epoch ∧
      (getSet s (p % 64)).filter (wayHolds p) = []) ∧
    ((queryFor p (asking 3)).map (fun q => q.waiters.length) = some 3 ∧
      (queryFor p (asking 4)).map (fun q => q.waiters.length) = some 4 ∧ queryFor p (others 7) = none ∧
      (others 7).queries.length < 8 ∧ queryFor p (others 8) = none ∧ 8 ≤ (others 8).queries.length) :=
  ⟨by decide, ⟨⟨rfl, rfl, rfl, rfl⟩, ⟨_, rfl⟩, by unfold NoneHolds; decide, by unfold Room; decide⟩, by decide, by decide⟩

theorem test_witness_FramesWriteTheRouteTable_loading :
    (Ready loading ∧ Delivered fromPeer loading ∧ loading.loader.node = .loading) ∧
      (Ready (at_ .configFault) ∧ Delivered fromPeer (at_ .configFault) ∧ (at_ .configFault).loader.node = .configFault) ∧
      ∃ e, Instr.epochReceived fromPeer 3 = .epochReceived fromPeer e :=
  ⟨⟨⟨rfl, rfl, rfl, rfl⟩, ⟨by decide, by decide, by decide, by decide⟩, rfl⟩,
    ⟨⟨rfl, rfl, rfl, rfl⟩, ⟨by decide, by decide, by decide, by decide⟩, rfl⟩, ⟨_, rfl⟩⟩

/-- A bag bound for outlet 0, 11,900 mm from its exit eye or at it, with the gate of outlet 0. -/
def bound (e : Pos) : BagRecord := { bagAt 4 e with tracking := .decided, chosen := some .o0 }
def gated (l : Option Bool) (s : State) : State :=
  { s with flow := { s.flow with gates := ⟨l.map (fun l => ⟨some 4, some 1000000, l⟩), none, none, none⟩ } }

theorem test_witness_EveryStepKeepsTheTables_routes :
    let b := { bound 0 with decision := ⟨some .o0, none, false⟩ }
    let s := beforeCollision (withReasons { hold := true, notRunning := false } (gated (some true) (withBags [b]
      { held with flow := { held.flow with reach := 0xFFC000 } })))
    (∃ t, step s = .next t) ∧ DecidedLaw s ∧ ReachLaw s ∧ ExpiryLaw s ∧ GateLaw s ∧ isDecided b = true := by
  have split : ∀ d < 48, (0xFFC000 : DestSet).getLsbD d = true → (0xFF0000 : DestSet).getLsbD d = true ∨
      (0xC000 : DestSet).getLsbD d = true := by decide
  have join : ∀ d < 48, (0xFF0000 : DestSet).getLsbD d = true ∨ (0xC000 : DestSet).getLsbD d = true →
      (0xFFC000 : DestSet).getLsbD d = true := by decide
  refine ⟨⟨_, rfl⟩, ⟨by decide, by decide, ?_⟩, ⟨by decide, fun d x => ⟨fun y => ?_, ?_⟩, rfl⟩, ?_,
    ⟨by decide, fun o => by cases o <;> decide, ⟨fun _ => ⟨.o0, _, rfl, rfl, by decide⟩, fun _ => rfl⟩, ⟨nofun, ?_⟩⟩, rfl⟩
  · intro x y _
    cases List.mem_singleton.1 y
    exact ⟨.o0, rfl, nofun, .inl rfl⟩
  · rcases split d x y with z | z
    · exact ⟨.o0, _, rfl, by decide, z, nofun, fun _ => ⟨z, rfl⟩⟩
    · exact ⟨.o2, _, rfl, by decide, z, fun _ => rfl, nofun⟩
  · rintro ⟨o, r, y, n, z, -⟩
    cases o <;> cases y
    · exact join d x (.inl z)
    · exact join d x (.inr z)
    · exact absurd rfl n
  · intro o r e y z
    cases o <;> cases y <;> cases z
    decide
  · rintro ⟨o, g, y, -, z⟩
    cases o <;> cases y
    exact z

theorem test_witness_HoldLapses_gate :
    let s := fun e => withWaiting (waitingFrames 14) (withBags [bound e] on)
    let latching := gated (some false) (withBags [bound 0] (before (.stopPosition .o0) on))
    let lapsing := gated (some true) (withBags [bound 0] held)
    let stop := fun (e : Pos) => stopAt (s 0) (e + mm (cfg (s 0)).exitPosition) (s 0).belt.v
    (Ready (s 0) ∧ acting (s 0) = true ∧ (s 0).tracker.segment = [bound 0] ∧ (bound 0).chosen = some .o0 ∧
      (bound 0).tracking = .decided ∧ (bound 0).gatePassed ≠ some .o0 ∧
      StopsBefore (s 0) (bound 0) .o0 (0 + mm (cfg (s 0)).exitPosition)) ∧
    (Taken fromPeer (s 0) ∧ (row (s 0) .o0).map (fun r => (r.kind, r.peer)) = some (.peer, fromPeer.src) ∧ (1 : Byte) ≠ 0 ∧
      heldOutlet (s 0) .o0 = false ∧ blockedOutlet (s 0) .o0 = false ∧ (s 0).flow.gates = ⟨none, none, none, none⟩ ∧
      (∀ o, o ≠ .o0 → ∀ r', row (s 0) o = some r' → r'.kind = .terminal) ∧ Room 2 (s 0) ∧
      reached (s 0).belt.d (stop 0) = false ∧ reached (s 0).belt.d (stop ((0 : Pos) - mm 11950)) = true) ∧
    (gated (some false) (s 0)).divert.windows = ⟨{}, {}, {}⟩ ∧
    (CountComes true false true latching ∧ (∀ e, (eyeOf latching e).trailing = none) ∧
      ReachesOnly (.stopPosition .o0) 1000000 true latching ∧
      latching.flow.gates = gatesAt .o0 (some ⟨some 4, some 1000000, false⟩)) ∧
    (lapsing.flow.gates = gatesAt .o0 (some ⟨some 4, some 1000000, true⟩) ∧ heldOutlet lapsing .o0 = true ∧
      blockedOutlet lapsing .o0 = false) := by
  refine ⟨⟨⟨rfl, rfl, rfl, rfl⟩, rfl, rfl, rfl, rfl, by decide, .inl ⟨rfl, rfl⟩⟩,
    ⟨taken_of_takes (by decide), by decide, by decide, by decide, by decide, rfl, ?_, by unfold Room; decide, by decide, by decide⟩, rfl, ⟨count_comes _ ⟨rfl, rfl, rfl, rfl⟩ rfl rfl, no_trailing, reaches_only rfl rfl, rfl⟩,
    by decide⟩
  intro o x r' y
  cases o with
  | o0 => exact absurd rfl x
  | o1 => cases y
  | o2 => cases y; rfl
  | o3 => cases y; rfl

/-- A bag bound for outlet 2, PEER to 41, with a window of its own at diverter 2 and the gate of that outlet. -/
def aside : BagRecord := { bagAt 4 0 with tracking := .decided, chosen := some .o2 }
def sided (fire : Pos) (l : Option Bool) (s : State) : State :=
  { withBags [aside] s with
    divert := { windows := windowsAt .d2 ⟨some ⟨0, [⟨4, 0, some 600, false⟩], fire, none, false⟩, none⟩ }
    routes := { s.routes with rows := ⟨none, none, s.routes.rows.o0, none⟩ }
    flow := { s.flow with gates := gatesAt .o2 (l.map (fun l => ⟨some 4, some 1000000, l⟩)) } }

theorem test_witness_HoldLapses_diverter :
    let s := withWaiting (waitingFrames 14) (sided 4200000 none on)
    let latching := sided 4200000 (some false) (before (.stopPosition .o2) on)
    let lapsing := sided 4200000 (some true) held
    let turning := fun (d : Pos) => atD d (sided 4200000 (some false) on)
    (Ready s ∧ acting s = true ∧ s.tracker.segment = [aside] ∧ aside.chosen = some .o2 ∧ aside.tracking = .decided ∧
      aside.gatePassed ≠ some .o2 ∧ StopsBefore s aside .o2 4200000) ∧
    (Taken fromPeer s ∧ (row s .o2).map (fun r => (r.kind, r.peer)) = some (.peer, fromPeer.src) ∧ heldOutlet s .o2 = false ∧
      blockedOutlet s .o2 = false ∧ s.flow.gates = ⟨none, none, none, none⟩ ∧
      (∀ o, o ≠ .o2 → ∀ r', row s o = some r' → r'.kind = .terminal) ∧ Room 2 s ∧
      reached s.belt.d (stopAt s 4200000 s.belt.v) = false ∧ reached s.belt.d (stopAt s 50000 s.belt.v) = true) ∧
    (CountComes true false true latching ∧ (∀ e, (eyeOf latching e).trailing = none) ∧
      ReachesOnly (.stopPosition .o2) 1000000 true latching ∧
      latching.flow.gates = gatesAt .o2 (some ⟨some 4, some 1000000, false⟩)) ∧
    (lapsing.flow.gates = gatesAt .o2 (some ⟨some 4, some 1000000, true⟩) ∧ heldOutlet lapsing .o2 = true ∧
      blockedOutlet lapsing .o2 = false) ∧
    (diverterCfg s .d2 = some ⟨4200, 120, 150, 200, 200, 900⟩ ∧ leadOf (turning 0) ⟨4200, 120, 150, 200, 200, 900⟩ = 0 ∧
      reached (turning 0).belt.d ((0 : Pos) + mm 4200 - um 0) = false ∧
      reached (turning 4200000).belt.d ((0 : Pos) + mm 4200 - um 0) = true) := by
  refine ⟨⟨⟨rfl, rfl, rfl, rfl⟩, rfl, rfl, rfl, rfl, by decide, .inr ⟨.d2, _, _, rfl, rfl, rfl, rfl, rfl, rfl, rfl⟩⟩,
    ⟨taken_of_takes (by decide), by decide, by decide, by decide, rfl, ?_, by unfold Room; decide, by decide, by decide⟩,
    ⟨count_comes _ ⟨rfl, rfl, rfl, rfl⟩ rfl rfl, no_trailing, reaches_only rfl rfl, rfl⟩, by decide, by decide⟩
  intro o x r' y
  cases o with
  | o2 => exact absurd rfl x
  | o0 | o1 | o3 => cases y

theorem test_witness_HoldsGoToEverySource_marks :
    let b := { bagAt 4 0 with tracking := .diverting, confirm := some 0, lostPointPassed := true }
    let s := fun (n : Nat) => withWaiting (waitingFrames 11) { withBags [b] on with
      flow := { on.flow with occupancy := n, demand := true, holdValue := 50 } }
    (∀ n ∈ [7, 8, 13], Ready (s n) ∧ (s n).loader.node = .running ∧ (s n).tracker.segment = [b] ∧ b.tracking = .diverting ∧
      b.confirm.isSome = true ∧ b.lostPointPassed = true ∧ Room ((cfg (s n)).sources.length + 4) (s n)) ∧
    ((cfg (s 7)).lowMark = 7 - 1 ∧ (cfg (s 13)).highMark = 13 - 1) ∧
    (DemandLaw loading ∧ ∃ t, step loading = .next t) ∧ ∃ t, step (s 8) = .next t := by
  refine ⟨by unfold Ready Room; decide, by decide, ⟨⟨fun _ => ⟨rfl, rfl, rfl, rfl⟩, nofun⟩, ⟨_, rfl⟩⟩, ⟨_, rfl⟩⟩

/-- R141 to R143: at the low mark the demand ends and every source is told. -/
theorem test_low_mark_ends_the_hold :
    let b := { bagAt 4 0 with tracking := .diverting, confirm := some 0, lostPointPassed := true }
    let s := { withBags [b] on with flow := { on.flow with occupancy := 7, demand := true, holdValue := 50 } }
    let t := after (exec (.confirmTimeout 4) s)
    t.flow.demand = false ∧ t.flow.occupancy = 6 ∧ t.bus.waiting.head? = some ⟨17, .hold 0, 0⟩ ∧ t.flow.refresh = none := by
  decide

theorem test_witness_HoldsGoToEverySource_values :
    let s := withWaiting (waitingFrames 13) on
    let jam := fun d => { withReasons { jam := true, notRunning := false } s with flow := { s.flow with demand := d, holdValue := 255 } }
    let marked := { s with flow := { s.flow with occupancy := 11 } }
    (Ready s ∧ s.loader.node = .running ∧ Room ((cfg s).sources.length + 2) s ∧ s.drive.state = .run ∧ jammed s = false ∧
      s.flow.holdValue ≠ 255 ∧ s.flow.refresh = none) ∧
    (∀ d, jammed (jam d) = true ∧ (jam d).belt.eyes.entry.present = false ∧
      (if (jam d).flow.demand then (cfg (jam d)).holdQuanta else 0) ≠ (jam d).flow.holdValue) ∧
    (marked.belt.eyes.entry = ⟨false, false, none⟩ ∧ marked.tracker.segment.length < 32 ∧ marked.handoff.expected = [] ∧
      marked.flow.demand = false ∧ (cfg marked).highMark ≤ marked.flow.occupancy + 1 ∧
      (cfg marked).holdQuanta ≠ marked.flow.holdValue ∧
      (∀ n ∈ [(cfg marked).readerPosition, (cfg marked).decisionPosition, (cfg marked).exitPosition + (cfg marked).exitTolerance],
        reached marked.belt.d (entryPosition marked.tracker marked.belt.d + mm n) = false) ∧
      reached marked.belt.d (marked.belt.d + mm (cfg marked).lJam) = false) ∧
    (QuietLaw loading ∧ HoldLaw loading ∧ ∃ t, step loading = .next t) := by
  refine ⟨by unfold Ready Room; decide, by decide, by decide, ?_, ?_, ⟨_, rfl⟩⟩
  · unfold QuietLaw; decide
  · unfold HoldLaw; decide

theorem test_witness_DecisionWritesTheOutcome_again :
    let part := partOf 11
    let r := fun (tr : Tracking) (o : Outlet) =>
      { bagAt 0 0 with status := .resolved, part := some part, tracking := tr, chosen := some o, decision := ⟨some o, none, false⟩ }
    let w : Window := ⟨0, [⟨0, 0, some 600, false⟩], 1000000, none, false⟩
    let s := fun (b : BagRecord) => withWaiting (waitingFrames 13) (withBags [b] on)
    let late := fun (b : BagRecord) => { counted (s b) with routes := { (s b).routes with late := 0x4000 } }
    (Taken fromSource (s (r .decided .o2)) ∧ acting on = true ∧ on.routes.late ||| 0x4000 ≠ on.routes.late ∧
      Room 3 (s (r .decided .o2))) ∧
    (isDecided (r .onBelt .o2) = false ∧ (decideLines (late (r .decided .o3)) (r .decided .o3)).outlet = .o3 ∧
      (r .decided .o3).decision.outlet = some .o3 ∧ (r .diverting .o2).decision.outlet ≠ some .o3) ∧
    ((r .decided .o2).decision.outlet ≠ some (decideLines (late (r .decided .o2)) (r .decided .o2)).outlet ∧
      (s (r .decided .o2)).divert.windows = ⟨{}, {}, {}⟩ ∧
      PerDiverter.set (⟨{}, {}, {}⟩ : PerDiverter DiverterWindows) .d2 ⟨some w, none⟩ = ⟨{}, ⟨some w, none⟩, {}⟩ ∧
      w.bags = [⟨0, 0, some 600, false⟩] ∧ (r .decided .o2).chosen = some (outletOfDiverter .d2)) :=
  ⟨⟨taken_of_takes (by decide), by decide, by decide, by unfold Room; decide⟩, by decide, by decide⟩

theorem test_witness_HandoffMakesAnEntry_plate :
    let p := fun (present : Byte) => (⟨3, 4400000149, present, rawManifest (partOf 11), 0, 0, 600, 0⟩ : HandoffPayload)
    let s := withWaiting (waitingFrames 10) on
    let cached := { s with cache := { s.cache with
      sets := s.cache.sets.set (4400000149 % 64) [⟨0, some ⟨4400000149, partOf 11, 0⟩⟩, ⟨1, none⟩, ⟨2, none⟩, ⟨3, none⟩] } }
    let others := fun n => { s with queries := (List.range n).map (fun i => ⟨i + 1, 1, 200, [.entry 17 3]⟩) }
    (Taken fromSource s ∧ sourceOf s fromSource.src = some source17 ∧ findEntry s fromSource.src 3 = none ∧
      pairHeld (readHandoff fromSource.src (p 1)) s = false ∧ claimTarget (readHandoff fromSource.src (p 1)) s = none ∧
      Room ((cfg s).sources.length + 5) s) ∧
    ((readHandoff fromSource.src (p 1)).plate = 4400000149 ∧ (readHandoff fromSource.src (p 1)).part = some (partOf 11) ∧
      (readHandoff fromSource.src (p 0)).part = none ∧ queryFor 4400000149 (others 8) = none ∧ NoneHolds 4400000149 s) ∧
    ((getSet cached (4400000149 % 64)).filter (wayHolds 4400000149) = [⟨0, some ⟨4400000149, partOf 11, cached.cache.epoch⟩⟩] ∧
      (getSet s (4400000149 % 64)).filter (wayHolds 4400000149) = [] ∧ (others 7).queries.length < 8 ∧
      8 ≤ (others 8).queries.length) :=
  ⟨⟨taken_of_takes (by decide), by decide, by decide, by decide, by decide, by unfold Room; decide⟩,
    ⟨by decide, by decide, by decide, by decide, by unfold NoneHolds; decide⟩, by decide⟩

theorem test_witness_HandoffAlreadyKnownIsAccepted_resend :
    let p : HandoffPayload := ⟨3, 4400000149, 1, rawManifest (partOf 12), 0, 0, 600, 0⟩
    let s := withWaiting (waitingFrames 14) { on with handoff := { on.handoff with
      expected := [{ entryAt 3 0 with part := some (partOf 11), status := .resolved }] } }
    Taken fromSource s ∧ (speaks s = true ∧ sourceOf s fromSource.src = some source17 ∧
      (findEntry s fromSource.src 3).map (fun e => (e.plate, e.part)) = some (4400000149, some (partOf 11)) ∧
      (readHandoff fromSource.src p).plate = 4400000149 ∧ queryFor 4400000149 s = none ∧
      (readHandoff fromSource.src p).part = some (partOf 12)) ∧ PairLaw s.handoff ∧ Room 2 s :=
  ⟨taken_of_takes (by decide), by decide, by unfold PairLaw; decide, by unfold Room; decide⟩

theorem test_witness_HandoffAlreadyKnownIsAccepted_claim :
    let p := fun (plate : BitVec 40) (present : Byte) => (⟨3, plate, present, rawManifest (partOf 12), 0, 0, 600, 0⟩ : HandoffPayload)
    let b := { bagAt 4 0 with flags := { claimable := true } }
    let read := { b with plate := 7, identity := .read, held := some (.one 7) }
    let s := fun x => withWaiting (waitingFrames 14) (withBags [bagAt 0 0, x, bagAt 5 0] on)
    (Taken fromSource (s b) ∧ speaks (s b) = true ∧ sourceOf (s b) fromSource.src = some source17 ∧
      findEntry (s b) fromSource.src 3 = none ∧ pairHeld (readHandoff fromSource.src (p 7 1)) (s b) = false ∧
      (s b).handoff.expected = [] ∧ (s b).tracker.segment = [bagAt 0 0] ++ b :: [bagAt 5 0] ∧ isDecided b = false ∧
      b.part = none ∧ queryFor 7 (s b) = none ∧ Room 2 (s b)) ∧
    ((readHandoff fromSource.src (p 0 0)).plate = 0 ∧ (readHandoff fromSource.src (p 0 0)).part = none ∧ b.held = none) ∧
    ((readHandoff fromSource.src (p 7 1)).plate = 7 ∧ (readHandoff fromSource.src (p 7 1)).part = some (partOf 12) ∧
      (readHandoff fromSource.src (p 8 1)).plate = 8 ∧ read.held = some (.one 7) ∧ read.plate = 7 ∧
      read.flags.claimable = true ∧ ∀ y ∈ [bagAt 0 0] ++ [bagAt 5 0], y.plate ≠ 7 ∧ y.plate ≠ 8) :=
  ⟨⟨taken_of_takes (by decide), by decide, by decide, by decide, by decide, by decide, rfl, by decide, by decide, by decide,
    by unfold Room; decide⟩, by decide, by decide⟩

theorem test_witness_WatchListFollowsTheSearch_missing :
    let s := fun (n : NodeState) (l : List BagRecord) => withWaiting (waitingFrames 10) (withBags l { before (.windowEnd 17 3) (at_ n) with
      handoff := { (at_ n).handoff with expected := [entryAt 3 900000] } })
    (∀ l, CountComes true false true (s .running l) ∧ (∀ e, (eyeOf (s .running l) e).trailing = none) ∧
      ReachesOnly (.windowEnd 17 3) 1000000 true (s .running l) ∧
      findEntry (s .running l) 17 3 = some (entryAt 3 900000) ∧ speaks (s .running l) = true ∧
      queueLength (s .running l).bus + ((cfg (s .running l)).sources.length + 5) = 16) ∧
    (CountComes true false true (s .duplicate []) ∧ speaks (s .duplicate []) = false) ∧ (entryAt 3 900000).plate ≠ 0 ∧
    (∃ b ∈ (s .running [{ bagAt 0 0 with plate := 4400000149 }]).tracker.segment, b.plate = (entryAt 3 900000).plate) :=
  ⟨fun _ => ⟨count_comes _ ⟨rfl, rfl, rfl, rfl⟩ rfl rfl, no_trailing, reaches_only rfl rfl, rfl, rfl, rfl⟩,
    ⟨count_comes _ ⟨rfl, rfl, rfl, rfl⟩ rfl rfl, rfl⟩, by decide, by decide⟩

theorem test_witness_FrameTakesItsCourse_reports :
    let s := fun (n : NodeState) => { at_ n with bus := { on.bus with
      waiting := waitingFrames 14, reports := [.path 17, .hold 17], attempt := some ⟨⟨17, .counterClear, 0⟩, 0, .sending⟩ } }
    (∀ n, Ready (s n) ∧ (s n).bus.attempt = some ⟨⟨17, .counterClear, 0⟩, 0, .sending⟩ ∧
      (s n).bus.waiting.length + (s n).bus.reports.length ≤ 16) ∧
    (∀ r ∈ (s .running).bus.reports, ∃ station, r = .hold station ∨ r = .path station) ∧
    (s .running).loader.node = .running ∧ (s .joining).loader.node ≠ .running := by
  refine ⟨fun n => ⟨⟨rfl, rfl, rfl, rfl⟩, rfl, by show (14 : Nat) + 2 ≤ 16; decide⟩, ?_, rfl, by decide⟩
  intro r x
  have y : r = .path 17 ∨ r = .hold 17 := by simpa using x
  rcases y with rfl | rfl
  · exact ⟨17, .inr rfl⟩
  · exact ⟨17, .inl rfl⟩

theorem test_witness_FrameTakesItsCourse_unsent :
    let s := fun (q : Queued) (t : State) => { t with bus := { on.bus with waiting := waitingFrames 13, attempt := some ⟨q, 13, .jamming⟩ } }
    let query : Queued := ⟨126, .query 4400000149, 0⟩
    let hand := fun (n : Nat) => (⟨41, .handoff payload, n⟩ : Queued)
    (∀ n ∈ [1, 2], Ready (s query (asking n [.bag 0])) ∧
      (queryFor 4400000149 (s query (asking n [.bag 0]))).map QueryEntry.attempts = some n) ∧
    queryFor 4400000149 (s query on) = none ∧
    (∀ n ∈ [4, 5], (openDeparture 41 3 (s (hand n) (opened n (.answer 9)))).map (fun d => (d.attempts, d.outgoing)) =
      some (n, some ⟨payload, .answer 9⟩)) ∧
    (openDeparture 41 3 (s (hand 1) (opened 2 (.answer 9)))).map Departure.attempts = some 2 ∧
    openDeparture 41 3 (s (hand 1) on) = none ∧ (∀ y ∈ (opened 5 (.answer 9)).handoff.peers, y.giveUps < 2) ∧
    ((s query on).bus.attempt = some ⟨query, 13, .jamming⟩ ∧ (s query on).bus.reports = [] ∧ (s query on).loader.node = .running ∧
      (s query on).bus.waiting.length + 3 ≤ 16) := by
  unfold Ready; decide

/-- R177, log 7: a PATH that is refused in the event of an abandonment stays pending for a later event: the frame of class 4 is
reported once, and queue-drop rises once. -/
theorem test_refused_path_waits_for_a_later_event :
    let s := { on with bus := { on.bus with
      waiting := List.replicate 16 ⟨41, .hold 5, 0⟩, attempt := some ⟨⟨17, .path 0, 0⟩, 13, .jamming⟩ } }
    let t := after (exec .jamComplete s)
    t.bus.reports = [.path 17] ∧ t.bus.due = [] ∧ t.bus.queueDrop = 1 ∧ t.bus.attempt = none := by decide

theorem test_witness_OffersToTheTransmitQueue_reports :
    let full := withWaiting (List.replicate 16 ⟨41, .hold 5, 0⟩) on
    (at_ .duplicate).loader.node = .duplicate ∧ (16 ≤ queueLength full.bus ∧
      (∀ q ∈ ([⟨17, .hold 1, 0⟩, ⟨17, .path 0, 0⟩, ⟨17, .query 7, 0⟩, ⟨17, .handoff payload, 1⟩] : List Queued),
        (∀ y ∈ full.bus.waiting, replaces q.dest q.payload y = false) ∧
        ∀ y ∈ full.bus.waiting, queuedClass y ≤ queuedClass q)) := by decide

theorem test_witness_KindsWithoutAnOwner_straps :
    let s := { at_ .configFault with loader := { (at_ .configFault).loader with station := 126 } }
    Ready s ∧ onLine s.bus = false ∧ stationNumber 17 = true ∧ (17 : Byte) ≠ s.loader.station ∧ (126 : Byte) ≠ 127 ∧
      stationNumber s.loader.station = false ∧ (126 : Byte) = s.loader.station := by unfold Ready; decide

theorem test_witness_FramesReadAsTheyAreWritten_straps :
    (127 : Byte) = 127 ∧ stationNumber 126 = false ∧
      classify 126 ⟨frameBytes 125 127 (.hold 5), true⟩ = .delivered ⟨127, 125⟩ (.hold 5) ∧
      classify 126 ⟨frameBytes 125 126 (.hold 5), true⟩ = .elsewhere := by decide +kernel

/-! ## Witnesses of the clauses on windows, reaches, readers and edges of one count -/

theorem test_witness_EveryStepKeepsTheTables_live :
    let bag := { bagAt 0 0 with plate := 4400000149, flags := { duplicate := true } }
    let entry := { entryAt 3 900000 with created := 5, flags := { duplicate := true } }
    let s := fun (d : Pos) (awaited : Option Eye) (pending : List Instr) => { withBags [bag] on with
      belt := { on.belt with d := d, register := [⟨.windowEnd 17 3, 1000000⟩], awaited := awaited }
      handoff := { on.handoff with expected := [entry] }, serial := { on.serial with creation := 6 }, pending := pending }
    let early := s 999500 none [.collision]
    let late := s 1000000 (some .entry) [.eyeLeadingEdge .entry]
    ((∃ t, step early = .next t) ∧ DuplicateLaw early ∧ EndLaw early ∧ AwaitLaw early ∧ SourceLaw early ∧ EndsNear early) ∧
      (∃ t, step late = .next t) ∧ EndLaw late ∧ AwaitLaw late ∧ SourceLaw late ∧ EndsNear late := by
  refine ⟨⟨⟨_, rfl⟩, ⟨by decide, by unfold PairLaw; decide, by decide, by decide⟩,
      ⟨by unfold PairLaw; decide, by decide, by decide⟩, .inl rfl, by unfold SourceLaw; decide, by unfold EndsNear; decide⟩,
    ⟨_, rfl⟩, ⟨by unfold PairLaw; decide, by decide, by decide⟩, .inr ⟨rfl, _, _, rfl, rfl⟩, by unfold SourceLaw; decide,
    by unfold EndsNear; decide⟩

theorem test_witness_EveryStepKeepsTheTables_waiters :
    let s := beforeCollision (withBags [{ bagAt 5 0 with plate := 4400000149, status := .awaitingAnswer }] (asking 1 [.bag 5]))
    PlateLaw s.cache ∧ WaiterLaw s ∧ ∃ t, step s = .next t := by
  have e : ∀ ways ∈ on.cache.sets, ways = emptySet := by decide +kernel
  have x : PlateLaw on.cache := by
    refine ⟨fun i w a e' b => ?_, fun ways a => ?_⟩
    · have c : on.cache.sets.getD i emptySet = emptySet := by
        rw [List.getD_eq_getElem?_getD]
        cases d : on.cache.sets[i]? with
        | none => rfl
        | some v => exact e v (List.mem_of_getElem? d)
      rw [c] at a
      have f : ∀ w ∈ emptySet, w.entry = none := by decide
      rw [f w a] at b
      cases b
    · rw [e ways a]; decide
  exact ⟨x, ⟨x, by unfold PairLaw; decide, by decide +kernel, by decide⟩, ⟨_, rfl⟩⟩

theorem test_witness_EveryStepKeepsPinsInStep_awaited :
    let s := { on with belt := { on.belt with awaited := some .exit }, pending := [.eyeLeadingEdge .exit] }
    AwaitLaw s ∧ s.owed = [] ∧ ∃ t, step s = .next t := ⟨.inr ⟨rfl, _, _, rfl, rfl⟩, rfl, ⟨_, rfl⟩⟩

theorem test_witness_SpeedWindowEndMeasuresSpeed_windows :
    let w := fun (n : Nat) (e : Pos) fired => (⟨n, [⟨n, e, some 600, false⟩], e + 1, none, fired⟩ : Window)
    let s := { on with divert := { windows := ⟨{}, ⟨some (w 0 0 true), some (w 1 0 false)⟩, ⟨some (w 2 (0 - mm 9000) false), none⟩⟩ }
                       serial := { on.serial with window := 3 } }
    (Ready s ∧ s.flow.gates = ⟨none, none, none, none⟩ ∧ WindowLaw s ∧ leadOf s ⟨4200, 120, 150, 200, 200, 900⟩ = 0) ∧
    diverterCfg s .d2 = some ⟨4200, 120, 150, 200, 200, 900⟩ ∧ diverterCfg s .d3 = some ⟨9000, 120, 150, 200, 200, 900⟩ ∧
    w 1 0 false ∈ windowList (s.divert.windows.get .d2) ∧ reached s.belt.d ((0 : Pos) + mm 4200 - um 0) = false ∧
    w 2 (0 - mm 9000) false ∈ windowList (s.divert.windows.get .d3) ∧
    reached s.belt.d ((0 : Pos) - mm 9000 + mm 9000 - um 0) = true ∧ w 0 0 true ∈ windowList (s.divert.windows.get .d2) :=
  ⟨⟨⟨rfl, rfl, rfl, rfl⟩, rfl, fun k => by cases k <;> exact ⟨by decide, by decide, by decide, by decide⟩, by decide⟩, by decide⟩

theorem test_witness_StallHaltsTheDrive_owed :
    let s := fun st r n => withReasons { stall := r, jam := true, notRunning := false }
      { on with drive := { reasons := {}, state := st, stall := n } }
    (Ready (s .halted false 199) ∧ (s .halted false 199).drive.state ≠ .run ∧ (s .halted false 199).drive.stall < 200) ∧
    (200 ≤ (s .halted false 200).drive.stall ∧ (s .halted false 200).drive.reasons.stall = false) ∧
    (200 ≤ (s .decel false 200).drive.stall ∧ (s .decel false 200).drive.state ≠ .halted) ∧
    (200 ≤ (s .halted true 200).drive.stall ∧ (s .halted true 200).drive.reasons.stall = true) := by
  unfold Ready; decide

/-- R14, log 30: a stall count of 200 that a halt finds is not lost: STALL joins in HALTED. -/
theorem test_owed_stall_joins :
    let s := { on with drive := { on.drive with stall := 200 } }
    (after (exec .estopAsserted s)).drive.stall = 200 ∧
      (after (exec .stallDetected (after (exec .estopAsserted s)))).drive.reasons = ⟨true, false, true, false, false, false⟩ := by
  decide

theorem test_witness_JamClearRemovesJamAndStall_blocked :
    let s := fun delivered l => withBags l (withEntryEye ⟨true, delivered, none⟩ (halted true))
    let full := (List.range 32).map (fun i => bagAt i 0)
    let clear := fun (s : State) => (∀ n ∈ [(cfg s).readerPosition, (cfg s).decisionPosition,
          (cfg s).exitPosition + (cfg s).exitTolerance, (cfg s).claimDistance],
        reached s.belt.d (entryPosition s.tracker s.belt.d + mm n) = false) ∧
      reached s.belt.d (s.belt.d + mm (cfg s).lJam) = false
    (Ready (s true []) ∧ (s true []).drive.reasons.jam = true ∧ (s true []).belt.eyes.entry.delivered = true ∧ clear (s true [])) ∧
    (∀ l ∈ [[], full], (s false l).belt.eyes.entry.present = true ∧ (s false l).belt.eyes.entry.delivered = false ∧
      acting (s false l) = true ∧ clear (s false l)) ∧
    (s false []).tracker.segment.length < 32 ∧ 32 ≤ (s false full).tracker.segment.length := by
  unfold Ready; decide

theorem test_witness_ArrivalMakesARecordOrAnOverrun_claim :
    let s := withBags [{ bagAt 0 0 with flags := { claimable := true } }] (before (.claimEnd 0) on)
    CountComes true false true s ∧ (∀ e, (eyeOf s e).trailing = none) ∧ ReachesOnly (.claimEnd 0) 1000000 true s ∧
      s.tracker.segment.map (fun b => b.flags.claimable) = [true] :=
  ⟨count_comes _ ⟨rfl, rfl, rfl, rfl⟩ rfl rfl, no_trailing, reaches_only rfl rfl, by decide⟩

theorem test_witness_ArrivalTakesItsAnnouncement :
    let x := fun plate => { entryAt 3 4950000 with plate := plate }
    let pre := [{ entryAt 2 4800000 with plate := 8 }]
    let post := [entryAt 5 5050000]
    let s := fun plate => withWaiting (waitingFrames 11) { atD 5000000 (withBags [bagAt 0 0] on) with
      handoff := { on.handoff with expected := pre ++ x plate :: post } }
    let e := entryPosition (s 7).tracker (s 7).belt.d
    let c := cfg (s 7)
    let inWindow := fun (y : ExpectedEntry) => (posDiff e y.x).natAbs ≤ y.halfWidth
    (∀ plate, Ready (s plate) ∧ acting (s plate) = true ∧ jammed (s plate) = false ∧
      (s plate).belt.eyes.entry = ⟨false, false, none⟩ ∧ (s plate).tracker.segment.length < 32 ∧
      (s plate).handoff.expected = pre ++ x plate :: post ∧ (segmentSlots (s plate)).Nodup) ∧
    (PairLaw (s 7).handoff ∧ Room (3 * c.sources.length + 2) (s 7)) ∧
    ((∀ y ∈ pre, ¬ inWindow y) ∧ (∀ y ∈ post, inWindow y ∧ 0 ≤ posDiff y.x (x 7).x) ∧ inWindow (x 7)) ∧
    (reached (s 7).belt.d ((s 7).belt.d + mm c.lJam) = false ∧ reached (s 7).belt.d (e + mm c.readerPosition) = false ∧
      reached (s 7).belt.d (e + mm c.decisionPosition) = false ∧
      reached (s 7).belt.d (e + mm (c.exitPosition + c.exitTolerance)) = false) ∧
    ((∃ y ∈ pre ++ post, y.plate = (x 8).plate) ∧ (∀ b ∈ (s 7).tracker.segment, b.plate ≠ (x 7).plate) ∧
      ∀ y ∈ pre ++ post, y.plate ≠ (x 7).plate) := by
  refine ⟨fun _ => ⟨⟨rfl, rfl, rfl, rfl⟩, rfl, rfl, rfl, (by decide : 1 < 32), rfl, (by decide : [0].Nodup)⟩, ?_, by decide, by decide,
    by decide⟩
  unfold PairLaw Room; decide

theorem test_witness_ArrivalTakesItsAnnouncement_equal :
    let s := { atD 5000000 (withBags [] on) with handoff := { on.handoff with expected := [entryAt 3 4950000, entryAt 4 4950000] } }
    let inWindow := fun (y : ExpectedEntry) => (posDiff s.belt.d y.x).natAbs ≤ y.halfWidth
    (∀ y ∈ s.handoff.expected, inWindow y) ∧ 0 ≤ posDiff (entryAt 4 4950000).x (entryAt 3 4950000).x ∧
      ¬ posDiff (entryAt 4 4950000).x (entryAt 3 4950000).x < 0 := by decide

theorem test_witness_OutletEyesAccountForObjects_departure :
    let past := fun (st : HandoffState) => (⟨0, .o0, none, 0, 41, some 9, st, 1, none⟩ : Departure)
    let s := fun (b : BagRecord) (l : List Departure) => withWaiting (waitingFrames 11) { atD 12300000 (withBags [b] on) with
      tracker := { on.tracker with segment := [b], history := l } }
    let bag := fun (tr : Tracking) (u : Bool) => { bagAt 1 0 with chosen := some .o0, tracking := tr, flags := { uncertain := u } }
    let side := fun (u : Bool) => { bagAt 1 0 with chosen := some .o2, tracking := .diverting, confirm := some 5, flags := { uncertain := u } }
    (∀ tr ∈ [Tracking.decided, .onBelt], ∀ u ∈ [true, false],
      Ready (s (bag tr u) []) ∧ acting (s (bag tr u) []) = true ∧ eyeOf (s (bag tr u) []) .exit = ⟨false, false, none⟩ ∧
      exitMatch (s (bag tr u) []) (s (bag tr u) []).belt.d = some (bag tr u) ∧
      Room ((cfg (s (bag tr u) [])).sources.length + 4) (s (bag tr u) []) ∧ peerOf (s (bag tr u) []) .o0 = some 41 ∧
      openDeparture 41 (s (bag tr u) []).handoff.nextId (s (bag tr u) []) = none ∧ (s (bag tr u) []).loader.node ≠ .duplicate) ∧
    (∀ u ∈ [true, false], confirmable (s (side u) []) .d2 = some (side u) ∧ peerOf (s (side u) []) (outletOfDiverter .d2) = none ∧
      eyeOf (s (side u) []) (.confirm .d2) = ⟨false, false, none⟩) ∧
    (let l := List.replicate 32 (past .accepted)
     32 ≤ l.length ∧ l.getLast? = some (past .accepted) ∧ HandoffState.accepted ≠ .awaitingAccept ∧
      openDeparture 41 (s (bag .decided false) l).handoff.nextId (s (bag .decided false) l) = none) ∧
    (∀ q ∈ (s (bag .decided false) []).handoff.peers, q.giveUps < 2) := by
  unfold Ready Room; decide

theorem test_witness_ConfirmTimerRunsOut_edge :
    let s := fun l => withWaiting (waitingFrames 12) { withBags l (before (.lostPoint 0) on) with pending := [.eyeLeadingEdge .exit] }
    let x := { bagAt 0 (1000000 - mm 12300) with tracking := .decided, chosen := some .o0 }
    let behind := { bagAt 1 (1000000 - mm 12000) with tracking := .decided, chosen := some .o0 }
    let gone := { x with tracking := .diverting, chosen := some .o2 }
    (∀ l, CountComes true false true (s l) ∧ (∀ e, (eyeOf (s l) e).trailing = none) ∧
      ReachesOnly (.lostPoint 0) (movedTo true (s l)) true (s l) ∧ (s l).pending = .eyeLeadingEdge .exit :: [] ∧
      (s l).belt.eyes.exit = ⟨false, false, none⟩ ∧ (s l).divert.windows = ⟨{}, {}, {}⟩) ∧
    (findBag (s [x]) 0 = some x ∧ x.tracking ≠ .diverting ∧ exitMatch (s [x]) (movedTo true (s [x])) = some x) ∧
    (findBag (s [gone, behind]) 0 = some gone ∧ gone.confirm = none ∧
      exitMatch (s [gone, behind]) (movedTo true (s [gone, behind])) = some behind ∧ behind.slot ≠ 0) :=
  ⟨fun _ => ⟨count_comes _ ⟨rfl, rfl, rfl, rfl⟩ rfl rfl, no_trailing, reaches_only rfl rfl, rfl, rfl, rfl⟩, by decide, by decide⟩

theorem test_witness_ConfirmTimerRunsOut_no_edge :
    let s := withBags [bagAt 0 0] (before (.lostPoint 0) on)
    (1000000 = movedTo true s → ¬ EdgeWaits .exit s) ∧ ¬ EdgeWaits .exit { s with pending := [.eyeLeadingEdge .entry] } :=
  ⟨(fun _ ⟨_, x⟩ => nomatch x), (fun ⟨_, x⟩ => nomatch x)⟩

/-- R37, log 40: a lost point held back for its edge: the edge takes the record, and nothing is lost. -/
theorem test_edge_before_the_lost_point :
    let x := { bagAt 0 (1000000 - mm 12300) with tracking := .decided, chosen := some .o0 }
    let s := { atD 1000000 (withBags [x] on) with
      belt := { on.belt with d := 1000000, awaited := some .exit, register := [⟨.lostPoint 0, 1000000⟩] } }
    let t := after (exec (.eyeLeadingEdge .exit) s)
    t.tracker.departed = 1 ∧ t.tracker.lost = 0 ∧ t.belt.awaited = none ∧ t.belt.register = [] := by decide

theorem test_witness_ReaderLinkWithoutAResult_position :
    let r := fun (out : Option Outstanding) queue down => { on.reader with outstanding := out, queue := queue, down := down }
    let s := fun reader => { withBags [bagAt 5 0] (before (.readerPosition 5) on) with reader := reader }
    let absent := { s (r none [] false) with loader := { on.loader with config := some { site with readerPresent := false } } }
    let busy := some ⟨9, .poll, 40⟩
    (∀ reader, CountComes true false true (s reader) ∧ (∀ e, (eyeOf (s reader) e).trailing = none) ∧
      ReachesOnly (.readerPosition 5) 1000000 true (s reader) ∧
      findBag (s reader) 5 = some (bagAt 5 0)) ∧
    ((cfg (s (r none [] false))).readerPresent = true ∧ (s (r busy [1, 2, 3] false)).reader.queue.length < 4 ∧
      4 ≤ (s (r busy [1, 2, 3, 4] false)).reader.queue.length ∧ (s (r none [] true)).reader.down = true) ∧
    (CountComes true false true absent ∧ (cfg absent).readerPresent = false) :=
  ⟨fun _ => ⟨count_comes _ ⟨rfl, rfl, rfl, rfl⟩ rfl rfl, no_trailing, reaches_only rfl rfl, rfl⟩,
    by decide, count_comes _ ⟨rfl, rfl, rfl, rfl⟩ rfl rfl, rfl⟩

theorem test_witness_ReaderLinkWithoutAResult_flush :
    let s := fun a => withBags [bagAt 5 0, { bagAt 6 0 with plate := 7, tracking := .decided }] (asked a [5, 6])
    (∀ a, Ready (s a) ∧ (s a).reader.down = false ∧ 2 ≤ (s a).reader.misses ∧ (s a).reader.queue = [5, 6]) ∧
      ReadOutstanding 9 none (s (.read none)) ∧ (s .poll).reader.outstanding = some ⟨9, .poll, 40⟩ ∧
      findBag (s .poll) 5 = some (bagAt 5 0) :=
  ⟨fun _ => ⟨⟨rfl, rfl, rfl, rfl⟩, rfl, by show 2 ≤ 2; decide, rfl⟩, ⟨_, rfl⟩, rfl, rfl⟩

theorem test_witness_ReadReplyResolvesIdentity_duplicate :
    let other := fun (n : Nat) => { bagAt 6 0 with plate := 7, created := n }
    let entry := fun (n : Nat) => { entryAt 3 0 with plate := 7, created := n }
    let s := fun (n : Nat) (l : List ExpectedEntry) => { withBags [bagAt 5 0, other n] (asked (.read (some 5)) []) with handoff := { on.handoff with expected := l } }
    (Ready (s 4 []) ∧ linkActs (s 4 []) = true ∧ findBag (s 4 []) 5 = some (bagAt 5 0) ∧ isDecided (bagAt 5 0) = false ∧
      readResult [7] = .one 7 ∧ (bagAt 5 0).plate = 0) ∧
    (∀ n ∈ [5, 6], (segmentSlots (s n [entry n])).Nodup ∧ other n ∈ (s n [entry n]).tracker.segment ∧
      entry n ∈ (s n [entry n]).handoff.expected) ∧ PairLaw (s 6 [entry 6]).handoff ∧
    (other 5).created ≤ (bagAt 5 0).created ∧ (bagAt 5 0).created < (other 6).created := by
  unfold Ready PairLaw; decide

/-- The ways of the set 21, the current epoch 0: one of the plate, an empty one, old ones, current ones. -/
def waysOf (l : List (Nat × Option CacheEntry)) (s : State) : State :=
  { s with cache := { s.cache with sets := s.cache.sets.set (4400000149 % 64) (l.map (fun x => ⟨x.1, x.2⟩)) } }

theorem test_witness_AnswerServesTheWaiter_offer :
    let p : AnswerPayload := ⟨4400000149, 1, rawManifest (partOf 12), 0⟩
    let other := fun (n : Nat) (epoch : Byte) => some (⟨4400000149 + 64 * n, partOf 11, epoch⟩ : CacheEntry)
    let s := fun (x : Option CacheEntry) (y : Option CacheEntry) => waysOf [(2, x), (3, y), (0, other 1 0), (1, other 2 0)] on
    let far := { partOf 12 with destination := 5 }
    (∀ x ∈ [(some ⟨4400000149, partOf 11, 0⟩, none), (other 3 0, none), (other 3 1, other 4 1), (other 3 0, other 4 0)],
      Taken fromSource (s x.1 x.2) ∧ acting (s x.1 x.2) = true ∧ RankLaw (s x.1 x.2).cache ∧ (s x.1 x.2).cache.sets.length = 64 ∧
        queryFor 4400000149 (s x.1 x.2) = none ∧ NoneHolds 4400000149 (s x.1 x.2)) ∧
    plateValid p.plate.toNat = true ∧ readManifest p.part = some (partOf 12) ∧ p.epoch = on.cache.epoch ∧ (1 : Byte) ≠ on.cache.epoch ∧
    OfInterest on false (partOf 12) ∧ ¬ OfInterest on false far ∧ readManifest (rawManifest far) = some far := by
  refine ⟨?_, by decide, by decide, by decide, by decide, .inr ⟨.o2, _, rfl, by decide⟩, ?_, by decide⟩
  · intro x y
    have z := y
    simp only [List.mem_cons, List.not_mem_nil, or_false] at z
    rcases z with rfl | rfl | rfl | rfl <;>
      exact ⟨taken_of_takes (by decide), by decide, by unfold RankLaw; decide, by decide, by decide, by unfold NoneHolds; decide⟩
  · rintro (x | ⟨o, c, x, y⟩)
    · cases x
    · cases o <;> cases x <;> revert y <;> decide

theorem test_witness_AnswerServesTheWaiter_cache : RankLaw on.cache ∧ on.cache.sets.length = 64 := by
  unfold RankLaw; decide

theorem test_witness_ReachFollows :
    let s := withWaiting (waitingFrames 15) (withBags [bagAt 0 0] on)
    (followsChute s .d2 = true ∧ (row s .o2).map RouteRow.closed = some false ∧ (∀ b ∈ s.tracker.segment, isDecided b = false) ∧
      Room (cfg s).sources.length s) ∧
    (Taken fromPeer s ∧ acting s = true ∧ s.loader.node = .running ∧
      (row s .o0).map (fun r => (r.kind, r.peer, r.learned)) = some (.peer, fromPeer.src, 0xFF0000)) ∧
    (∀ o r, row s o = some r → r.kind = .peer → r.peer = fromPeer.src → r.learned = 0xFF0000) ∧
    (after (exec (.pathReceived fromPeer 0x10000) s)).routes.advertised ≠ s.routes.advertised ∧
    (after (exec (.chuteFullClose .d2) s)).routes.advertised ≠ s.routes.advertised := by
  refine ⟨by unfold Room; decide, ⟨taken_of_takes (by decide), by decide⟩, ?_, by decide, by decide⟩
  intro o r x y z
  cases o <;> cases x <;> first | rfl | cases y

theorem test_witness_DecisionWritesTheOutcome_lines :
    let r := fun (f : BagFlags) (p : Option ManifestPart) => { bagAt 0 0 with flags := f, part := p, status := .resolved }
    let part := fun (ship : Nat) (dest : Nat) (c : BagClass) => (⟨ship, 8114, dest, c, 11⟩ : ManifestPart)
    let late := { on with routes := { on.routes with late := 0x4000 } }
    let alone := { on with routes := { on.routes with rows := on.routes.rows.set .o0 none } }
    let unresolved := fun plate source => { bagAt 0 0 with plate := plate, source := source, status := .unresolved }
    decideLines on (r { stray := true, duplicate := true } none) = ⟨.o3, none⟩ ∧
    decideLines on { r { stray := true, duplicate := true, mismatch := true } none with decision := ⟨some .o3, none, true⟩ } =
      ⟨.o3, some .duplicate⟩ ∧
    decideLines on (r { mismatch := true, ambiguous := true } none) = ⟨.o3, some .mismatch⟩ ∧
    decideLines on (r { ambiguous := true } (some (part 0 14 .cancelled))) = ⟨.o3, some .ambiguous⟩ ∧
    decideLines on (r {} (some (part 0 14 .cancelled))) = ⟨.o3, some .cancelled⟩ ∧
    decideLines on (r {} (some (part 0 14 .inspect))) = ⟨.o3, some .inspect⟩ ∧
    decideLines late (r {} (some (part 0 14 .standard))) = ⟨.o3, some .wrongShip⟩ ∧
    decideLines late (r {} (some (part 3 14 .standard))) = ⟨.o3, some .wrongShip⟩ ∧
    decideLines late { r {} (some (part 2 14 .standard)) with passCount := 3 } = ⟨.o3, some .late⟩ ∧
    decideLines on { r {} (some (part 2 14 .standard)) with passCount := 3 } = ⟨.o3, some .recircLimit⟩ ∧
    decideLines on (unresolved 7 17) = ⟨.o0, none⟩ ∧ decideLines alone (unresolved 7 17) = ⟨.o3, some .noManifest⟩ ∧
    decideLines alone (unresolved 0 17) = ⟨.o3, some .noRead⟩ ∧ decideLines alone (unresolved 0 0) = ⟨.o3, some .unannounced⟩ ∧
    decideLines on (r {} (some (part 2 14 .standard))) = ⟨.o2, none⟩ ∧ bestCandidate on (part 2 5 .standard) = none ∧
    decideLines on (r {} (some (part 2 5 .standard))) = ⟨.o0, none⟩ ∧
    decideLines alone (r {} (some (part 2 5 .standard))) = ⟨.o3, some .noRoute⟩ := by decide

/-- A count that reaches the decision position of slot 1 behind slot 0, which entered some way before it. -/
def decides (destination : Nat) (gap : Nat) (e : Pos) (w : PerDiverter DiverterWindows) : State :=
  { before (.decisionPosition 1) (withWaiting (waitingFrames 13) (withBags [{ bagAt 0 (e - mm 600 - um gap) with tracking := .decided },
      { bagAt 1 e with status := .resolved, part := some ⟨2, 8114, destination, .standard, 11⟩ }] on)) with
    divert := { windows := w }, serial := { on.serial with window := 1 } }

/-- A window of diverter 2 with some bags the last of which lies a gap ahead of an entry position. -/
def windowOf (n : Nat) (fired : Bool) (gap : Nat) (e : Pos) : PerDiverter DiverterWindows :=
  windowsAt .d2 ⟨some ⟨0, List.replicate n ⟨7, e - mm 1200, some 600, false⟩ ++ [⟨0, e - mm 600 - um gap, some 600, false⟩],
    1000000, none, fired⟩, none⟩

theorem test_witness_DecisionWritesTheOutcome_premises (dest gap : Nat) (e : Pos) (w : PerDiverter DiverterWindows) :
    let s := decides dest gap e w
    CountComes true false true s ∧ (∀ e, (eyeOf s e).trailing = none) ∧ s.flow.gates = ⟨none, none, none, none⟩ ∧
      ReachesOnly (.decisionPosition 1) 1000000 true s ∧
      (segmentSlots s).Nodup ∧ queueLength s.bus + 3 ≤ 16 ∧ s.tracker.segment.map isDecided = [true, false] ∧ s.divert.windows = w :=
  ⟨count_comes _ ⟨rfl, rfl, rfl, rfl⟩ rfl rfl, no_trailing, rfl, reaches_only rfl rfl, (by decide : [0, 1].Nodup),
    (by decide : 13 + 3 ≤ 16), rfl, rfl⟩

theorem test_witness_DecisionWritesTheOutcome_windows :
    let x : DiverterConfig := ⟨4200, 120, 150, 200, 200, 900⟩
    let bag := fun (s : State) => s.tracker.segment.getD 1 (bagAt 1 0)
    let outcome := fun (s : State) => (decideLines s (countPass s (bag s))).outlet
    let first := fun gap (e : Pos) => decides 14 gap e ⟨{}, {}, {}⟩
    let behind := fun n gap => decides 14 gap 0 (windowOf n false gap 0)
    let passing := fun gap fired => decides 16 gap 0 (windowOf 0 fired gap 0)
    let near := fun (s : State) (n : Nat) => s.tracker.segment.map (fun y => decide (gapTo (bag s).entry y.entry y.length < n)) |>.head?
    (outcome (first 0 0) = .o2 ∧ diverterCfg (first 0 0) .d2 = some x ∧ leadOf (first 0 0) x = 0 ∧
      (∀ y ∈ (first 0 0).tracker.segment, ¬ BoundBefore (first 0 0) x.position y)) ∧
    (near (first 199999 0) (x.approach * 1000 + 0) = some true ∧ near (first 200000 0) (x.approach * 1000 + 0) = some false) ∧
    (reached 1000000 ((0 : Pos) + mm x.position - um 0) = false ∧ reached 1000000 ((0 : Pos) - mm 4200 + mm x.position - um 0) = true ∧
      reached 1000000 ((0 : Pos) + mm 600 + mm (x.position + x.release)) = false) ∧
    (near (behind 0 399999) ((x.release + x.approach) * 1000) = some true ∧
      near (behind 0 400000) ((x.release + x.approach) * 1000) = some false ∧ outcome (behind 3 0) = .o2 ∧
      (behind 0 400000).serial.window = 1) ∧
    (outcome (passing 0 true) = .o0 ∧ near (passing 399999 false) ((x.release + x.approach) * 1000) = some true ∧
      near (passing 400000 false) ((x.release + x.approach) * 1000) = some false ∧
      0 < posDiff (bag (passing 0 false)).entry ((0 : Pos) - mm 600 - um 0)) := by
  unfold BoundBefore
  refine ⟨⟨by decide, by decide, by decide, ?_⟩, by decide, by decide, by decide, by decide⟩
  rintro y z ⟨k, c, v, -⟩
  have u : ∀ y ∈ (decides 14 0 0 ⟨{}, {}, {}⟩).tracker.segment, y.chosen = none := by decide
  rw [u y z] at v
  cases v

theorem test_witness_WindowFiresAndReleases_next :
    let w := fun n fired => (⟨n, [⟨n, 0, some 600, false⟩], 1000000, none, fired⟩ : Window)
    let pass := fun tr => withBags [{ bagAt 0 0 with tracking := tr, chosen := some .o2 }] (before (.passPosition .d2 0) on)
    let release := fun fired => { before (.releasePoint .d2 0) on with divert := { windows := ⟨{}, ⟨some (w 0 true), some (w 1 fired)⟩, {}⟩ } }
    (∀ tr, CountComes true false true (pass tr) ∧ (∀ e, (eyeOf (pass tr) e).trailing = none) ∧
      diverterCfg (pass tr) .d2 = some ⟨4200, 120, 150, 200, 200, 900⟩ ∧
      ReachesOnly (.passPosition .d2 0) 1000000 true (pass tr)) ∧
    (∀ fired, CountComes true false true (release fired) ∧ (∀ e, (eyeOf (release fired) e).trailing = none) ∧
      (release fired).divert.windows.get .d2 = ⟨some (w 0 true), some (w 1 fired)⟩ ∧
      ReachesOnly (.releasePoint .d2 (w 0 true).number) 1000000 true (release fired)) :=
  ⟨fun _ => ⟨count_comes _ ⟨rfl, rfl, rfl, rfl⟩ rfl rfl, no_trailing, rfl, reaches_only rfl rfl⟩,
    fun _ => ⟨count_comes _ ⟨rfl, rfl, rfl, rfl⟩ rfl rfl, no_trailing, rfl, reaches_only rfl rfl⟩⟩

theorem test_witness_WindowFiresAndReleases_leaves :
    let b := { bagAt 0 0 with tracking := .diverting, chosen := some .o2 }
    let y := (⟨1, 9000000, some 600, false⟩ : WindowBag)
    let z := fun (len : Option Nat) => (⟨0, 0, len, false⟩ : WindowBag)
    let w := fun (fired : Bool) (bags : List WindowBag) => (⟨0, bags, 1000000, none, fired⟩ : Window)
    let s := fun (fired : Bool) (bags : List WindowBag) => withWaiting (waitingFrames 11) { atD 12300000 (withBags [b] on) with
      divert := { windows := windowsAt .d2 ⟨some (w fired bags), none⟩ } }
    (∀ fired ∈ [true, false], ∀ bags ∈ [[z none], [z (some 600)], [z (some 600), y], [y, z (some 600)]],
      Ready (s fired bags) ∧ acting (s fired bags) = true ∧ (s fired bags).belt.eyes.exit = ⟨false, false, none⟩ ∧
      exitMatch (s fired bags) (s fired bags).belt.d = some b ∧ Room ((cfg (s fired bags)).sources.length + 4) (s fired bags) ∧
      (s fired bags).divert.windows = windowsAt .d2 ⟨some (w fired bags), none⟩) ∧
    diverterCfg (s true []) .d2 = some ⟨4200, 120, 150, 200, 200, 900⟩ ∧ (∀ q ∈ (s true []).handoff.peers, q.giveUps < 2) ∧
    y.slot ≠ b.slot ∧ reached (s false []).belt.d (y.entry + mm 4200 - um (leadOf (s false []) ⟨4200, 120, 150, 200, 200, 900⟩)) = false ∧
    reached (s false []).belt.d (y.entry + mm 600 + mm (4200 + 200)) = false := by
  unfold Ready Room; decide

theorem test_witness_WindowFiresAndReleases_length :
    let y := (⟨2, 0, some 600, false⟩ : WindowBag)
    let z := fun (e : Pos) => (⟨1, e, none, false⟩ : WindowBag)
    let w := fun (bags : List WindowBag) => (⟨0, bags, 1000000, none, true⟩ : Window)
    let r := { bagAt 1 20000000 with length := none, tracking := .entering }
    let s := fun (bags : List WindowBag) => { withBags [bagAt 0 0, r] (atD 20669500 (withEntryEye ⟨false, true, some 20650000⟩ on)) with
      divert := { windows := windowsAt .d2 ⟨some (w bags), none⟩ } }
    (∀ bags, CountComes true false true (s bags) ∧ (s bags).belt.eyes.entry.trailing = some 20650000 ∧ (s bags).belt.register = [] ∧
      (s bags).tracker.segment = [bagAt 0 0] ++ [r] ∧ (s bags).divert.windows = windowsAt .d2 ⟨some (w bags), none⟩) ∧
    (20000 ≤ posDiff (movedTo true (s [])) 20650000 ∧ r.length = none ∧ (∀ x ∈ [bagAt 0 0], x.slot ≠ r.slot) ∧
      0 < posDiff 20650000 r.entry ∧ diverterCfg (s []) .d2 = some ⟨4200, 120, 150, 200, 200, 900⟩ ∧ (z 0).slot = r.slot ∧
      y.slot ≠ r.slot ∧ (w [z 0, y]).bags = [] ++ z 0 :: [y] ∧
      reached (movedTo true (s [])) ((z 20000000).entry + mm 650 + mm (4200 + 200)) = false ∧
      reached (movedTo true (s [])) ((z 0).entry + mm 650 + mm (4200 + 200)) = true) :=
  ⟨fun _ => ⟨count_comes _ ⟨rfl, rfl, rfl, rfl⟩ rfl rfl, rfl, rfl, rfl, rfl⟩, by decide⟩

theorem test_witness_HandoffMakesAnEntry_duplicate :
    let p : HandoffPayload := ⟨3, 4400000149, 1, rawManifest (partOf 11), 0, 0, 600, 0⟩
    let s := { withBags [{ bagAt 0 0 with plate := 4400000149 }] on with serial := { on.serial with creation := 1 } }
    (Taken fromSource s ∧ speaks s = true ∧ sourceOf s fromSource.src = some source17 ∧ findEntry s fromSource.src 3 = none ∧
      pairHeld (readHandoff fromSource.src p) s = false ∧ claimTarget (readHandoff fromSource.src p) s = none ∧
      s.handoff.expected.length < 16) ∧
    (reached s.belt.d (s.belt.d + mm source17.leadIn + um (source17.tolerance * 1000)) = false ∧
      (readHandoff fromSource.src p).plate ≠ 0 ∧ (segmentSlots s).Nodup ∧ PairLaw s.handoff ∧
      ∃ b ∈ s.tracker.segment, b.plate = (readHandoff fromSource.src p).plate ∧ b.created ≤ s.serial.creation) :=
  ⟨⟨taken_of_takes (by decide), by decide⟩, by unfold PairLaw; decide⟩

theorem test_witness_WatchListFollowsTheSearch_found :
    let plate : BitVec 40 := 4400000149
    let gone : Departure := ⟨4400000149, .o0, some 14, 0, 41, some 3, .accepted, 1, none⟩
    let s := fun n (l : List BagRecord) (x : List ExpectedEntry) (d : List Departure) => { withBags l (at_ n) with
      tracker := { on.tracker with segment := l, history := d }, handoff := { (at_ n).handoff with expected := x } }
    let held := fun tr => { bagAt 0 0 with plate := 4400000149, tracking := tr, chosen := some .o2 }
    (∀ u ∈ [s .running [held .onBelt] [] [], s .running [held .decided] [] [], s .running [bagAt 0 0] [entryAt 3 0] [],
        s .running [] [] [gone]], Taken fromSource u ∧ acting u = true ∧ speaks u = true ∧ Room 1 u) ∧
    (Taken fromSource (s .duplicate [held .onBelt] [] []) ∧ acting (s .duplicate [] [] []) = true ∧
      (s .duplicate [] [] []).loader.node = .duplicate) ∧
    plateValid plate.toNat = true ∧ (held .onBelt).plate = plate.toNat ∧ (entryAt 3 0).plate = plate.toNat ∧ gone.plate = plate.toNat := by
  refine ⟨?_, ⟨taken_of_takes (by decide), by decide⟩, by decide⟩
  intro u x
  simp only [List.mem_cons, List.not_mem_nil, or_false] at x
  rcases x with rfl | rfl | rfl | rfl <;> exact ⟨taken_of_takes (by decide), by decide, by decide, by unfold Room; decide⟩

theorem test_witness_WatchListFollowsTheSearch_watched :
    let watched := fun (s : State) => withWaiting (waitingFrames 10) { s with exc := { s.exc with watch := [⟨7, 1, 17⟩, ⟨4400000149, 2, 41⟩] } }
    let read := fun (b : BagRecord) => watched (withBags [b] (asked (.read (some 5)) []))
    let p : HandoffPayload := ⟨3, 4400000149, 1, rawManifest (partOf 11), 0, 0, 600, 0⟩
    (∀ b ∈ [bagAt 5 0, { bagAt 5 0 with tracking := .decided, chosen := some .o2 }], Ready (read b) ∧ linkActs (read b) = true ∧
      speaks (read b) = true ∧ findBag (read b) 5 = some b ∧ Room 6 (read b)) ∧ ReadOutstanding 9 (some 5) (read (bagAt 5 0)) ∧
    readResult [4400000149] = .one 4400000149 ∧
    FirstOf (fun y => y.plate = 4400000149) (watched on).exc.watch ⟨4400000149, 2, 41⟩ ∧
    (Taken fromSource (watched on) ∧ speaks on = true ∧ sourceOf on fromSource.src = some source17 ∧
      findEntry (watched on) fromSource.src 3 = none ∧ pairHeld (readHandoff fromSource.src p) (watched on) = false ∧
      claimTarget (readHandoff fromSource.src p) (watched on) = none ∧ queryFor 4400000149 (watched on) = none ∧
      (readHandoff fromSource.src p).plate = 4400000149 ∧ Room ((cfg (watched on)).sources.length + 5) (watched on)) := by
  refine ⟨by unfold Ready Room; decide, ⟨_, rfl⟩, by decide, ⟨[⟨7, 1, 17⟩], [], rfl, rfl, by decide⟩,
    taken_of_takes (by decide), by decide, by decide, by decide, by decide, by decide, by decide, by decide, by unfold Room; decide⟩

theorem test_witness_WatchListFollowsTheSearch_edge :
    let s := fun x => { before (.windowEnd 17 3) on with
      handoff := { on.handoff with expected := [{ entryAt 3 x with halfWidth := (posDiff 1000000 x).toNat }] }
      pending := [.eyeLeadingEdge .entry] }
    let e := { entryAt 3 900000 with halfWidth := 100000 }
    let floored := { s 900000 with tracker := { on.tracker with segment := [bagAt 0 0], floor := some 1050000 } }
    (CountComes true false true (s 900000) ∧ (∀ y, (eyeOf (s 900000) y).trailing = none) ∧ (s 900000).handoff.expected = [e] ∧
      endOf e = movedTo true (s 900000) ∧ ReachesOnly (.windowEnd e.source e.id) (movedTo true (s 900000)) true (s 900000) ∧
      jammed (s 900000) = false ∧ (s 900000).belt.eyes.entry = ⟨false, false, none⟩ ∧ (s 900000).tracker.segment.length < 32 ∧
      (posDiff (entryPosition (s 900000).tracker (movedTo true (s 900000))) e.x).natAbs ≤ e.halfWidth) ∧
    (CountComes true false true floored ∧ (∀ y, (eyeOf floored y).trailing = none) ∧
      e.halfWidth < (posDiff (entryPosition floored.tracker (movedTo true floored)) e.x).natAbs) ∧
    ((1000000 : Pos) = movedTo true (before (.windowEnd 17 3) on) → ¬ EdgeWaits .entry (before (.windowEnd 17 3) on)) :=
  ⟨⟨count_comes _ ⟨rfl, rfl, rfl, rfl⟩ rfl rfl, no_trailing, by decide, by decide, reaches_only rfl rfl, rfl, rfl, by decide, by decide⟩,
    ⟨count_comes _ ⟨rfl, rfl, rfl, rfl⟩ rfl rfl, no_trailing, by decide⟩, (fun _ ⟨_, x⟩ => nomatch x)⟩

/-- R134, log 40: a window end held back for its edge: the arrival takes the entry, and nothing is missing. -/
theorem test_edge_before_the_window_end :
    let s := { on with
      belt := { on.belt with d := 1000000, awaited := some .entry, register := [⟨.windowEnd 17 3, 1000000⟩] }
      handoff := { on.handoff with expected := [entryAt 3 900000] } }
    let t := after (exec (.eyeLeadingEdge .entry) s)
    t.handoff.expected = [] ∧ t.handoff.recentMissing = [] ∧ t.tracker.segment.map BagRecord.sourceId = [some 3] ∧
      t.belt.awaited = none := by decide

/-- R131: with Kc 0 the flag is cleared in the same event, also where the entry floor lies past D; no claim end is held. -/
theorem test_no_claim_without_a_claim_distance :
    let s := { on with
      loader := { on.loader with config := some { site with claimDistance := 0 } }
      tracker := { on.tracker with segment := [bagAt 0 0], floor := some 650000 }
      belt := { on.belt with d := 640000 } }
    let t := after (exec (.eyeLeadingEdge .entry) s)
    t.tracker.segment.map (fun b => (b.entry, b.flags.claimable)) = [(0, false), (650000, false)] ∧
      isHeld (.claimEnd 1) t = false ∧ isHeld (.lostPoint 1) t = true := by decide

/-- R132 step 8, R83, R85 (log 57): a decided record claimed with 2 passes at a loop head, the pass limit 3, has 3 when it is
re-decided and goes to the exception outlet; a frame of a source that is not loop-return leaves 2 and outlet 0. -/
theorem test_claim_counts_before_redecision :
    let head := fun (back : Bool) => { site with loopHead := true, sources := [⟨17, 2000, 100, back⟩] }
    let through : BagRecord := { bagAt 0 0 with
      flags := { claimable := true }, tracking := .decided, chosen := some .o0, decision := ⟨some .o0, none, false⟩ }
    let s := fun back => { withBags [through] on with loader := { on.loader with config := some (head back) } }
    let t := fun back => after (exec (.handoffReceived fromSource ⟨3, 0, 0, rawManifest (partOf 12), 2, 0, 600, 0⟩) (s back))
    (t true).tracker.segment.map (fun b => (b.passCount, b.chosen, b.reason)) = [(3, some .o3, some .recircLimit)] ∧
      (t false).tracker.segment.map (fun b => (b.passCount, b.chosen, b.reason)) = [(2, some .o0, none)] := by decide

end Sys2Proof.Tests
end

section
/-! PROOFS. What a step and a command can do, said once: a command is its effect and the end of its event; every command but five
leaves the settings as they were, does not raise the reference and keeps the laws of the drive, of the hold-off and of the speed. -/

namespace Sys2Proof.Machine

/-! ## A command is its effect and the end of its event -/

/-- What a command does before its event ends (settle). -/
def effect (c : Instr) : State → State :=
  match c with
  | .reset lines => resetPart lines
  | .resetNAsserted => fun s => { s with inReset := true }
  | .configAddressNack => addressNack
  | .configReaddress => readdressMemory
  | .configReadComplete bytes => readComplete bytes
  | .listenTimeout => listenEnds
  | .encoderCount a b => encoderSample a b
  | .speedWindowEnd => speedWindow
  | .stallDetected => stallFires
  | .rampStep => fun s => onDrive (rampDrive (cfg s)) s
  | .haltQuietTimeout => quietEnds
  | .estopAsserted => fun s => estopJoins (putEstopLine true s)
  | .estopDeasserted => fun s => estopLeaves (putEstopLine false s)
  | .jamclrActivation => fun s => jamCleared (putJamclrLine s)
  | .eyeLeadingEdge eye => leadingEdge eye
  | .eyeTrailingEdge eye => trailingEdge eye
  | .chuteFullClose k => writeClosed k true
  | .chuteFullReopen k => writeClosed k false
  | .readReply whole number plates => readReplyTaken whole number plates
  | .pollReply whole number => pollReplyTaken whole number
  | .readTimeout => readTimesOut
  | .pollTimeout => pollTimesOut
  | .idleTimeout => idleEnds
  | .queryDeadline plate => deadlinePasses plate
  | .epochWalkStep => walkStep
  | .confirmTimeout slot => confirmExpires slot
  | .answerWaitTimeout peer id => attemptUnanswered peer id
  | .retryDelayTimeout peer id => retryDelayOut peer id
  | .holdExpiry outlet => holdLapses outlet
  | .holdRefreshTimeout => holdRefreshed
  | .watchLapse => watchLapses
  | .transmitStart => onBus beginSending
  | .collision => onBus collide
  | .jamComplete => jamEnds
  | .backoffExpiry => onBus backoffEnds
  | .frameSent => frameLeaves
  | .handoffReceived h p => deliverFrame h (handoffTaken h.src p)
  | .acceptReceived h id => deliverFrame h (acceptReceived h.src id)
  | .retryReceived h id => deliverFrame h (retryReceived h.src id)
  | .pathReceived h reach => deliverFrame h (pathTaken h.src reach)
  | .holdReceived h quanta => deliverFrame h (holdTaken h.src quanta)
  | .answerReceived h p => deliverFrame h (answerTaken p)
  | .updateReceived h p => deliverFrame h (updateTaken p)
  | .epochReceived h epoch => deliverFrame h (epochTaken epoch)
  | .destCloseReceived h destinations action => deliverFrame h (destCloseTaken destinations action)
  | .missingReceived h plate reporter => deliverFrame h (missingTaken plate reporter)
  | .foundReceived h p => deliverFrame h (foundTaken p)
  | .statusReqReceived h item page => deliverFrame h (statusRequested h item page)
  | .counterClearReceived h => deliverFrame h countersCleared
  | .announceReceived h _ => deliverFrame h noOwner
  | .queryReceived h _ => deliverFrame h noOwner
  | .strayReceived h _ => deliverFrame h noOwner
  | .statusReplyReceived h _ _ data => replyTaken h data
  | .alertReceived h _ => deliverFrame h noOwner
  | .ownNumberFrame _ _ _ => fun s => if onLine s.bus then s else ownNumberSeen s
  | .frameDiscarded frame => frameEnded frame

/-- Any command but RESET and RESET_N acts in a part out of reset only. -/
theorem exec_act {c : Instr} (hr : ∀ r, c ≠ .reset r) (hn : c ≠ .resetNAsserted) (s : State) :
    exec c s = act (effect c) s := by
  cases c
  case reset r => exact absurd rfl (hr r)
  case resetNAsserted => exact absurd rfl hn
  all_goals rfl

theorem exec_reset (r : ResetLines) (s : State) : exec (.reset r) s = .next (settle (resetPart r s)) := rfl

theorem exec_resetN (s : State) : exec .resetNAsserted s = .next (drivePins { s with inReset := true }) := rfl

/-- In a part out of reset a command is its effect and the end of its event; with no report owed it only brings the output lines
up to date. -/
theorem exec_ready {c : Instr} (hr : ∀ r, c ≠ .reset r) (hn : c ≠ .resetNAsserted) {s : State} (h : s.inReset = false) :
    exec c s = .next (settle (effect c s)) := by rw [exec_act hr hn, act_ready h]

/-- The three outcomes of a command: its effect with the end of its event, the part held in reset, or nothing in a part that is
held in reset. -/
theorem exec_cases {c : Instr} {s t : State} (h : exec c s = .next t) :
    ((∃ r, c = .reset r) ∨ s.inReset = false) ∧ c ≠ .resetNAsserted ∧ t = settle (effect c s) ∨
      c = .resetNAsserted ∧ t = drivePins { s with inReset := true } ∨
      s.inReset = true ∧ (∀ r, c ≠ .reset r) ∧ t = s := by
  by_cases hr : ∃ r, c = .reset r
  · obtain ⟨r, rfl⟩ := hr
    rw [exec_reset] at h
    cases h
    exact .inl ⟨.inl ⟨r, rfl⟩, by simp, rfl⟩
  · rw [not_exists] at hr
    by_cases hn : c = .resetNAsserted
    · subst hn
      rw [exec_resetN] at h
      cases h
      exact .inr (.inl ⟨rfl, rfl⟩)
    · rw [exec_act hr hn] at h
      cases hs : s.inReset with
      | false =>
        rw [act_ready hs] at h
        cases h
        exact .inl ⟨.inr rfl, hn, rfl⟩
      | true =>
        rw [act_held hs] at h
        cases h
        exact .inr (.inr ⟨rfl, hr, rfl⟩)

/-- A step runs the command at the front of the queue, or the time base when none waits. -/
theorem step_cases {s t : State} (h : step s = .next t) :
    s.pending = [] ∧ t = idle s ∨ ∃ c rest, s.pending = c :: rest ∧ exec c { s with pending := rest } = .next t := by
  unfold step at h
  split at h
  · rename_i hp
    cases h
    exact .inl ⟨hp, rfl⟩
  · rename_i c rest hp
    exact .inr ⟨c, rest, hp, h⟩

/-! ## What every command leaves -/

/-- The parts of the state that `Confined` speaks of. -/
def confinedPart (s : State) :=
  (s.belt, s.drive, s.holdOff, s.loader.station, s.loader.factoryId, s.loader.config, s.loader.image, s.routes.late, s.cache.epoch)

/-- What every command but RESET leaves, each of five with an exception of its own (`Excepted`): D, the settings of the Loader,
the late set and the epoch stand, the reference does not rise, and the laws of the drive, the hold-off and the speed are kept. -/
structure Confined (s t : State) : Prop where
  d : t.belt.d = s.belt.d
  station : t.loader.station = s.loader.station
  factoryId : t.loader.factoryId = s.loader.factoryId
  config : t.loader.config = s.loader.config
  image : t.loader.image = s.loader.image
  late : t.routes.late = s.routes.late
  epoch : t.cache.epoch = s.cache.epoch
  reference : t.drive.r ≤ s.drive.r
  drive : DriveLaw s.drive → DriveLaw t.drive
  estop : EstopLaw s → EstopLaw t
  speed : SpeedLaw s.belt → SpeedLaw t.belt

namespace Confined

variable {s t u : State}

theorem refl (s : State) : Confined s s := ⟨rfl, rfl, rfl, rfl, rfl, rfl, rfl, le_rfl, id, id, id⟩

theorem trans (h : Confined s t) (k : Confined t u) : Confined s u :=
  ⟨k.d.trans h.d, k.station.trans h.station, k.factoryId.trans h.factoryId, k.config.trans h.config, k.image.trans h.image,
   k.late.trans h.late, k.epoch.trans h.epoch, k.reference.trans h.reference, k.drive ∘ h.drive, k.estop ∘ h.estop,
   k.speed ∘ h.speed⟩

theorem ite {p : Prop} [Decidable p] (ht : Confined s t) (hu : Confined s u) : Confined s (if p then t else u) := by
  split
  · exact ht
  · exact hu

/-- A change beside the belt, the drive and the hold-off that leaves the settings as they were. -/
theorem beside (h : confinedPart t = confinedPart s) : Confined s t := by
  simp only [confinedPart, Prod.mk.injEq] at h
  obtain ⟨hb, hd, ho, h1, h2, h3, h4, h5, h6⟩ := h
  exact ⟨by rw [hb], h1, h2, h3, h4, h5, h6, by rw [hd], by rw [hd]; exact id, by rw [EstopLaw, EstopLaw, hd, ho, hb]; exact id,
    by rw [hb]; exact id⟩

/-- The late set may be written before as well as after. -/
theorem withLate (h : Confined s t) (late : DestSet) :
    Confined { s with routes := { s.routes with late := late } } { t with routes := { t.routes with late := late } } :=
  ⟨h.d, h.station, h.factoryId, h.config, h.image, rfl, h.epoch, h.reference, h.drive, h.estop, h.speed⟩

/-- The epoch may be written before as well as after. -/
theorem withEpoch (h : Confined s t) (e : Byte) :
    Confined { s with cache := { s.cache with epoch := e } } { t with cache := { t.cache with epoch := e } } :=
  ⟨h.d, h.station, h.factoryId, h.config, h.image, h.late, rfl, h.reference, h.drive, h.estop, h.speed⟩

end Confined

theorem Lawful.confined {s t : State} (h : Lawful s t) : Confined s t :=
  ⟨h.d, by rw [h.loader], by rw [h.loader], by rw [h.loader], by rw [h.loader], h.late, h.epoch, h.reference, h.drive, h.estop,
   h.speed⟩

theorem Calm.confined {s t : State} (h : Calm s t) : Confined s t := h.lawful.confined

theorem Level.confined {s t : State} (h : Level s t) : Confined s t := h.lawful.confined

/-- The five commands with an exception, and the state that differs from the one before by it alone: an encoder count moves D, a
ramp step the reference, a completed read may put a configuration in force, a DEST_CLOSE write the late set, an EPOCH the epoch. -/
def Excepted (c : Instr) (s u : State) : Prop :=
  match c with
  | .encoderCount _ _ => ∃ d, (d = s.belt.d ∨ d = s.belt.d + um (cfg s).scale ∨ d = s.belt.d - um (cfg s).scale) ∧
      u = onBeltUnit (fun b => { b with d := d }) s
  | .rampStep => u = onDrive (rampDrive (cfg s)) s
  | .configReadComplete _ => ∃ config image, u = onLoader (fun l => { l with config := config, image := image }) s
  | .destCloseReceived _ _ _ => ∃ late, u = { s with routes := { s.routes with late := late } }
  | .epochReceived _ _ => ∃ epoch, u = { s with cache := { s.cache with epoch := epoch } }
  | _ => u = s

theorem settle_confined (s : State) : Confined s (settle s) := (settle_lawful s).confined

theorem onLoader_confined (f : Loader → Loader) (s : State)
    (h : ∀ l, (f l).station = l.station ∧ (f l).factoryId = l.factoryId ∧ (f l).config = l.config ∧ (f l).image = l.image) :
    Confined s (onLoader f s) :=
  have ⟨h1, h2, h3, h4⟩ := h s.loader
  .beside (by simp [confinedPart, onLoader, h1, h2, h3, h4])

theorem enterConfigFault_confined (s : State) : Confined s (enterConfigFault s) :=
  Confined.trans (onLoader_confined _ s (by exact fun _ => ⟨rfl, rfl, rfl, rfl⟩)) (enterConfigFault_lawful s).confined

theorem addressNack_confined (s : State) : Confined s (addressNack s) := by
  unfold addressNack
  have hl := onLoader_confined
    (fun l => { l with nacks := l.nacks + 1, reading := false, readdress := some Config.readdressWait }) s
    fun _ => ⟨rfl, rfl, rfl, rfl⟩
  exact .ite (.ite hl (hl.trans (enterConfigFault_confined _))) (.refl s)

theorem readdressMemory_confined (s : State) : Confined s (readdressMemory s) :=
  .ite (onLoader_confined _ s fun _ => ⟨rfl, rfl, rfl, rfl⟩) (.refl s)

theorem listenEnds_confined (s : State) : Confined s (listenEnds s) :=
  .ite (Confined.trans (onLoader_confined _ s (by exact fun _ => ⟨rfl, rfl, rfl, rfl⟩)) (enterRunning_lawful s).confined)
    (.refl s)

theorem ownNumberSeen_confined (s : State) : Confined s (ownNumberSeen s) :=
  (onLoader_confined _ s fun l => by unfold loaderSeen; split <;> exact ⟨rfl, rfl, rfl, rfl⟩).trans
    (ownNumberSeen_lawful s).confined

/-- R182: a completed read may put a configuration in force and keep an image; else it is confined. -/
theorem readComplete_confined (bytes : List Byte) (s : State) :
    ∃ u, Excepted (.configReadComplete bytes) s u ∧ Confined u (readComplete bytes s) := by
  unfold readComplete
  split
  · simp only
    split
    · obtain ⟨u, hu, he⟩ := enterJoining_lawful (readConfig (bytesRead bytes))
        (onLoader (fun l => { l with image := some (bytesRead bytes) }) s)
      refine ⟨_, ⟨some (readConfig (bytesRead bytes)), some (bytesRead bytes), rfl⟩, ?_⟩
      rw [he]
      exact (Confined.trans (.beside (by rfl)) hu.confined).trans (onLoader_confined _ u fun _ => ⟨rfl, rfl, rfl, rfl⟩)
    · exact ⟨_, ⟨s.loader.config, some (bytesRead bytes), rfl⟩, enterConfigFault_confined _⟩
  · exact ⟨_, ⟨s.loader.config, s.loader.image, rfl⟩, .refl s⟩

/-- R1: an encoder sample may move D by S; else it is confined. -/
theorem encoderSample_confined (a b : Bool) (s : State) :
    ∃ u, Excepted (.encoderCount a b) s u ∧ Confined u (encoderSample a b s) := by
  have hlines : Confined s { s with lines := { s.lines with encA := a, encB := b } } := .beside (by rfl)
  have stands : ∃ u, Excepted (.encoderCount a b) s u ∧ Confined u { s with lines := { s.lines with encA := a, encB := b } } :=
    ⟨s, ⟨s.belt.d, .inl rfl, rfl⟩, hlines⟩
  unfold encoderSample
  simp only
  split
  · exact stands
  · rename_i forward _
    split
    · have hcount := (beltCount_lawful forward { s with lines := { s.lines with encA := a, encB := b } }).confined
      refine ⟨_, ⟨movedTo forward s, ?_, rfl⟩, Confined.trans ?_ hcount⟩
      · cases forward <;> simp [movedTo]
      · cases forward <;> exact ⟨rfl, rfl, rfl, rfl, rfl, rfl, rfl, le_rfl, id, id, id⟩
    · exact stands

theorem quietEnds_confined (s : State) : Confined s (quietEnds s) := by
  unfold quietEnds
  split
  · rename_i hq
    have hr : (quietOut (cfg s).rRun s.drive).reasons = s.drive.reasons := examine_reasons _ _
    exact (onDrive_level (quietOut (cfg s).rRun) s (examine_r _ _) (fun h => quietOut_law _ _ (h.coasts hq) h)
      (by rw [hr]) (by rw [hr]) (by rw [hr])).confined
  · exact .refl s

theorem putLate_confined (late : DestSet) (s : State) :
    Confined { s with routes := { s.routes with late := late } } (putLate late s) := (putLate_lawful late s).confined

theorem writeClosed_confined (k : Diverter) (closed : Bool) (s : State) : Confined s (writeClosed k closed s) := by
  unfold writeClosed
  simp only
  have hl : Confined s { s with lines := { s.lines with full := s.lines.full.set k closed } } := .beside (by rfl)
  exact .ite (Confined.trans (.beside (by rfl)) (putClosed_lawful _ _ _).confined) hl

theorem leadingEdge_confined (e : Eye) (s : State) : Confined s (leadingEdge e s) := (leadingEdge_lawful e s).confined

theorem trailingEdge_confined (e : Eye) (s : State) : Confined s (trailingEdge e s) :=
  .ite (eyeCleared_lawful e s).confined (.refl s)

theorem holdRefreshed_confined (s : State) : Confined s (holdRefreshed s) := by
  unfold holdRefreshed
  exact .ite ((toSources_calm _ s).setRefresh _).confined (.refl s)

/-! ## The reader link -/

theorem onReader_confined (f : ReaderLink → ReaderLink) (s : State) : Confined s (onReader f s) := .beside (by rfl)

theorem readReplyTaken_confined (w : Bool) (n : Byte) (l : List Nat) (s : State) : Confined s (readReplyTaken w n l s) := by
  unfold readReplyTaken readReplied
  refine .ite ?_ (.refl s)
  split
  · exact .ite (readAnswered_level _ _ s).confined (onReader_confined _ s)
  · exact onReader_confined _ s

theorem pollReplyTaken_confined (w : Bool) (n : Byte) (s : State) : Confined s (pollReplyTaken w n s) := by
  unfold pollReplyTaken pollReplied
  refine .ite ?_ (.refl s)
  split
  · exact .ite (onReader_confined _ s) (onReader_confined _ s)
  · exact onReader_confined _ s

theorem readTimesOut_confined (s : State) : Confined s (readTimesOut s) := by
  unfold readTimesOut
  split
  · exact (readMissed_level _ s).confined
  · exact .refl s

theorem pollTimesOut_confined (s : State) : Confined s (pollTimesOut s) := by
  unfold pollTimesOut
  split
  · exact ((onReader_confined _ s).trans (checkDown_level _).confined).trans (onReader_confined _ _)
  · exact .refl s

theorem idleEnds_confined (s : State) : Confined s (idleEnds s) := .ite (onReader_confined _ s) (.refl s)

/-! ## The hall bus -/

theorem onBus_confined (f : Bus → Bus) (s : State) : Confined s (onBus f s) := .beside (by rfl)

/-- R174: a frame delivered to an owner that is confined but for an exception is so as a whole. -/
theorem deliverFrame_excepted {h : Header} {owner : State → State} {s : State} (p : State → State → Prop) (hs : p s s)
    (ho : ∀ t, Confined s t → ∃ u, p s u ∧ Confined u (owner t)) :
    ∃ u, p s u ∧ Confined u (deliverFrame h owner s) := by
  unfold deliverFrame
  split
  · exact ⟨s, hs, .refl s⟩
  · split
    · exact ⟨s, hs, onBus_confined _ s⟩
    · split
      · exact ⟨s, hs, ownNumberSeen_confined s⟩
      · split
        · exact ⟨s, hs, .refl s⟩
        · exact ho _ ((onBus_confined _ s).trans (peerHeard_lawful _ _).confined)

theorem deliverFrame_confined (h : Header) {owner : State → State} (s : State) (ho : ∀ t, Confined t (owner t)) :
    Confined s (deliverFrame h owner s) := by
  obtain ⟨u, rfl, hu⟩ := deliverFrame_excepted (h := h) (s := s) (fun a b => b = a) rfl fun t ht => ⟨s, rfl, ht.trans (ho t)⟩
  exact hu

/-- R80: a DEST_CLOSE may write the late set; else it is confined. -/
theorem destCloseTaken_confined (x : DestSet) (action : Byte) (s : State) :
    ∃ late, Confined { s with routes := { s.routes with late := late } } (destCloseTaken x action s) := by
  unfold destCloseTaken
  split
  · split
    · exact ⟨_, putLate_confined _ s⟩
    · split
      · exact ⟨_, putLate_confined _ s⟩
      · exact ⟨s.routes.late, .refl s⟩
  · exact ⟨s.routes.late, .refl s⟩

/-- R75: an EPOCH may write the epoch; else it is confined. -/
theorem epochTaken_confined (e : Byte) (s : State) :
    ∃ epoch, Confined { s with cache := { s.cache with epoch := epoch } } (epochTaken e s) := by
  unfold epochTaken
  split
  · exact ⟨e, (newEpoch_level e s).confined⟩
  · exact ⟨s.cache.epoch, .refl s⟩

theorem destClose_excepted (h : Header) (x : DestSet) (action : Byte) (s : State) :
    ∃ u, Excepted (.destCloseReceived h x action) s u ∧ Confined u (deliverFrame h (destCloseTaken x action) s) := by
  refine deliverFrame_excepted (Excepted _) ⟨s.routes.late, rfl⟩ fun t ht => ?_
  obtain ⟨late, hl⟩ := destCloseTaken_confined x action t
  exact ⟨_, ⟨late, rfl⟩, (ht.withLate late).trans hl⟩

theorem epoch_excepted (h : Header) (e : Byte) (s : State) :
    ∃ u, Excepted (.epochReceived h e) s u ∧ Confined u (deliverFrame h (epochTaken e) s) := by
  refine deliverFrame_excepted (Excepted _) ⟨s.cache.epoch, rfl⟩ fun t ht => ?_
  obtain ⟨epoch, he⟩ := epochTaken_confined e t
  exact ⟨_, ⟨epoch, rfl⟩, (ht.withEpoch epoch).trans he⟩

theorem replyTaken_confined (h : Header) (data : List Byte) (s : State) : Confined s (replyTaken h data s) :=
  .ite (onBus_confined _ s) (deliverFrame_confined h s .refl)

theorem frameEnded_confined (f : RawFrame) (s : State) : Confined s (frameEnded f s) := by
  unfold frameEnded
  refine .ite (.refl s) ?_
  split
  · exact onBus_confined _ s
  · exact (onBus_confined _ s).trans (countEvent_calm _ _).confined
  · exact onBus_confined _ s
  all_goals exact .refl s

/-! ## Every command -/

/-- Every command but RESET is confined, five of them from the state that their exception has written. -/
theorem effect_confined {c : Instr} (hr : ∀ r, c ≠ .reset r) (s : State) :
    ∃ u, Excepted c s u ∧ Confined u (effect c s) := by
  have lines : ∀ l : Lines, Confined s { s with lines := l } := fun _ => .beside (by rfl)
  cases c
  case reset r => exact absurd rfl (hr r)
  case encoderCount a b => exact encoderSample_confined a b s
  case rampStep => exact ⟨_, rfl, .refl _⟩
  case configReadComplete bytes => exact readComplete_confined bytes s
  case destCloseReceived h x action => exact destClose_excepted h x action s
  case epochReceived h e => exact epoch_excepted h e s
  all_goals refine ⟨s, rfl, ?_⟩
  case resetNAsserted => exact .beside (by rfl)
  case configAddressNack => exact addressNack_confined s
  case configReaddress => exact readdressMemory_confined s
  case listenTimeout => exact listenEnds_confined s
  case speedWindowEnd => exact (speedWindow_lawful s).confined
  case stallDetected => exact (stallFires_lawful s).confined
  case haltQuietTimeout => exact quietEnds_confined s
  case estopAsserted => exact (lines _).trans (estopJoins_lawful _).confined
  case estopDeasserted => exact (lines _).trans (estopLeaves_lawful _).confined
  case jamclrActivation => exact (lines _).trans (jamCleared_lawful _).confined
  case eyeLeadingEdge e => exact leadingEdge_confined e s
  case eyeTrailingEdge e => exact trailingEdge_confined e s
  case chuteFullClose k => exact writeClosed_confined k true s
  case chuteFullReopen k => exact writeClosed_confined k false s
  case readReply w n l => exact readReplyTaken_confined w n l s
  case pollReply w n => exact pollReplyTaken_confined w n s
  case readTimeout => exact readTimesOut_confined s
  case pollTimeout => exact pollTimesOut_confined s
  case idleTimeout => exact idleEnds_confined s
  case queryDeadline p => exact (deadlinePasses_calm p s).confined
  case epochWalkStep => exact (walkStep_level s).confined
  case confirmTimeout slot => exact (confirmExpires_lawful slot s).confined
  case answerWaitTimeout p id => exact (attemptUnanswered_calm p id s).confined
  case retryDelayTimeout p id => exact (retryDelayOut_calm p id s).confined
  case holdExpiry o => exact (holdLapses_lawful o s).confined
  case holdRefreshTimeout => exact holdRefreshed_confined s
  case watchLapse => exact .beside (by rfl)
  case transmitStart => exact onBus_confined _ s
  case collision => exact onBus_confined _ s
  case jamComplete => exact (jamEnds_lawful s).confined
  case backoffExpiry => exact onBus_confined _ s
  case frameSent => exact (frameLeaves_lawful s).confined
  case handoffReceived h p => exact deliverFrame_confined h s fun t => (handoffTaken_lawful _ _ t).confined
  case acceptReceived h id => exact deliverFrame_confined h s fun t => .ite (acceptTaken_calm _ _ t).confined (.refl t)
  case retryReceived h id => exact deliverFrame_confined h s fun t => .ite (attemptUnanswered_calm _ _ t).confined (.refl t)
  case pathReceived h r => exact deliverFrame_confined h s fun t => (pathTaken_lawful _ _ t).confined
  case holdReceived h q => exact deliverFrame_confined h s fun t => (holdTaken_lawful _ _ t).confined
  case answerReceived h p => exact deliverFrame_confined h s fun t => (answerTaken_lawful _ t).confined
  case updateReceived h p => exact deliverFrame_confined h s fun t => (updateTaken_lawful _ t).confined
  case missingReceived h p r => exact deliverFrame_confined h s fun t => (missingTaken_calm _ _ t).confined
  case foundReceived h p => exact deliverFrame_confined h s fun t => (foundTaken_calm _ t).confined
  case statusReqReceived h i p => exact deliverFrame_confined h s fun t => (statusRequested_calm _ _ _ t).confined
  case counterClearReceived h => exact deliverFrame_confined h s fun t => (countersCleared_calm t).confined
  case statusReplyReceived h i p data => exact replyTaken_confined h data s
  case ownNumberFrame d k p => exact .ite (.refl s) (ownNumberSeen_confined s)
  case frameDiscarded f => exact frameEnded_confined f s
  all_goals exact deliverFrame_confined _ s .refl

/-! ## The laws of the drive, the hold-off and the speed -/

/-- What every event keeps of chapter 1: the laws of the drive, of the hold-off and of the speed. -/
structure KeepsBeltLaws (s t : State) : Prop where
  drive : DriveLaw s.drive → DriveLaw t.drive
  estop : EstopLaw s → EstopLaw t
  speed : SpeedLaw s.belt → SpeedLaw t.belt

theorem Confined.laws {s t : State} (h : Confined s t) : KeepsBeltLaws s t := ⟨h.drive, h.estop, h.speed⟩

theorem KeepsBeltLaws.trans {s t u : State} (h : KeepsBeltLaws s t) (k : KeepsBeltLaws t u) : KeepsBeltLaws s u :=
  ⟨k.drive ∘ h.drive, k.estop ∘ h.estop, k.speed ∘ h.speed⟩

theorem rampDrive_reasons (c : JunctionConfig) (d : Drive) : (rampDrive c d).reasons = d.reasons := by
  unfold rampDrive
  split
  · rfl
  · simp only
    split
    · exact examine_reasons _ _
    · rfl
  all_goals rfl

theorem Excepted.laws {c : Instr} {s u : State} (h : Excepted c s u) : KeepsBeltLaws s u := by
  cases c
  case encoderCount => obtain ⟨d, -, rfl⟩ := h; exact ⟨id, id, id⟩
  case rampStep =>
    cases h
    refine ⟨rampDrive_law _ _, fun he => ?_, id⟩
    rw [EstopLaw, onDrive_drive, rampDrive_reasons]
    exact he
  case configReadComplete => obtain ⟨config, image, rfl⟩ := h; exact ⟨id, id, id⟩
  case destCloseReceived => obtain ⟨late, rfl⟩ := h; exact ⟨id, id, id⟩
  case epochReceived => obtain ⟨epoch, rfl⟩ := h; exact ⟨id, id, id⟩
  all_goals cases h; exact ⟨id, id, id⟩

/-- R180: a part that leaves reset keeps the three laws, whatever held before. -/
theorem resetPart_laws (r : ResetLines) (s : State) :
    DriveLaw (resetPart r s).drive ∧ EstopLaw (resetPart r s) ∧ SpeedLaw (resetPart r s).belt := by
  have h0 : DriveLaw (leaveReset r s).drive ∧ EstopLaw (leaveReset r s) ∧ SpeedLaw (leaveReset r s).belt :=
    ⟨⟨fun _ => rfl, fun _ => .inl rfl, by simp [leaveReset], by simp [leaveReset]⟩, fun he => ⟨he, rfl⟩, Nat.zero_le _⟩
  unfold resetPart
  simp only
  split
  · exact h0
  · have h := (enterConfigFault_confined (leaveReset r s)).laws
    exact ⟨h.drive h0.1, h.estop h0.2.1, h.speed h0.2.2⟩

theorem effect_laws (c : Instr) (s : State) : KeepsBeltLaws s (effect c s) := by
  by_cases hr : ∃ r, c = .reset r
  · obtain ⟨r, rfl⟩ := hr
    obtain ⟨h1, h2, h3⟩ := resetPart_laws r s
    exact ⟨fun _ => h1, fun _ => h2, fun _ => h3⟩
  · obtain ⟨u, hu, hc⟩ := effect_confined (not_exists.mp hr) s
    exact hu.laws.trans hc.laws

theorem exec_laws {c : Instr} {s t : State} (h : exec c s = .next t) : KeepsBeltLaws s t := by
  rcases exec_cases h with ⟨-, -, rfl⟩ | ⟨-, rfl⟩ | ⟨-, -, rfl⟩
  · exact (effect_laws c s).trans (settle_confined _).laws
  · exact ⟨id, id, id⟩
  · exact ⟨id, id, id⟩

theorem runDown_isSome (x : Option Nat) : (runDown x).isSome = x.isSome := by cases x <;> rfl

/-- Section 3.2: the time base keeps the three laws. -/
theorem idle_laws (s : State) : KeepsBeltLaws s (idle s) := by
  unfold idle
  split
  · exact ⟨id, id, id⟩
  · split
    · refine ⟨fun h => ⟨h.rest, h.halts, h.runs, fun hq => h.coasts ?_⟩, id, id⟩
      exact (runDown_isSome s.drive.quiet).symm.trans hq
    all_goals exact ⟨id, id, id⟩

theorem step_laws {s t : State} (h : step s = .next t) : KeepsBeltLaws s t := by
  rcases step_cases h with ⟨-, rfl⟩ | ⟨c, rest, -, hx⟩
  · exact idle_laws s
  · have hl := exec_laws hx
    exact ⟨hl.drive, hl.estop, hl.speed⟩

/-! ## The statements -/

/-- Settles O7: every command is confined but for its exception, and so is the time base. -/
theorem everyStepKeepsDriveAndEstopLaws : Obligations.EveryStepKeepsDriveAndEstopLaws := by
  intro s t h
  exact ⟨(step_laws h).drive, (step_laws h).estop, (step_laws h).speed⟩

theorem rampDrive_r (c : JunctionConfig) (d : Drive) (h : d.state ≠ .accel) : (rampDrive c d).r ≤ d.r := by
  unfold rampDrive
  split
  · contradiction
  · simp only
    split
    · exact le_trans (examine_r _ _) (Nat.zero_le _)
    · exact Nat.sub_le _ _
  all_goals exact le_rfl

/-- R12: with a reason in the set no exception of a command raises the reference: by R11 the state is not ACCEL then. -/
theorem Excepted.reference {c : Instr} {s u : State} (h : Excepted c s u) (hd : DriveLaw s.drive)
    (hn : noReasons s.drive.reasons = false) : u.drive.r ≤ s.drive.r := by
  cases c
  case encoderCount => obtain ⟨d, -, rfl⟩ := h; exact le_rfl
  case rampStep =>
    cases h
    refine rampDrive_r _ _ fun ha => ?_
    rw [hd.runs (.inl ha)] at hn
    cases hn
  case configReadComplete => obtain ⟨config, image, rfl⟩ := h; exact le_rfl
  case destCloseReceived => obtain ⟨late, rfl⟩ := h; exact le_rfl
  case epochReceived => obtain ⟨epoch, rfl⟩ := h; exact le_rfl
  all_goals cases h; exact le_rfl

/-- R180: a part leaves reset with the reference at 0. -/
theorem resetPart_r (r : ResetLines) (s : State) : (resetPart r s).drive.r = 0 := by
  unfold resetPart
  simp only
  split
  · rfl
  · exact Nat.le_zero.mp (enterConfigFault_confined (leaveReset r s)).reference

/-- Settles O12: a ramp step raises the reference in ACCEL alone, where the set is empty by R11; every other command is confined. -/
theorem referenceNeverRisesWhileStopped : Obligations.ReferenceNeverRisesWhileStopped := by
  intro c s t hd hn h
  rcases exec_cases h with ⟨-, -, rfl⟩ | ⟨-, rfl⟩ | ⟨-, -, rfl⟩
  · refine le_trans (settle_confined _).reference ?_
    by_cases hr : ∃ r, c = .reset r
    · obtain ⟨r, rfl⟩ := hr
      exact le_trans (resetPart_r r s).le (Nat.zero_le _)
    · obtain ⟨u, hu, hc⟩ := effect_confined (not_exists.mp hr) s
      exact le_trans hc.reference (hu.reference hd hn)
  · exact le_rfl
  · exact le_rfl

/-! ## The settings -/

/-- What a command but RESET may change of D and of the settings: what R1, R182, R80 and R75 let it change. -/
structure ChangesOwn (c : Instr) (s t : State) : Prop where
  d : t.belt.d = s.belt.d ∨
    ((∃ a b, c = .encoderCount a b) ∧ (t.belt.d = s.belt.d + um (cfg s).scale ∨ t.belt.d = s.belt.d - um (cfg s).scale))
  station : t.loader.station = s.loader.station
  factoryId : t.loader.factoryId = s.loader.factoryId
  config : (∀ bytes, c ≠ .configReadComplete bytes) → t.loader.config = s.loader.config ∧ t.loader.image = s.loader.image
  late : (∀ h d a, c ≠ .destCloseReceived h d a) → t.routes.late = s.routes.late
  epoch : (∀ h e, c ≠ .epochReceived h e) → t.cache.epoch = s.cache.epoch

/-- A command whose setting is not excepted changes none. -/
theorem ChangesOwn.none {c : Instr} {s t : State} (hd : t.belt.d = s.belt.d) (hl : t.loader = s.loader)
    (hr : t.routes = s.routes) (hc : t.cache = s.cache) : ChangesOwn c s t :=
  ⟨.inl hd, by rw [hl], by rw [hl], fun _ => ⟨by rw [hl], by rw [hl]⟩, fun _ => by rw [hr], fun _ => by rw [hc]⟩

theorem Excepted.own {c : Instr} {s u : State} (h : Excepted c s u) : ChangesOwn c s u := by
  cases c
  case encoderCount a b =>
    obtain ⟨d, hd, rfl⟩ := h
    refine ⟨?_, rfl, rfl, fun _ => ⟨rfl, rfl⟩, fun _ => rfl, fun _ => rfl⟩
    exact hd.imp_right fun hd => ⟨⟨a, b, rfl⟩, hd⟩
  case configReadComplete bytes =>
    obtain ⟨config, image, rfl⟩ := h
    exact ⟨.inl rfl, rfl, rfl, fun hc => absurd rfl (hc bytes), fun _ => rfl, fun _ => rfl⟩
  case destCloseReceived x d a =>
    obtain ⟨late, rfl⟩ := h
    exact ⟨.inl rfl, rfl, rfl, fun _ => ⟨rfl, rfl⟩, fun hc => absurd rfl (hc x d a), fun _ => rfl⟩
  case epochReceived x e =>
    obtain ⟨epoch, rfl⟩ := h
    exact ⟨.inl rfl, rfl, rfl, fun _ => ⟨rfl, rfl⟩, fun _ => rfl, fun hc => absurd rfl (hc x e)⟩
  all_goals cases h; exact .none rfl rfl rfl rfl

theorem ChangesOwn.confined {c : Instr} {s t u : State} (h : ChangesOwn c s t) (k : Confined t u) : ChangesOwn c s u :=
  ⟨by rw [k.d]; exact h.d, k.station.trans h.station, k.factoryId.trans h.factoryId,
   fun hc => ⟨k.config.trans (h.config hc).1, k.image.trans (h.config hc).2⟩, fun hc => k.late.trans (h.late hc),
   fun hc => k.epoch.trans (h.epoch hc)⟩

theorem exec_changesOwn {c : Instr} {s t : State} (h : exec c s = .next t) (hr : ∀ r, c ≠ .reset r) : ChangesOwn c s t := by
  rcases exec_cases h with ⟨-, -, rfl⟩ | ⟨-, rfl⟩ | ⟨-, -, rfl⟩
  · obtain ⟨u, hu, hc⟩ := effect_confined hr s
    exact (hu.own.confined hc).confined (settle_confined _)
  · exact .none rfl rfl rfl rfl
  · exact .none rfl rfl rfl rfl

/-- Settles O13: each setting is the exception of its own command. -/
theorem settingsChangeByTheirCommandsOnly : Obligations.SettingsChangeByTheirCommandsOnly := by
  intro c s t h hr
  have hc := exec_changesOwn h hr
  exact ⟨hc.d, hc.station, hc.factoryId, hc.config, hc.late, hc.epoch⟩

end Sys2Proof.Machine
end

section
/-! PROOFS. The rules of chapter 1 that unfold in a step or two: ramp steps and the quiet timer, edges that deliver nothing, the
output lines, and the laws right after reset. -/

namespace Sys2Proof.Machine

/-! ## A command of a part between two events -/

/-- A command whose effect owes no report only brings the output lines up to date. -/
theorem exec_calm {c : Instr} (hr : ∀ r, c ≠ .reset r) (hn : c ≠ .resetNAsserted) {s u : State} (h : Ready s)
    (hu : effect c s = u) (ho : u.owed = []) : exec c s = .next (drivePins u) := by
  rw [exec_ready hr hn h.1, hu, settle_of_none ho]

/-- A command that changes the drive alone. -/
theorem exec_onDrive {c : Instr} (hr : ∀ r, c ≠ .reset r) (hn : c ≠ .resetNAsserted) {s : State} {d : Drive} (h : Ready s)
    (hu : effect c s = { s with drive := d }) : exec c s = .next (drivePins { s with drive := d }) :=
  exec_calm hr hn h hu h.2.1

/-! ## Ramp steps and the quiet timer (R11, R12, R13) -/

theorem rampDrive_accel (c : JunctionConfig) {d : Drive} (h : d.state = .accel) :
    rampDrive c d = { d with r := min c.rRun (d.r + stepUp c), state := if c.rRun ≤ d.r + stepUp c then .run else .accel } := by
  simp [rampDrive, h]

theorem rampDrive_decel (c : JunctionConfig) {d : Drive} (h : d.state = .decel) (hr : stepDown c < d.r) :
    rampDrive c d = { d with r := d.r - stepDown c } := by
  simp only [rampDrive, h]
  rw [if_neg (by omega)]

theorem rampDrive_stops (c : JunctionConfig) {d : Drive} (h : d.state = .decel) (hr : d.r ≤ stepDown c) :
    rampDrive c d = examine c.rRun { d with r := 0, state := .stopped } := by
  simp only [rampDrive, h]
  rw [if_pos (by omega)]

theorem rampDrive_stands (c : JunctionConfig) {d : Drive} (h : d.state = .stopped ∨ d.state = .run ∨ d.state = .halted) :
    rampDrive c d = d := by
  rcases h with h | h | h <;> simp [rampDrive, h]

/-- R11: on entering STOPPED the drive stays while a reason is in the set. -/
theorem examine_stays (n : Nat) {d : Drive} (h : d.state = .stopped) (hn : noReasons d.reasons = false) : examine n d = d := by
  simp [examine, h, hn]

/-- R11: on entering STOPPED with an empty set the drive accelerates from 0. -/
theorem examine_starts (n : Nat) {d : Drive} (h : d.state = .stopped) (hn : noReasons d.reasons = true) (h0 : n ≠ 0) :
    examine n d = { d with state := .accel, r := 0 } := by
  simp [examine, h, hn, enterAccel, h0.symm]

theorem examine_halted (n : Nat) {d : Drive} (h : d.state = .halted) : examine n d = d := by simp [examine, h]

/-- Settles O24: each drive state has its equation for a ramp step, and the quiet timer leaves HALTED for STOPPED, which R11
examines. -/
theorem rampStepAndQuietTimer : Obligations.RampStepAndQuietTimer := by
  intro s h
  have ramp : ∀ {d}, rampDrive (cfg s) s.drive = d → exec .rampStep s = .next (drivePins { s with drive := d }) :=
    fun hd => exec_onDrive (by simp) (by simp) h (by rw [← hd]; rfl)
  have quiet : ∀ {d}, s.drive.quiet.isSome = true → quietOut (cfg s).rRun s.drive = d →
      exec .haltQuietTimeout s = .next (drivePins { s with drive := d }) := fun hq hd =>
    exec_onDrive (by simp) (by simp) h (by rw [← hd]; exact if_pos hq)
  refine ⟨fun ha => ramp (rampDrive_accel _ ha), fun hd hr => ramp (rampDrive_decel _ hd hr), fun hd hr hn => ?_,
    fun hd hr hn h0 => ?_, fun hs => ramp (rampDrive_stands _ hs), fun hq => ?_, fun hq hn => ?_, fun hq hn h0 => ?_⟩
  · exact ramp ((rampDrive_stops _ hd hr).trans (examine_stays _ rfl hn))
  · exact ramp ((rampDrive_stops _ hd hr).trans (examine_starts _ rfl hn h0))
  · exact exec_calm (by simp) (by simp) h (if_neg (by simp [hq])) h.2.1
  · exact quiet hq (examine_stays _ rfl hn)
  · exact quiet hq (examine_starts _ rfl hn h0)

/-! ## Edges that deliver nothing (R6, R7) -/

theorem updateEye_updateEye (e : Eye) (f g : EyeState → EyeState) (s : State) :
    updateEye e g (updateEye e f s) = updateEye e (fun x => g (f x)) s := by
  cases e with
  | confirm k => cases k <;> rfl
  | _ => rfl

theorem eyeOf_updateEye (e : Eye) (f : EyeState → EyeState) (s : State) : eyeOf (updateEye e f s) e = f (eyeOf s e) := by
  cases e with
  | confirm k => cases k <;> rfl
  | _ => rfl

/-- Between two events a leading edge is the eye's alone: no report waits for it (log 40). -/
theorem leadingEdge_ready (e : Eye) {s : State} (h : Ready s) :
    leadingEdge e s = if (eyeOf s e).present then s else eyeBlocked e s := by
  simp [leadingEdge, h.2.2.2]

theorem eyeBlocked_unfollowed (e : Eye) {s : State} (h : followsEye s e = false) :
    eyeBlocked e s = updateEye e (fun x => { x with present := true }) s := by simp [eyeBlocked, h]

/-- R7: a reblock within the chatter filter is absorbed. -/
theorem eyeBlocked_absorbed (e : Eye) {s : State} {p : Pos} (h : followsEye s e = true) (ht : (eyeOf s e).trailing = some p)
    (hp : posDiff s.belt.d p < 20000) :
    eyeBlocked e s = updateEye e (fun x => { x with present := true, trailing := none }) s := by
  have hc : chatterPassed s.belt.d p = false := decide_eq_false (not_le.mpr hp)
  simp [eyeBlocked, h, ht, hc, updateEye_updateEye]

/-- R6: no leading edge is delivered of an eye whose delivered level is blocked. -/
theorem eyeBlocked_delivered (e : Eye) {s : State} (h : followsEye s e = true) (ht : (eyeOf s e).trailing = none)
    (hd : (eyeOf s e).delivered = true) : eyeBlocked e s = updateEye e (fun x => { x with present := true }) s := by
  simp [eyeBlocked, h, ht, deliverLeading, eyeOf_updateEye, hd]

theorem eyeCleared_pending (e : Eye) {s : State} (h : followsEye s e = true) (hd : (eyeOf s e).delivered = true) :
    eyeCleared e s = updateEye e (fun x => { x with present := false, trailing := some s.belt.d }) s := by
  simp [eyeCleared, h, hd, updateEye_updateEye]

theorem eyeCleared_silent (e : Eye) {s : State} (h : followsEye s e = false ∨ (eyeOf s e).delivered = false) :
    eyeCleared e s = updateEye e (fun x => { x with present := false }) s := by
  rcases h with h | h <;> simp [eyeCleared, h]

/-- Settles O27: in each case the edge changes the eye alone. -/
theorem eyeEdgesThatDeliverNothing : Obligations.EyeEdgesThatDeliverNothing := by
  intro e s h
  have leading : ∀ {u}, (eyeOf s e).present = false → eyeBlocked e s = u → u.owed = [] →
      exec (.eyeLeadingEdge e) s = .next (drivePins u) := fun hx hu =>
    exec_calm (by simp) (by simp) h (by rw [← hu]; exact (leadingEdge_ready e h).trans (by simp [hx]))
  have trailing : ∀ {u}, (eyeOf s e).present = true → eyeCleared e s = u → u.owed = [] →
      exec (.eyeTrailingEdge e) s = .next (drivePins u) := fun hx hu =>
    exec_calm (by simp) (by simp) h (by rw [← hu]; exact if_pos hx)
  refine ⟨fun hx => ?_, fun hx hf => leading hx (eyeBlocked_unfollowed e hf) h.2.1,
    fun p hx hf ht hp => leading hx (eyeBlocked_absorbed e hf ht hp) h.2.1,
    fun hx hf ht hd => leading hx (eyeBlocked_delivered e hf ht hd) h.2.1, fun hx => ?_,
    fun hx hf hd => trailing hx (eyeCleared_pending e hf hd) h.2.1,
    fun hx hs => trailing hx (eyeCleared_silent e hs) h.2.1⟩
  · exact exec_calm (by simp) (by simp) h ((leadingEdge_ready e h).trans (if_pos hx)) h.2.1
  · exact exec_calm (by simp) (by simp) h (if_neg (by simp [hx])) h.2.1

/-! ## The output lines (R10, R101, R166, R171) -/

/-- After a command the output lines follow the state, but in a part held in reset, where the command does nothing. -/
theorem exec_pins {c : Instr} {s t : State} (h : exec c s = .next t) : t.pins = pinsOf t ∨ s.inReset = true ∧ t = s := by
  rcases exec_cases h with ⟨-, -, rfl⟩ | ⟨-, rfl⟩ | ⟨hs, -, rfl⟩
  · exact .inl (drivePins_law _)
  · exact .inl (drivePins_law _)
  · exact .inr ⟨hs, rfl⟩

theorem exec_pins_out {c : Instr} {s t : State} (h : exec c s = .next t) (ht : t.inReset = false) : t.pins = pinsOf t := by
  rcases exec_pins h with hp | ⟨hs, rfl⟩
  · exact hp
  · rw [ht] at hs; cases hs

/-- The output lines of a part out of reset. -/
theorem pinsOf_out {s : State} (h : s.inReset = false) :
    pinsOf s = { div := ⟨divOn s .d1, divOn s .d2, divOn s .d3⟩, drvRef := s.drive.r, drvRun := driveRuns s.drive.state,
                 alert := alertOn s, busEn := onLine s.bus, busTx := busBits s.loader.station s.bus } := by
  simp [pinsOf, h]

theorem driveRuns_iff (x : DriveState) : driveRuns x = true ↔ x = .accel ∨ x = .run ∨ x = .decel := by cases x <;> simp [driveRuns]

theorem divOn_iff (s : State) (k : Diverter) :
    divOn s k = true ↔ s.holdOff = false ∧ ∃ w, (s.divert.windows.get k).active = some w ∧ w.fired = true := by
  simp [divOn, windowsOf, Option.any_eq_true]

theorem onLine_iff (b : Bus) : onLine b = true ↔ ∃ a, b.attempt = some a ∧ (a.phase = .sending ∨ a.phase = .jamming) := by
  unfold onLine
  rcases b.attempt with _ | ⟨q, n, phase⟩
  · simp
  · cases phase <;> simp

theorem busBits_idle (st : Byte) {b : Bus} (h : onLine b = false) : busBits st b = [] := by
  unfold onLine at h
  unfold busBits
  rcases hb : b.attempt with _ | ⟨q, n, phase⟩
  · rfl
  · cases phase <;> simp_all

theorem busBits_sending (st : Byte) {b : Bus} {a : Attempt} (h : b.attempt = some a) (hp : a.phase = .sending) :
    busBits st b = (frameBytes st a.frame.dest a.frame.payload).flatMap lineByte := by
  simp [busBits, h, hp, lineBits]

theorem busBits_jamming (st : Byte) {b : Bus} {a : Attempt} (h : b.attempt = some a) (hp : a.phase = .jamming) :
    busBits st b = List.replicate 16 false := by
  simp [busBits, h, hp, jamBits]

/-- Settles O16: the lines are those of the state, and each of them is read off it. -/
theorem outputLinesFollowTheState : Obligations.OutputLinesFollowTheState := by
  intro c s t h ht
  have hp := (exec_pins_out h ht).trans (pinsOf_out ht)
  have hdiv : ∀ k, t.pins.div.get k = divOn t k := fun k => by rw [hp]; cases k <;> rfl
  simp only [hdiv, divOn_iff]
  rw [hp]
  refine ⟨fun k => trivial, rfl, driveRuns_iff _, onLine_iff _, fun he hs k => ?_, busBits_idle _,
    fun a ha => ⟨fun hs => ?_, fun hj => ?_⟩⟩
  · simp [divOn, (he hs).1]
  · exact busBits_sending _ ha hs
  · exact busBits_jamming _ ha hj

/-! ## Right after reset -/

theorem mem_replicate_sets {ways : List Way} (h : ways ∈ State.reset.cache.sets) : ways = emptySet := List.eq_of_mem_replicate h

theorem reset_getSet (i : Nat) : State.reset.cache.sets.getD i emptySet = emptySet := by
  rw [List.getD_eq_getElem?_getD]
  rcases h : State.reset.cache.sets[i]? with _ | w
  · rfl
  · exact mem_replicate_sets (List.mem_of_getElem? h)

theorem reset_plateLaw : PlateLaw State.reset.cache where
  placed i w hw e he := by
    rw [reset_getSet] at hw
    fin_cases hw <;> cases he
  single ways h := by rw [mem_replicate_sets h]; decide

theorem reset_windowLaw : WindowLaw State.reset := by
  intro k
  have hk : windowsOf State.reset k = {} := by cases k <;> rfl
  rw [hk]
  exact ⟨fun _ => rfl, by simp [windowList], by simp [windowList], by simp [windowList]⟩

theorem reset_row (o : Outlet) : row State.reset o = none := by cases o <;> rfl

theorem reset_gate (o : Outlet) : gateOf State.reset o = none := by cases o <;> rfl

theorem reset_reachLaw : ReachLaw State.reset where
  idle _ := ⟨rfl, rfl⟩
  reach d _ := by
    constructor
    · intro h; simp [State.reset] at h
    · rintro ⟨o, r, hr, -⟩; rw [reset_row] at hr; cases hr
  kept := rfl

theorem reset_gateLaw : GateLaw State.reset where
  idle _ := rfl
  made o := by cases o <;> rfl
  hold := ⟨fun h => (Bool.false_ne_true h).elim, fun ⟨o, g, h, _⟩ => by rw [reset_gate] at h; cases h⟩
  blocked := ⟨fun h => (Bool.false_ne_true h).elim, fun ⟨o, g, h, _⟩ => by rw [reset_gate] at h; cases h⟩

/-- Settles O5: every list is empty, every count 0, the drive stopped and the node LOADING. -/
theorem lawsHoldAtReset : Obligations.LawsHoldAtReset := by
  have drive : DriveLaw State.reset.drive := ⟨fun _ => rfl, fun _ => .inl rfl, by simp [State.reset], by simp [State.reset]⟩
  have segment : SegmentLaw State.reset.tracker := ⟨List.nodup_nil, Nat.zero_le _, rfl⟩
  have pairs : PairLaw State.reset.handoff := List.nodup_nil
  have ranks : RankLaw State.reset.cache := fun w hw => by rw [mem_replicate_sets hw]; decide
  have waiters : WaiterLaw State.reset := ⟨reset_plateLaw, pairs, by simp [State.reset], by simp [State.reset]⟩
  have demand : DemandLaw State.reset := ⟨fun _ => ⟨rfl, rfl, rfl, rfl⟩, fun h => by cases h⟩
  have queue : OrderedQueue State.reset :=
    ⟨fun _ => rfl, List.nodup_nil, .nil, by simp [State.reset], fun _ => rfl, by simp [State.reset]⟩
  have ends : EndLaw State.reset := ⟨pairs, by simp [State.reset], by simp [State.reset]⟩
  have expiry : ExpiryLaw State.reset := fun o r e hr => by rw [reset_row] at hr; cases hr
  have marks : liveMarks State.reset = [] := rfl
  have twins : DuplicateLaw State.reset := ⟨List.nodup_nil, pairs, by simp [marks], by simp [marks]⟩
  have estop : EstopLaw State.reset := fun h => (Bool.false_ne_true h).elim
  have sources : SourceLaw State.reset := by simp [SourceLaw, cfg, State.reset, JunctionConfig.absent]
  have queries : QueryLaw State.reset.queries := ⟨Nat.zero_le _, List.nodup_nil, by simp [State.reset]⟩
  have decided : DecidedLaw State.reset := ⟨fun _ => rfl, List.nodup_nil, by simp [State.reset]⟩
  exact ⟨drive, Nat.zero_le _, estop, segment, ranks, ⟨Nat.zero_le _, Nat.zero_le _⟩, Nat.zero_le _, rfl, rfl, Nat.zero_le _,
    Nat.zero_le _, queries, reset_windowLaw, .nil, ⟨segment, pairs, sources, rfl⟩, fun _ => ⟨rfl, rfl, rfl⟩, rfl, twins, ends,
    .inl rfl, reset_plateLaw, waiters, demand, queue, decided, reset_reachLaw, expiry, reset_gateLaw⟩

end Sys2Proof.Machine
end

section
/-! PROOFS. The time base (section 3.2 of chapter 0): what a step does with no command waiting. -/

namespace Sys2Proof.Machine

/-! ## Timers that have run out -/

theorem mem_dueIf {b : Bool} {c x : Instr} : c ∈ dueIf b x ↔ c = x ∧ b = true := by
  cases b <;> simp [dueIf]

theorem ranOut_iff {t : Option Nat} : ranOut t = true ↔ t = some 0 := by simp [ranOut]

/-- R45, R46: the reader's timer that has run out. -/
theorem mem_readerDue {s : State} {c : Instr} : c ∈ readerDue s ↔
    (c = .readTimeout ∧ ∃ n slot, s.reader.outstanding = some ⟨n, .read slot, 0⟩) ∨
    (c = .pollTimeout ∧ ∃ n, s.reader.outstanding = some ⟨n, .poll, 0⟩) ∨
    (c = .idleTimeout ∧ s.reader.outstanding = none ∧ s.reader.idle = some 0) := by
  unfold readerDue
  rcases s.reader.outstanding with _ | ⟨n, asked, timer⟩
  · simp [mem_dueIf, ranOut_iff]
  · cases asked <;> simp [mem_dueIf]

/-- R120: the wait of an open handoff that has run out. -/
theorem mem_handoffDue {d : Departure} {c : Instr} : c ∈ handoffDue d ↔
    d.state = .awaitingAccept ∧ ∃ id payload, d.id = some id ∧
      ((d.outgoing = some ⟨payload, .answer 0⟩ ∧ c = .answerWaitTimeout d.peer id) ∨
        (d.outgoing = some ⟨payload, .retry 0⟩ ∧ c = .retryDelayTimeout d.peer id)) := by
  unfold handoffDue
  rcases d.id with _ | id
  · simp
  · rcases d.outgoing with _ | ⟨payload, _ | _⟩ <;> simp [mem_dueIf] <;> tauto

/-- R144: a hold expiry that has been reached. -/
theorem mem_holdDue {s : State} {o : Outlet} {c : Instr} : c ∈ holdDue s o ↔
    ∃ r e, row s o = some r ∧ r.kind = .peer ∧ r.holdExpiry = some e ∧ e ≤ s.time ∧ c = .holdExpiry o := by
  unfold holdDue heldOutlet
  rcases row s o with _ | r
  · simp [mem_dueIf]
  · rcases hr : r.holdExpiry with _ | e
    · simp [mem_dueIf, hr]
    · simp only [mem_dueIf, heldRow, Option.any_some, hr, Option.isSome_some, Bool.and_true, Bool.and_eq_true, decide_eq_true_eq,
        Option.some.injEq]
      constructor
      · rintro ⟨rfl, hk, he⟩; exact ⟨r, e, rfl, eq_of_beq hk, hr, he, rfl⟩
      · rintro ⟨_, _, rfl, hk, he, ht, rfl⟩; rw [hr] at he; cases he; exact ⟨rfl, beq_iff_eq.mpr hk, ht⟩

theorem allOutlets_mem (o : Outlet) : o ∈ allOutlets := by cases o <;> decide

/-- The commands of everything that has run out, one by one. -/
theorem mem_dueCommands (s : State) (c : Instr) : c ∈ dueCommands s ↔
    (c = .configReaddress ∧ s.loader.node = .loading ∧ s.loader.readdress = some 0) ∨
    (c = .listenTimeout ∧ s.loader.node = .joining ∧ s.loader.listen = some 0) ∨
    (c = .haltQuietTimeout ∧ s.drive.quiet = some 0) ∨
    (c = .stallDetected ∧ 200 ≤ s.drive.stall) ∨
    (c = .readTimeout ∧ ∃ n slot, s.reader.outstanding = some ⟨n, .read slot, 0⟩) ∨
    (c = .pollTimeout ∧ ∃ n, s.reader.outstanding = some ⟨n, .poll, 0⟩) ∨
    (c = .idleTimeout ∧ s.reader.outstanding = none ∧ s.reader.idle = some 0) ∨
    (∃ q ∈ s.queries, q.deadline ≤ s.time ∧ c = .queryDeadline q.plate) ∨
    (∃ b ∈ s.tracker.segment, b.tracking = .diverting ∧ b.confirm = some 0 ∧ c = .confirmTimeout b.slot) ∨
    (∃ d ∈ s.tracker.history, d.state = .awaitingAccept ∧ ∃ id payload, d.id = some id ∧
      ((d.outgoing = some ⟨payload, .answer 0⟩ ∧ c = .answerWaitTimeout d.peer id) ∨
        (d.outgoing = some ⟨payload, .retry 0⟩ ∧ c = .retryDelayTimeout d.peer id))) ∨
    (∃ o r e, row s o = some r ∧ r.kind = .peer ∧ r.holdExpiry = some e ∧ e ≤ s.time ∧ c = .holdExpiry o) ∨
    (c = .holdRefreshTimeout ∧ s.loader.node = .running ∧ s.flow.refresh = some 0) := by
  have queries : c ∈ (s.queries.filter (fun q => decide (q.deadline ≤ s.time))).map (fun q => .queryDeadline q.plate) ↔
      ∃ q ∈ s.queries, q.deadline ≤ s.time ∧ c = .queryDeadline q.plate := by
    simp only [List.mem_map, List.mem_filter, decide_eq_true_eq, and_assoc, @eq_comm _ c]
  have confirms : c ∈ (s.tracker.segment.filter (fun b => ranOut b.confirm && decide (b.tracking = .diverting))).map
      (fun b => .confirmTimeout b.slot) ↔
      ∃ b ∈ s.tracker.segment, b.tracking = .diverting ∧ b.confirm = some 0 ∧ c = .confirmTimeout b.slot := by
    simp only [List.mem_map, List.mem_filter, Bool.and_eq_true, ranOut_iff, decide_eq_true_eq, and_assoc, @eq_comm _ c]
    exact exists_congr fun b => and_congr_right fun _ => and_left_comm
  have handoffs : c ∈ s.tracker.history.flatMap handoffDue ↔ _ :=
    List.mem_flatMap.trans (exists_congr fun d => and_congr_right fun _ => mem_handoffDue)
  have holds : c ∈ allOutlets.flatMap (holdDue s) ↔ _ :=
    List.mem_flatMap.trans (exists_congr fun o => (and_iff_right (allOutlets_mem o)).trans mem_holdDue)
  unfold dueCommands
  simp only [List.mem_append, queries, confirms, handoffs, holds, mem_readerDue, mem_dueIf, Bool.and_eq_true, ranOut_iff,
    decide_eq_true_eq, or_assoc]
  rfl

/-! ## A millisecond -/

theorem driveRuns_false (x : DriveState) : driveRuns x = false ↔ x = .stopped ∨ x = .halted := by cases x <;> simp [driveRuns]

/-- R112: the confirm timers stand while the drive is at rest. -/
theorem map_runDownConfirm (st : DriveState) (l : List BagRecord) :
    l.map (runDownConfirm st) = if st = .stopped ∨ st = .halted then l
      else l.map (fun b => { b with confirm := b.confirm.map (fun n => n - 1) }) := by
  split
  · rename_i h
    rw [← driveRuns_false] at h
    have : runDownConfirm st = id := funext fun b => by simp [runDownConfirm, h]
    rw [this, List.map_id]
  · rename_i h
    rw [← driveRuns_false, Bool.not_eq_false] at h
    exact List.map_congr_left fun b _ => by simp [runDownConfirm, h, runDown]

/-- R9: the JAMCLR_N level as taken after a sample. -/
theorem keepSamples_taken (l : Lines) :
    (keepSamples l).jamclrTaken = (l.jamclrTaken && (l.jamclr || l.jamclrSample)) := by
  simp only [keepSamples, changeTaken]
  cases l.jamclrTaken <;> cases l.jamclr <;> cases l.jamclrSample <;> rfl

/-- The boundary commands of a millisecond, one by one. -/
theorem mem_boundaryCommands (s : State) (c : Instr) : c ∈ boundaryCommands s ↔
    c = .speedWindowEnd ∧ s.time % 10 = 0 ∨ c = .rampStep ∧ s.time % 10 = 0 ∨ c ∈ estopDue s ∨ c ∈ jamclrDue s ∨
      (∃ k, c ∈ chuteDue s k) ∨ c = .epochWalkStep ∧ s.cache.walk.isSome = true ∨
      c = .watchLapse ∧ s.time % 1000 = 0 ∧ ∃ w ∈ s.exc.watch, lapsed (seconds s) w = true := by
  have chutes : c ∈ allDiverters.flatMap (chuteDue s) ↔ ∃ k, c ∈ chuteDue s k :=
    List.mem_flatMap.trans (exists_congr fun k => and_iff_right (by cases k <;> decide))
  unfold boundaryCommands
  simp only [List.mem_append, chutes, mem_dueIf, Bool.and_eq_true, decide_eq_true_eq, List.any_eq_true, or_assoc]

theorem mem_estopDue {s : State} {c : Instr} : c ∈ estopDue s ↔
    c = .estopAsserted ∧ s.lines.estop = true ∧ s.lines.estopSample = true ∧ s.drive.reasons.estop = false ∨
    c = .estopDeasserted ∧ s.lines.estop = false ∧ s.lines.estopSample = false ∧ s.drive.reasons.estop = true := by
  unfold estopDue changeTaken
  rw [mem_dueIf]
  cases s.lines.estop <;> cases s.lines.estopSample <;> cases s.drive.reasons.estop <;> simp

theorem mem_jamclrDue {s : State} {c : Instr} : c ∈ jamclrDue s ↔
    c = .jamclrActivation ∧ s.lines.jamclr = true ∧ s.lines.jamclrSample = true ∧ s.lines.jamclrTaken = false := by
  unfold jamclrDue changeTaken
  rw [mem_dueIf]
  cases s.lines.jamclr <;> cases s.lines.jamclrSample <;> cases s.lines.jamclrTaken <;> simp

theorem mem_chuteDue {s : State} {k : Diverter} {c : Instr} : c ∈ chuteDue s k ↔
    c = .chuteFullClose k ∧ followsChute s k = true ∧ outletClosed s k = false ∧ 500 ≤ chuteRun s k ∨
    c = .chuteFullReopen k ∧ followsChute s k = true ∧ outletClosed s k = true ∧ 2000 ≤ chuteRun s k := by
  unfold chuteDue
  cases followsChute s k
  · simp
  · cases outletClosed s k
    · simp only [if_true, Bool.false_eq_true, if_false, mem_dueIf, true_and, false_and, and_false, or_false]
      exact and_congr_right fun _ => decide_eq_true_iff
    · simp only [if_true, mem_dueIf, reduceCtorEq, true_and, false_and, and_false, false_or]
      exact and_congr_right fun _ => decide_eq_true_iff

theorem lapsed_iff {now : BitVec 32} {w : WatchEntry} : lapsed now w = true ↔ 600 ≤ (now - w.added).toNat := decide_eq_true_iff

theorem getD_cons_mem {α : Type} (x : α) (l : List α) (i : Nat) : (x :: l).getD i x ∈ x :: l := by
  rw [List.getD_eq_getElem?_getD]
  rcases h : (x :: l)[i]? with _ | y
  · simp
  · exact List.mem_of_getElem? h

/-- A millisecond, field by field. -/
theorem tick_eq (s : State) : tick s = { s with
    time := s.time + 1
    drive := { s.drive with quiet := s.drive.quiet.map (fun n => n - 1) }
    loader := { s.loader with readdress := s.loader.readdress.map (fun n => n - 1),
                              listen := s.loader.listen.map (fun n => n - 1) }
    reader := { s.reader with idle := s.reader.idle.map (fun n => n - 1),
                              outstanding := s.reader.outstanding.map (fun o => { o with timer := o.timer - 1 }) }
    tracker := { s.tracker with
      segment := if s.drive.state = .stopped ∨ s.drive.state = .halted then s.tracker.segment
        else s.tracker.segment.map (fun b => { b with confirm := b.confirm.map (fun n => n - 1) })
      history := s.tracker.history.map runDownDeparture }
    flow := { s.flow with refresh := s.flow.refresh.map (fun n => n - 1),
                          runs := ⟨chuteRun s .d1, chuteRun s .d2, chuteRun s .d3⟩ }
    lines := { s.lines with estopSample := s.lines.estop, jamclrSample := s.lines.jamclr,
                            jamclrTaken := s.lines.jamclrTaken && (s.lines.jamclr || s.lines.jamclrSample) }
    pending := boundaryCommands (runTimers s) } := by
  rw [← map_runDownConfirm, ← keepSamples_taken]
  rfl

/-- Settles O2: with no command waiting a step is the time base, whose due commands and boundary commands are named one by one. -/
theorem emptyQueueRunsTheTimeBase : Obligations.EmptyQueueRunsTheTimeBase := by
  intro s hp
  have hstep : step s = .next (idle s) := by unfold step; rw [hp]
  have hidle : s.inReset = false → idle s = _ := fun h => if_neg (by simp [h])
  refine ⟨fun h => ?_, fun c h hc => ?_, fun h hl => ?_, mem_dueCommands s, fun h hd => ?_⟩
  · rw [hstep, idle, if_pos h]
  · rw [hstep, hidle h, hc]
  · rw [hstep, hidle h]
    match hc : dueCommands s with
    | [] | [_] => rw [hc] at hl; simp at hl
    | c :: c' :: cs => exact ⟨_, getD_cons_mem c (c' :: cs) _, rfl⟩
  · rw [hstep, hidle h, hd]
    have run : ∀ k, PerDiverter.get ⟨chuteRun s .d1, chuteRun s .d2, chuteRun s .d3⟩ k = chuteRun s k := fun k => by
      cases k <;> rfl
    refine ⟨_, _, _, congrArg _ (tick_eq s), rfl, ?_, ?_, ?_, fun k => ⟨run k, ?_, ?_⟩, ?_, ?_, ?_, ?_⟩
    all_goals simp only [mem_boundaryCommands, mem_estopDue, mem_jamclrDue, mem_chuteDue, lapsed_iff, reduceCtorEq, false_and,
      exists_false, or_false, false_or, true_and, run, Instr.chuteFullClose.injEq, Instr.chuteFullReopen.injEq, exists_eq_left']
    all_goals exact Iff.rfl

end Sys2Proof.Machine
end

section
/-! PROOFS. The emergency stop (R15, R115). -/

namespace Sys2Proof.Machine

/-! ## ESTOP joins and leaves the set -/

/-- R13: a halting reason that joins halts the drive from every state but HALTED. -/
theorem joinReason_halting (n : Nat) {x : StopReason} {d : Drive} (hx : isHalting x = true) (hd : hasReason d.reasons x = false) :
    joinReason n x d = { reasons := setReasonBit d.reasons x true, state := .halted,
                         r := if d.state = .halted then d.r else 0,
                         quiet := if d.state = .halted then d.quiet else some 100,
                         stall := if d.state = .halted ∨ 200 ≤ d.stall then d.stall else 0 } := by
  unfold joinReason
  rw [if_neg (by simp [hd]), if_pos hx]
  by_cases hh : d.state = .halted
  · simp only [hh, if_true, true_or]
  · by_cases hs : d.stall < 200
    · simp [hh, hs, halt, leftRun, Config.stallWindows, Config.quietTime, not_le.mpr hs]
    · simp [hh, hs, halt, leftRun, Config.stallWindows, Config.quietTime, not_lt.mp hs]

/-- R15, R115: what ESTOP does when it joins: the drive halts, the restart report is disarmed, the outputs drop and records are
marked. -/
theorem estopJoins_eq {s : State} (h : s.drive.reasons.estop = false) :
    estopJoins s = markedWhere (fun b => allDiverters.any (fun k => pivotPassed s k (windowList (windowsOf s k)) b))
      { s with belt := { s.belt with restartArmed := false }, drive := joinReason (cfg s).rRun .estop s.drive, holdOff := true } := by
  unfold estopJoins
  rw [if_neg (by simp [h]), holdOutputs_marks]
  rfl

/-- R115: the records that gain UNCERTAIN, as the window table and the positions name them. -/
theorem pivotPassed_iff (s : State) (b : BagRecord) :
    allDiverters.any (fun k => pivotPassed s k (windowList (windowsOf s k)) b) = true ↔
      ∃ k, ∃ x, diverterCfg s k = some x ∧ ∃ w ∈ windowList (s.divert.windows.get k),
        w.fired = true ∧ b.slot ∈ liveSlots w ∧ 0 ≤ posDiff s.belt.d (b.entry + mm x.position) := by
  have hk : ∀ k : Diverter, k ∈ allDiverters := fun k => by cases k <;> decide
  simp only [List.any_eq_true, hk, true_and, pivotPassed, Bool.and_eq_true, List.contains_iff_mem, Option.any_eq_true,
    reached, decide_eq_true_eq, windowsOf]
  refine exists_congr fun k => ⟨?_, ?_⟩
  · rintro ⟨⟨w, hw, hf, hb⟩, x, hx, hp⟩; exact ⟨x, hx, w, hw, hf, hb, hp⟩
  · rintro ⟨x, hx, w, hw, hf, hb, hp⟩; exact ⟨⟨w, hw, hf, hb⟩, x, hx, hp⟩

/-- R15: ESTOP leaves, the restart report is armed and the drive is as R11 examines it. -/
theorem estopLeaves_eq {s : State} {d : Drive} (h : s.drive.reasons.estop = true)
    (hd : examine (cfg s).rRun { s.drive with reasons := { s.drive.reasons with estop := false } } = d) :
    estopLeaves s = { s with belt := { s.belt with restartArmed := true }, drive := d } := by
  rw [← hd]
  simp [estopLeaves, h, onBeltUnit, onDrive, leaveReason, hasReason, setReasonBit]

/-- R101: with the hold-off set no diverter output is energized. -/
theorem pinsOf_holdOff {s : State} (h : s.holdOff = true) (k : Diverter) : (pinsOf s).div.get k = false := by
  unfold pinsOf
  cases s.inReset <;> cases k <;> simp [PerDiverter.get, divOn, h]

/-- R10: in HALTED no run is commanded. -/
theorem pinsOf_halted {s : State} (h : s.drive.state = .halted) : (pinsOf s).drvRun = false := by
  unfold pinsOf
  cases s.inReset <;> simp [driveRuns, h]

/-- Settles O25: the emergency stop changes the drive, the hold-off and the marks of the records its windows name; its release
re-examines the drive. -/
theorem estopJoinsAndLeaves : Obligations.EstopJoinsAndLeaves := by
  refine ⟨fun s h he => ?_, fun s h he => ⟨fun hs => ?_, fun hs hn h0 => ?_⟩⟩
  · have hj := estopJoins_eq (s := putEstopLine true s) he
    rw [show (putEstopLine true s).drive = s.drive from rfl, joinReason_halting (x := .estop) _ rfl he] at hj
    refine ⟨_, exec_calm (by simp) (by simp) h hj h.2.1, rfl, rfl, pinsOf_holdOff rfl, pinsOf_halted rfl, _,
      fun b => pivotPassed_iff _ b, rfl⟩
  · refine exec_calm (by simp) (by simp) h (estopLeaves_eq (s := putEstopLine false s) he ?_) h.2.1
    rcases hs with hs | ⟨hs, hn⟩
    · exact examine_halted _ hs
    · exact examine_stays _ hs hn
  · exact exec_calm (by simp) (by simp) h (estopLeaves_eq (s := putEstopLine false s) he (examine_starts _ hs hn h0)) h.2.1

end Sys2Proof.Machine
end

section
/-! PROOFS. What frames, counters and the hold value leave: one relation, `Sends`, for the operations of the Hall Bus Interface,
of the Exception Unit and of the hold value; and when no frame is displaced or refused, `Fits`. -/

namespace Sys2Proof.Machine

/-! ## The relation -/

/-- An operation that changes the transmit queue, the reports owed, the exception lists and counters, the hold value and its refresh
timer alone, and leaves no report to deliver where there was none (R177). -/
structure Sends (s t : State) : Prop where
  rest : ∃ bus owed exc value refresh, t = { s with
    bus := bus, owed := owed, exc := exc, flow := { s.flow with holdValue := value, refresh := refresh } }
  due : s.bus.due = [] → t.bus.due = []

namespace Sends

variable {s t u : State}

theorem refl (s : State) : Sends s s := ⟨⟨_, _, _, _, _, rfl⟩, id⟩

theorem trans (h : Sends s t) (k : Sends t u) : Sends s u := by
  obtain ⟨⟨_, _, _, _, _, rfl⟩, h⟩ := h
  obtain ⟨⟨_, _, _, _, _, rfl⟩, k⟩ := k
  exact ⟨⟨_, _, _, _, _, rfl⟩, k ∘ h⟩

theorem ite {p : Prop} [Decidable p] (ht : Sends s t) (hu : Sends s u) : Sends s (if p then t else u) := by
  split
  · exact ht
  · exact hu

theorem foldl {α : Type} {f : State → α → State} (h : ∀ a x, Sends a (f a x)) (l : List α) (s : State) :
    Sends s (l.foldl f s) := by
  induction l generalizing s with
  | nil => exact .refl s
  | cons x l ih => exact (h s x).trans (ih _)

theorem belt (h : Sends s t) : t.belt = s.belt := by obtain ⟨⟨_, _, _, _, _, rfl⟩, _⟩ := h; rfl
theorem drive (h : Sends s t) : t.drive = s.drive := by obtain ⟨⟨_, _, _, _, _, rfl⟩, _⟩ := h; rfl
theorem tracker (h : Sends s t) : t.tracker = s.tracker := by obtain ⟨⟨_, _, _, _, _, rfl⟩, _⟩ := h; rfl
theorem divert (h : Sends s t) : t.divert = s.divert := by obtain ⟨⟨_, _, _, _, _, rfl⟩, _⟩ := h; rfl
theorem loader (h : Sends s t) : t.loader = s.loader := by obtain ⟨⟨_, _, _, _, _, rfl⟩, _⟩ := h; rfl
theorem gates (h : Sends s t) : t.flow.gates = s.flow.gates := by obtain ⟨⟨_, _, _, _, _, rfl⟩, _⟩ := h; rfl

end Sends

/-! ## The transmit queue (R167 to R169, R177) -/

theorem oweReport_sends (q : Queued) (s : State) : Sends s (oweReport q s) := by
  unfold oweReport
  split
  · exact .refl s
  · exact ⟨⟨_, _, _, _, _, rfl⟩, id⟩

theorem clearReport_nil {q : Queued} {l : List Report} (h : l = []) : clearReport q l = [] := by subst h; rfl

theorem acceptFrame_sends (q : Queued) (s : State) : Sends s (acceptFrame q s) := ⟨⟨_, _, _, _, _, rfl⟩, clearReport_nil⟩

theorem replaceFrame_sends (q : Queued) (s : State) : Sends s (replaceFrame q s) := ⟨⟨_, _, _, _, _, rfl⟩, clearReport_nil⟩

theorem displaceFrame_sends (c : Nat) (s : State) : Sends s (displaceFrame c s) := by
  unfold displaceFrame
  have h : Sends s { s with bus := { s.bus with waiting := dropYoungest c s.bus.waiting, queueDrop := s.bus.queueDrop + 1 } } :=
    ⟨⟨_, _, _, _, _, rfl⟩, id⟩
  simp only
  split
  · exact h
  · exact h.trans (oweReport_sends _ _)

theorem setPending_due (r : Report) (b : Bus) : (setPending r b).due = b.due := by unfold setPending; split <;> rfl

theorem refuseFrame_sends (q : Queued) (s : State) : Sends s (refuseFrame q s) := by
  unfold refuseFrame
  have h : Sends s { s with bus := { s.bus with queueDrop := s.bus.queueDrop + 1 } } := ⟨⟨_, _, _, _, _, rfl⟩, id⟩
  simp only
  split
  · exact h
  · exact h.trans (.ite ⟨⟨_, _, _, _, _, rfl⟩, (setPending_due _ _).trans⟩ ⟨⟨_, _, _, _, _, rfl⟩, id⟩)

theorem offerFrame_sends (q : Queued) (s : State) : Sends s (offerFrame q s) :=
  .ite (.refl s) (.ite (replaceFrame_sends q s) (.ite (acceptFrame_sends q s)
    (.ite ((displaceFrame_sends _ s).trans (acceptFrame_sends q _)) (refuseFrame_sends q s))))

theorem offer_sends (dest : Byte) (p : Payload) (s : State) : Sends s (offer dest p s) := offerFrame_sends _ s

theorem broadcast_sends (p : Payload) (s : State) : Sends s (broadcast p s) := .ite (offer_sends _ _ s) (.refl s)

theorem toSources_sends (p : Payload) (s : State) : Sends s (toSources p s) := .foldl (fun a _ => offer_sends _ _ a) _ s

/-! ## The Exception Unit (R152 to R161) -/

theorem setExc_sends (e : ExceptionUnit) (s : State) : Sends s { s with exc := e } := ⟨⟨_, _, _, _, _, rfl⟩, id⟩

theorem alertFreeze_sends (n : Byte) (b a : EventCounter) (s : State) : Sends s (alertFreeze n b a s) :=
  .ite (broadcast_sends _ s) (.refl s)

theorem countEvent_sends (e : CounterEvent) (s : State) : Sends s (countEvent e s) :=
  .ite ((setExc_sends _ s).trans ((alertFreeze_sends _ _ _ _).trans (alertFreeze_sends _ _ _ _))) (.refl s)

theorem handStray_sends (i : StrayInfo) (s : State) : Sends s (handStray i s) :=
  .ite ((setExc_sends _ s).trans ((countEvent_sends _ _).trans (broadcast_sends _ _))) (.refl s)

theorem unwatch_sends (p : Nat) (s : State) : Sends s (unwatch p s) := setExc_sends _ s

theorem lookAtOnce_sends (p : Nat) (r : Byte) (s : State) : Sends s (lookAtOnce p r s) := by
  unfold lookAtOnce
  split
  · exact .refl s
  · exact (broadcast_sends _ s).trans (unwatch_sends p _)
  · exact broadcast_sends _ s

theorem beginSearch_sends (p : Nat) (r : Byte) (own : Bool) (s : State) : Sends s (beginSearch p r own s) := by
  have h : Sends s (enterWatch p r s) := setExc_sends _ s
  exact .ite (h.trans (.trans (.ite (broadcast_sends _ _) (.refl _)) (lookAtOnce_sends p r _))) h

theorem watchCheck_sends (p : Nat) (pl : Place) (o : Option Outlet) (s : State) : Sends s (watchCheck p pl o s) := by
  unfold watchCheck
  split
  · exact .refl s
  · exact .ite ((broadcast_sends _ s).trans (unwatch_sends p _)) (.refl s)

theorem watchPlates_sends (slot : Nat) (l : List Nat) (s : State) : Sends s (watchPlates slot l s) :=
  .foldl (fun a _ => watchCheck_sends _ _ _ a) _ s

/-! ## The hold value (R142, R143) -/

theorem followHold_sends (s : State) : Sends s (followHold s) := by
  unfold followHold
  simp only
  have value : Sends s { s with flow := { s.flow with holdValue := wantedHold s } } := ⟨⟨_, _, _, _, _, rfl⟩, id⟩
  have refresh : ∀ u r, Sends u { u with flow := { u.flow with refresh := r } } := fun u r => ⟨⟨_, _, _, _, _, rfl⟩, id⟩
  exact .ite (.refl s) ((value.trans (.ite (toSources_sends _ _) (.refl _))).trans (refresh _ _))

/-! ## With room in the queue nothing is displaced or refused -/

/-- An operation that offers at most k frames: with room for them no report is owed, and the room left is by k less. -/
def Fits (k : Nat) (s t : State) : Prop := ∀ n, Room (k + n) s → t.owed = s.owed ∧ Room n t

namespace Fits

variable {s t u : State} {j k : Nat}

theorem refl (s : State) : Fits 0 s s := fun n h => ⟨rfl, by simpa using h⟩

theorem trans (h : Fits j s t) (g : Fits k t u) : Fits (j + k) s u := fun n r => by
  obtain ⟨h1, h2⟩ := h (k + n) (by rwa [Nat.add_assoc] at r)
  obtain ⟨g1, g2⟩ := g n h2
  exact ⟨g1.trans h1, g2⟩

theorem mono (h : Fits j s t) (hk : j ≤ k) : Fits k s t := fun n r =>
  h n (le_trans (by omega) r)

theorem ite {p : Prop} [Decidable p] (ht : Fits k s t) (hu : Fits k s u) : Fits k s (if p then t else u) := by
  split
  · exact ht
  · exact hu

/-- A change beside the transmit queue and the reports owed. -/
theorem beside (hb : t.bus = s.bus) (ho : t.owed = s.owed) : Fits 0 s t := fun n r => ⟨ho, by rw [Room, hb]; simpa [Room] using r⟩

theorem foldl {α : Type} {f : State → α → State} (h : ∀ a x, Fits 1 a (f a x)) (l : List α) (s : State) :
    Fits l.length s (l.foldl f s) := by
  induction l generalizing s with
  | nil => exact .refl s
  | cons x l ih => exact ((h s x).trans (ih _)).mono (by rw [List.length_cons]; omega)

theorem owed (h : Fits k s t) (r : Room k s) : t.owed = s.owed := (h 0 r).1

end Fits

theorem offerFrame_fits (q : Queued) (s : State) : Fits 1 s (offerFrame q s) := by
  intro n r
  have hr : queueLength s.bus + 1 + n ≤ Config.transmitQueue := le_trans (by omega) r
  unfold offerFrame
  split
  · exact ⟨rfl, le_trans (by omega) hr⟩
  · split
    · have hq := queueLength_of (b := s.bus) (b' := (replaceFrame q s).bus) rfl
      simp only [replaceFrame, List.length_map] at hq
      exact ⟨rfl, le_trans (by simp only [replaceFrame]; omega) hr⟩
    · rw [if_pos (by omega)]
      have hq := queueLength_of (b := s.bus) (b' := (acceptFrame q s).bus) rfl
      simp only [acceptFrame, List.length_append, List.length_singleton] at hq
      exact ⟨rfl, le_trans (by simp only [acceptFrame]; omega) hr⟩

theorem broadcast_fits (p : Payload) (s : State) : Fits 1 s (broadcast p s) :=
  .ite (offerFrame_fits _ s) ((Fits.refl s).mono (by omega))

theorem toSources_fits (p : Payload) (s : State) : Fits (cfg s).sources.length s (toSources p s) :=
  .foldl (fun a _ => offerFrame_fits _ a) _ s

theorem alertFreeze_fits (n : Byte) (b a : EventCounter) (s : State) : Fits 1 s (alertFreeze n b a s) :=
  .ite (broadcast_fits _ s) ((Fits.refl s).mono (by omega))

theorem countEvent_fits (e : CounterEvent) (s : State) : Fits 2 s (countEvent e s) :=
  have counted : ∀ x : ExceptionUnit, Fits 0 s { s with exc := x } := fun _ => .beside rfl rfl
  .ite (((counted _).trans ((alertFreeze_fits _ _ _ _).trans (alertFreeze_fits _ _ _ _))).mono le_rfl)
    ((Fits.refl s).mono (by omega))

theorem followHold_fits (s : State) : Fits (cfg s).sources.length s (followHold s) := by
  unfold followHold
  simp only
  have sent := toSources_fits (.hold (byteOf (wantedHold s))) { s with flow := { s.flow with holdValue := wantedHold s } }
  refine .ite ((Fits.refl s).mono (by omega)) ?_
  exact ((Fits.beside (t := { s with flow := { s.flow with holdValue := wantedHold s } }) rfl rfl).trans
    ((Fits.ite sent ((Fits.refl _).mono (by omega))).trans (Fits.beside rfl rfl))).mono (by simp [cfg])

end Sys2Proof.Machine
end

section
/-! PROOFS. A count and its reports (R1, R4), where it reaches nothing or one position, and the reasons JAM and STALL (R14, R27). -/

namespace Sys2Proof.Machine

/-! ## A count that reaches little -/

theorem exec_count {a b forward : Bool} {s : State} (h : CountComes a b forward s)
    (ht : ∀ e p, e ≠ .entry → (eyeOf s e).trailing = some p → posDiff (movedTo forward s) p < 20000) :
    exec (.encoderCount a b) s = .next (settle (reportReached (chooseEdge (countTaken a b forward s)))) := by
  rw [exec_ready (by simp) (by simp) h.ready.1]
  show Host.Outcome.next (settle (encoderSample a b s)) = _
  rw [encoderSample_taken a b forward s h.applies h.direction ht]

/-- Log 40: where no position that an edge may come before is reached, there is no choice. -/
theorem chooseEdge_of_none {s : State}
    (h : ∀ r ∈ s.belt.register, reached s.belt.d r.position = true → ∀ e, mayFollowEdge e r.item = false) :
    chooseEdge s = s := by
  have hn : ∀ e, s.belt.register.any (fun r => mayFollowEdge e r.item && decide (r.position = s.belt.d)) = false := by
    intro e
    rw [List.any_eq_false]
    intro r hr hc
    obtain ⟨h1, h2⟩ := Bool.and_eq_true_iff.mp hc
    have hd : reached s.belt.d r.position = true := by simp [of_decide_eq_true h2, reached, posDiff]
    rw [h r hr hd e] at h1
    cases h1
  have : edgeBeside s = none := by
    unfold edgeBeside
    split
    · simp [hn]
    · rfl
  simp [chooseEdge, this]

/-- No pending trailing edge of EYE_IN has passed the chatter filter. -/
def NoTrailing (s : State) : Prop := s.belt.eyes.entry.trailing.any (chatterPassed s.belt.d) = false

theorem noTrailing_of_none {s : State} (h : s.belt.eyes.entry.trailing = none) : NoTrailing s := by simp [NoTrailing, h]

theorem noTrailing_of_lt {s : State} (h : ∀ p, s.belt.eyes.entry.trailing = some p → posDiff s.belt.d p < 20000) :
    NoTrailing s := by
  unfold NoTrailing
  rcases ht : s.belt.eyes.entry.trailing with _ | p
  · rfl
  · exact decide_eq_false (not_le.mpr (h p ht))

/-- R4: of one owner the next report is a reached registration that waits for no edge. -/
theorem firstReached_owner {s : State} {o : Owner} {r : Registration}
    (h : firstReached s.belt.d (s.belt.register.filter (fun r => decide (itemOwner r.item = o) && !heldBack s r)) = some r) :
    r ∈ dueRegister s ∧ itemOwner r.item = o := by
  obtain ⟨hm, hr, -⟩ := firstReached_some h
  obtain ⟨hm, hp⟩ := List.mem_filter.mp hm
  exact ⟨mem_dueRegister.mpr ⟨hm, hr⟩, of_decide_eq_true (Bool.and_eq_true_iff.mp hp).1⟩

theorem dueNow_of_nothing {s : State} (h : dueRegister s = []) (ht : NoTrailing s) : dueNow s = [] := by
  have hn : ∀ o, firstReached s.belt.d (s.belt.register.filter (fun r => decide (itemOwner r.item = o) && !heldBack s r)) = none := by
    intro o
    by_contra hc
    obtain ⟨r, hr⟩ := Option.ne_none_iff_exists'.mp hc
    have := (firstReached_owner hr).1
    rw [h] at this
    cases this
  unfold NoTrailing at ht
  simp [dueNow, hn, ht]

/-- R4: with one registration reached and no edge awaited, its report is all there is to deliver. -/
theorem dueNow_of_only {s : State} {r : Registration} (hr : r ∈ dueRegister s) (ho : ∀ y ∈ dueRegister s, y = r)
    (ha : s.belt.awaited = none) (ht : NoTrailing s) : dueNow s = [.position r] := by
  have hf : ∀ o, firstReached s.belt.d (s.belt.register.filter (fun r => decide (itemOwner r.item = o) && !heldBack s r)) =
      if itemOwner r.item = o then some r else none := by
    intro o
    rcases hc : firstReached s.belt.d (s.belt.register.filter (fun r => decide (itemOwner r.item = o) && !heldBack s r)) with _ | y
    · have hn := firstReached_none hc
      rw [if_neg]
      intro hown
      obtain ⟨hm, hd⟩ := mem_dueRegister.mp hr
      have : r ∈ (s.belt.register.filter (fun r => decide (itemOwner r.item = o) && !heldBack s r)).filter
          (fun r => reached s.belt.d r.position) := by simp [hm, hd, hown, heldBack, ha]
      rw [hn] at this
      cases this
    · obtain ⟨hy, hown⟩ := firstReached_owner hc
      obtain rfl := ho y hy
      rw [if_pos hown]
  unfold NoTrailing at ht
  simp only [dueNow, hf, ht, Bool.false_eq_true, if_false, List.append_nil]
  cases itemOwner r.item <;> rfl

theorem reportAll_done {s : State} (h : dueNow s = []) (n : Nat) : reportAll n s = s := by
  cases n with
  | zero => rfl
  | succ n => simp [reportAll, h]

/-- R4: nothing reached, nothing reported. -/
theorem reportReached_nothing {s : State} (h : dueRegister s = []) (ht : NoTrailing s) : reportReached s = s :=
  reportAll_done (dueNow_of_nothing h ht) _

/-- R3, R4: one registration reached is removed and reported, and that is all. -/
theorem reportReached_only {s : State} {r : Registration} (hr : r ∈ dueRegister s) (ho : ∀ y ∈ dueRegister s, y = r)
    (ha : s.belt.awaited = none) (ht : s.belt.eyes.entry.trailing = none) :
    reportReached s = reportPosition r.item (withdraw r.item s) := by
  have hdue : dueRegister (reportPosition r.item (withdraw r.item s)) = [] := by
    refine List.sublist_nil.mp ((deliver_due r s).trans (List.sublist_nil.mpr (List.filter_eq_nil_iff.mpr fun y hy => ?_)))
    simp [ho y hy]
  have heye : (reportPosition r.item (withdraw r.item s)).belt.eyes.entry.trailing = none := by
    rcases (reportPosition_eyes r.item (withdraw r.item s)).2 with he | he
    · rw [he]; exact ht
    · exact he
  unfold reportReached
  rw [reportAll, dueNow_of_only hr ho ha (noTrailing_of_none ht)]
  exact reportAll_done (dueNow_of_nothing hdue (noTrailing_of_none heye)) _

/-- R4: a count that reaches one registered item, none that an edge may come before, reports it and no other. -/
theorem exec_count_only {a b forward : Bool} {s : State} {i : Item} {p : Pos} (h : CountComes a b forward s)
    (ht : ∀ e, (eyeOf s e).trailing = none) (hr : ReachesOnly i p forward s) (hi : ∀ e, mayFollowEdge e i = false) :
    exec (.encoderCount a b) s = .next (settle (reportPosition i (withdraw i (countTaken a b forward s)))) := by
  have only : ∀ y ∈ dueRegister (countTaken a b forward s), y = ⟨i, p⟩ := fun y hy => by
    obtain ⟨hm, hd⟩ := mem_dueRegister.mp hy
    by_contra hne
    rw [show reached (countTaken a b forward s).belt.d y.position = false from hr.others y hm hne] at hd
    cases hd
  have hc : chooseEdge (countTaken a b forward s) = countTaken a b forward s := by
    refine chooseEdge_of_none fun y hm hd => ?_
    rw [only y (mem_dueRegister.mpr ⟨hm, hd⟩)]
    exact hi
  rw [exec_count h (fun e p _ he => by rw [ht] at he; cases he), hc,
    reportReached_only (s := countTaken a b forward s) (mem_dueRegister.mpr ⟨hr.held, hr.here⟩) only h.ready.2.2.2 (ht .entry)]

/-- A count that reaches no registered position has nothing to report and no choice to make. -/
theorem countTaken_reaches_nothing {a b forward : Bool} {s : State}
    (hr : ∀ r ∈ s.belt.register, reached (movedTo forward s) r.position = false) :
    dueRegister (countTaken a b forward s) = [] ∧ chooseEdge (countTaken a b forward s) = countTaken a b forward s := by
  have hn : ∀ r ∈ (countTaken a b forward s).belt.register, reached (countTaken a b forward s).belt.d r.position = false := hr
  refine ⟨List.filter_eq_nil_iff.mpr fun r hm => by simp [hn r hm], chooseEdge_of_none fun r hm hd => ?_⟩
  rw [hn r hm] at hd
  cases hd

/-! ## JAM and STALL join the set (R14, R27) -/

/-- R8, R13: the drive and EYE_IN once JAM or STALL has joined, before the Flow Controller and the counters are told. -/
def raised (x : StopReason) (s : State) : State :=
  { s with drive := joinReason (cfg s).rRun x s.drive
           belt := { s.belt with eyes := { s.belt.eyes with entry := { s.belt.eyes.entry with trailing := none } } } }

/-- R13: the drive as a halting reason leaves it. -/
def haltedDrive (x : StopReason) (d : Drive) : Drive :=
  { reasons := setReasonBit d.reasons x true, state := .halted
    r := if d.state = .halted then d.r else 0
    quiet := if d.state = .halted then d.quiet else some 100
    stall := if d.state = .halted ∨ 200 ≤ d.stall then d.stall else 0 }

theorem raised_eq {x : StopReason} {s : State} (hx : isHalting x = true) (h : hasReason s.drive.reasons x = false) :
    raised x s = { s with
      drive := haltedDrive x s.drive
      belt := { s.belt with eyes := { s.belt.eyes with entry := { s.belt.eyes.entry with trailing := none } } } } := by
  unfold raised
  rw [joinReason_halting _ hx h]
  rfl

theorem raised_drive {x : StopReason} {s : State} (hx : isHalting x = true) (h : hasReason s.drive.reasons x = false) :
    (raised x s).drive = haltedDrive x s.drive := by rw [raised_eq hx h]

theorem raiseHalting_present {x : StopReason} {s : State} (h : hasReason s.drive.reasons x = true) : raiseHalting x s = s := by
  simp [raiseHalting, h]

theorem raiseHalting_absent {x : StopReason} {s : State} (h : hasReason s.drive.reasons x = false) :
    raiseHalting x s = countEvent .jamsAndStalls (followHold (raised x s)) := by
  simp [raiseHalting, h, raised, onDrive]

theorem raiseHalting_sends {x : StopReason} {s : State} (h : hasReason s.drive.reasons x = false) :
    Sends (raised x s) (raiseHalting x s) := by
  rw [raiseHalting_absent h]
  exact (followHold_sends _).trans (countEvent_sends _ _)

theorem raiseHalting_calm {x : StopReason} {s : State} (h : hasReason s.drive.reasons x = false) :
    Calm (raised x s) (raiseHalting x s) := by
  rw [raiseHalting_absent h]
  exact (followHold_calm _).trans (countEvent_calm _ _)

theorem raiseHalting_fits {x : StopReason} {s : State} (h : hasReason s.drive.reasons x = false) :
    Fits ((cfg s).sources.length + 2) (raised x s) (raiseHalting x s) := by
  rw [raiseHalting_absent h]
  exact (followHold_fits _).trans (countEvent_fits _ _)

/-- R14: STALL joins: the drive is halted and the count 0, and nothing of the steady part changes but STALL and the trailing edge. -/
theorem stallFires_joins {s : State} (h : s.drive.state = .run ∨ 200 ≤ s.drive.stall) (hs : s.drive.reasons.stall = false) :
    steady (stallFires s) = steady (raised .stall s) ∧
      (stallFires s).drive = { (raised .stall s).drive with stall := 0, reasons := (stallFires s).drive.reasons } := by
  have hc := raiseHalting_calm (x := .stall) hs
  have hf : stallFires s = onDrive (fun d => { d with stall := 0 }) (raiseHalting .stall s) := if_pos h
  have halted : (raised .stall s).drive.state = .halted := by
    rw [raised_drive (x := .stall) rfl hs]
    rfl
  rw [hf]
  refine ⟨hc.steady, ?_⟩
  rw [onDrive_drive, hc.coasts halted]

/-- R14: what STALL_DETECTED does to a part between two events. -/
theorem stallDetected_joins {s : State} (h : Ready s) (hx : s.drive.state = .run ∨ 200 ≤ s.drive.stall)
    (hs : s.drive.reasons.stall = false) :
    ∃ t, exec .stallDetected s = .next t ∧ steady t = steady (raised .stall s) ∧ t.pins = pinsOf t ∧ t.inReset = false ∧
      t.drive = { (raised .stall s).drive with stall := 0, reasons := t.drive.reasons } := by
  have hn := exec_ready (c := .stallDetected) (by simp) (by simp) h.1
  obtain ⟨h1, h2⟩ := stallFires_joins hx hs
  have hc := settle_calm (stallFires s)
  have st : steady (settle (stallFires s)) = steady (raised .stall s) := hc.steady.trans h1
  refine ⟨_, hn, st, drivePins_law _, (congrArg State.inReset st).trans h.1, ?_⟩
  have halted : (stallFires s).drive.state = .halted := by
    rw [h2]
    rw [raised_drive (x := .stall) rfl hs]
    rfl
  show (settle (stallFires s)).drive = _
  rw [hc.coasts halted]
  exact congrArg (fun d : Drive => { d with reasons := (settle (stallFires s)).drive.reasons }) h2

/-- R27: a count that reaches the jam point with JAM not in the set. -/
theorem jamPoint_joins {a b forward : Bool} {p : Pos} {s : State} (h : CountComes a b forward s)
    (ht : ∀ e, (eyeOf s e).trailing = none) (hr : ReachesOnly .jamPoint p forward s)
    (hroom : Room ((cfg s).sources.length + 2) s) (hj : s.drive.reasons.jam = false) :
    ∃ v, exec (.encoderCount a b) s = .next (drivePins v) ∧
      Sends (raised .jam (withdraw .jamPoint (countTaken a b forward s))) v := by
  have hs : Sends _ (jamReached (withdraw .jamPoint (countTaken a b forward s))) := raiseHalting_sends (x := .jam) hj
  have hf : Fits _ _ (jamReached (withdraw .jamPoint (countTaken a b forward s))) := raiseHalting_fits (x := .jam) hj
  refine ⟨_, ?_, hs⟩
  rw [exec_count_only h ht hr (fun e => by cases e <;> rfl), ← settle_of_none]
  · rfl
  · exact (hf.owed hroom).trans h.ready.2.1

/-- Settles O23: STALL joins by its command, JAM by the report of the jam point; either way a halting reason halts the drive. -/
theorem stallHaltsTheDrive : Obligations.StallHaltsTheDrive := by
  refine ⟨fun s h => ⟨fun hr hl => ?_, fun hx => ⟨fun hs => ?_, fun hs => ?_⟩⟩, fun a b forward p s h ht hr hroom => ?_⟩
  · exact exec_calm (by simp) (by simp) h (if_neg (by simpa [hr, Config.stallWindows] using hl)) h.2.1
  · refine exec_calm (by simp) (by simp) h ((if_pos hx).trans ?_) h.2.1
    rw [raiseHalting_present (x := .stall) hs]
    rfl
  · obtain ⟨t, hn, st, hp, hi, hd⟩ := stallDetected_joins h hx hs
    rw [raised_drive (x := .stall) rfl hs] at hd
    refine ⟨t, hn, ?_, by rw [hd]; rfl, by rw [hd], by rw [hp]; exact pinsOf_halted (by rw [hd]; rfl), fun hh => ?_, fun hh => ?_⟩
    · rw [st, raised_eq (x := .stall) rfl hs]
      rfl
    · have hr0 : t.drive.r = 0 := by rw [hd]; exact if_neg hh
      exact ⟨hr0, by rw [hd]; exact if_neg hh, by rw [hp, pinsOf_out hi]; exact hr0⟩
    · exact ⟨by rw [hd]; exact if_pos hh, by rw [hd]; exact if_pos hh⟩
  · have hreg : (withdraw .jamPoint (countTaken a b forward s)).belt.register = registerWithout [.jamPoint] s := by
      simp [registerWithout, withdraw, countTaken]
    cases hj : s.drive.reasons.jam with
    | true =>
      refine ⟨_, exec_count_only h ht hr (fun e => by cases e <;> rfl), ?_⟩
      rw [show reportPosition .jamPoint (withdraw .jamPoint (countTaken a b forward s)) = withdraw .jamPoint (countTaken a b forward s)
        from raiseHalting_present (x := .jam) hj, settle_of_none (by exact h.ready.2.1)]
      exact ⟨⟨rfl, rfl, rfl, rfl, rfl, rfl, rfl, rfl⟩, hreg, rfl, rfl, rfl, by rw [← hj]; rfl, fun hc => by cases hc⟩
    | false =>
      have heyes : ({ s.belt.eyes with entry := { s.belt.eyes.entry with trailing := none } } : Eyes) = s.belt.eyes := by
        rw [← ht .entry]
        rfl
      have hstall : (if s.drive.state = .halted ∨ 200 ≤ s.drive.stall then s.drive.stall else 0) =
          if s.drive.state = .halted then s.drive.stall else if s.drive.stall < 200 then 0 else s.drive.stall := by
        by_cases hh : s.drive.state = .halted <;> by_cases hl : s.drive.stall < 200 <;> simp [hh, hl, not_lt.mp]
      obtain ⟨v, hn, hs⟩ := jamPoint_joins h ht hr hroom hj
      rw [raised_eq (x := .jam) (s := withdraw .jamPoint (countTaken a b forward s)) rfl hj] at hs
      obtain ⟨⟨_, _, _, _, _, rfl⟩, -⟩ := hs
      exact ⟨_, hn, ⟨rfl, rfl, rfl, rfl, rfl, rfl, rfl, rfl⟩, hreg, heyes, rfl, rfl, rfl, fun _ => ⟨rfl,
        fun hh => ⟨if_neg hh, if_neg hh, pinsOf_halted rfl, hstall.trans (if_neg hh)⟩, fun hh => ⟨if_pos hh, if_pos hh⟩⟩⟩

end Sys2Proof.Machine
end

section
/-! PROOFS. The delivered trailing edge of EYE_IN (R7, R23 to R27). -/

namespace Sys2Proof.Machine

/-! ## The edge as a count delivers it -/

theorem Inner.keeps {s t : State} (h : Inner s t) : Keeps s t :=
  ⟨h.time, h.inReset, h.pending, h.lines, h.loader, h.d, h.late, h.epoch⟩

/-- The entry eye once its trailing edge has been delivered. -/
def entryCleared (s : State) : State := updateEye .entry (fun x => { x with trailing := none, delivered := false }) s

/-- R4, R7: with no registration reached and the trailing edge past the chatter filter, its delivery is all there is to do. -/
theorem reportReached_trailing {s : State} {p : Pos} (hd : dueRegister s = []) (ht : s.belt.eyes.entry.trailing = some p)
    (hp : 20000 ≤ posDiff s.belt.d p) : reportReached s = deliverTrailing .entry s := by
  have hn : ∀ o, firstReached s.belt.d (s.belt.register.filter (fun r => decide (itemOwner r.item = o) && !heldBack s r)) = none := by
    intro o
    by_contra hc
    obtain ⟨r, hr⟩ := Option.ne_none_iff_exists'.mp hc
    have := (firstReached_owner hr).1
    rw [hd] at this
    cases this
  have hc : chatterPassed s.belt.d p = true := decide_eq_true hp
  have now : dueNow s = [.trailing] := by simp [dueNow, hn, ht, hc]
  have hdue : dueRegister (deliverTrailing .entry s) = [] := List.sublist_nil.mp (hd ▸ (deliverTrailing_lawful .entry s).due)
  unfold reportReached
  rw [reportAll, now]
  exact reportAll_done (dueNow_of_nothing hdue (noTrailing_of_none (deliverTrailing_eyes s).2)) _

/-- R7: a count that takes the belt past the chatter filter delivers the trailing edge. -/
theorem exec_count_trailing {a b forward : Bool} {edge : Pos} {s : State} (h : CountComes a b forward s)
    (ho : ∀ e, e ≠ .entry → (eyeOf s e).trailing = none) (ht : s.belt.eyes.entry.trailing = some edge)
    (hp : 20000 ≤ posDiff (movedTo forward s) edge)
    (hr : ∀ r ∈ s.belt.register, reached (movedTo forward s) r.position = false) :
    exec (.encoderCount a b) s = .next (settle (entryTrailing edge (entryCleared (countTaken a b forward s)))) := by
  obtain ⟨hdue, hc⟩ := countTaken_reaches_nothing (a := a) (b := b) hr
  rw [exec_count h (fun e p he hx => by rw [ho e he] at hx; cases hx), hc, reportReached_trailing hdue ht hp]
  have hx : (eyeOf (countTaken a b forward s) .entry).trailing = some edge := ht
  simp only [deliverTrailing, hx]
  exact congrArg (fun v => Host.Outcome.next (settle v)) (if_pos h.applies)

/-! ## What becomes of the record -/

theorem openRecord_last {s : State} {pre : List BagRecord} {r : BagRecord} (h : s.tracker.segment = pre ++ [r])
    (hl : r.length = none) : openRecord s = some r := by
  simp [openRecord, h, hl, Option.filter]

/-- R114: with no window there is nothing to write the length into. -/
theorem lengthKnown_no_windows (slot len : Nat) {s : State} (h : s.divert.windows = ⟨{}, {}, {}⟩) :
    lengthKnown slot len s = s := by
  have hw : ∀ k, windowOfBag s k slot = none := fun k => by rw [windowOfBag, h]; cases k <;> rfl
  simp [lengthKnown, allDiverters, hw]

theorem map_update_last {pre : List BagRecord} {r : BagRecord} (f : BagRecord → BagRecord) (h : ∀ x ∈ pre, x.slot ≠ r.slot) :
    (pre ++ [r]).map (fun b => if b.slot = r.slot then f b else b) = pre ++ [f r] := by
  have hpre : pre.map (fun b => if b.slot = r.slot then f b else b) = pre := by
    conv_rhs => rw [← List.map_id pre]
    exact List.map_congr_left fun x hx => if_neg (h x hx)
  rw [List.map_append, hpre, List.map_singleton, if_pos rfl]

theorem raiseFloor_some (back : Pos) (floor : Option Pos) : raiseFloor back floor = some (match floor with
    | none => back
    | some f => if 0 < posDiff back f then back else f) := by
  cases floor with
  | none => rfl
  | some f => simp only [raiseFloor]; split <;> rfl

theorem entryTrailing_none {p : Pos} {s : State} (h : openRecord s = none) : entryTrailing p s = withdraw .jamPoint s := by
  simp [entryTrailing, h]

/-- R23, R24: the length of the open record is closed, where no window stands. -/
theorem entryTrailing_closes {p : Pos} {s : State} {pre : List BagRecord} {r : BagRecord} (h : s.tracker.segment = pre ++ [r])
    (hl : r.length = none) (hs : ∀ x ∈ pre, x.slot ≠ r.slot) (hp : 0 < posDiff p r.entry)
    (hw : s.divert.windows = ⟨{}, {}, {}⟩) :
    entryTrailing p s = { withdraw .jamPoint s with tracker := { s.tracker with
      segment := pre ++ [closedRecord (cfg s) (recordedLength (cfg s) (posDiff p r.entry)) r]
      floor := raiseFloor (r.entry + mm (recordedLength (cfg s) (posDiff p r.entry))) s.tracker.floor } } := by
  simp only [entryTrailing, openRecord_last h hl, hp, if_true, closeLength]
  rw [lengthKnown_no_windows _ _ (by exact hw)]
  simp only [onTracker, updateBag, withdraw, h, map_update_last _ hs]
  rfl

/-- R26: the open record is lost. -/
theorem entryTrailing_loses {p : Pos} {s : State} {pre : List BagRecord} {r : BagRecord} (h : s.tracker.segment = pre ++ [r])
    (hl : r.length = none) (hs : ∀ x ∈ pre, x.slot ≠ r.slot) (hp : posDiff p r.entry ≤ 0) :
    (entryTrailing p s).tracker.lost = s.tracker.lost + 1 ∧ (entryTrailing p s).tracker.entered = s.tracker.entered ∧
      (entryTrailing p s).tracker.departed = s.tracker.departed ∧ segmentSlots (entryTrailing p s) = pre.map BagRecord.slot := by
  have he : entryTrailing p s = loseRecord r .lost .notPresent (withdraw .jamPoint s) := by
    simp [entryTrailing, openRecord_last h hl, not_lt.mpr hp]
  rw [he, loseRecord]
  have hc := handStray_calm (bagStray r .lost .notPresent)
    (removeRecord r.slot (onTracker (fun t => { t with lost := t.lost + 1 }) (withdraw .jamPoint s)))
  obtain ⟨-, h1, h2, h3, h4⟩ := removeRecord_inner r.slot
    (onTracker (fun t => { t with lost := t.lost + 1 }) (withdraw .jamPoint s))
  refine ⟨hc.lost.trans h4, hc.entered.trans h2, hc.departed.trans h3, (hc.slots.trans h1).trans ?_⟩
  have hslots : segmentSlots (onTracker (fun t => { t with lost := t.lost + 1 }) (withdraw .jamPoint s)) =
      pre.map BagRecord.slot ++ [r.slot] := by
    simp [segmentSlots, onTracker, withdraw, h]
  rw [hslots, List.filter_append, List.filter_eq_self.mpr]
  · simp
  · intro i hi
    obtain ⟨x, hx, rfl⟩ := List.mem_map.mp hi
    exact decide_eq_true (hs x hx)

theorem entryTrailing_sameEyes (p : Pos) (s : State) : SameEyes s (entryTrailing p s) := by
  have hw := (withdraw_calm .jamPoint s).sameEyes
  unfold entryTrailing
  simp only
  split
  · exact hw
  · exact .ite (hw.trans (closeLength_sameEyes _ _ _)) (hw.trans (loseRecord_sameEyes _ _ _ _))

/-- Settles O29: the count delivers the edge, which closes or loses the open record, or finds none. -/
theorem trailingEdgeClosesTheLength : Obligations.TrailingEdgeClosesTheLength := by
  intro a b forward edge s h ho ht hp hw hr register
  have hn := exec_count_trailing h ho ht hp hr
  generalize hu : entryCleared (countTaken a b forward s) = u at hn
  have hlaw : Lawful u (settle (entryTrailing edge u)) := (entryTrailing_lawful edge u).trans (settle_lawful _)
  have hkeep : Keeps u (settle (entryTrailing edge u)) := hlaw.keeps
  have heyes := ((entryTrailing_sameEyes edge u).trans (settle_calm _).sameEyes).1
  have hrest : entryTrailing edge u = withdraw .jamPoint u → settle (entryTrailing edge u) = drivePins (withdraw .jamPoint u) :=
    fun he => by rw [he, settle_of_none (by subst hu; exact h.ready.2.1)]
  refine ⟨_, hn, ?_, ?_, fun hnone => ?_, fun pre r hseg hlen hslot => ⟨fun hpos => ?_, fun hneg => ?_⟩⟩
  · subst hu
    exact ⟨hkeep.time, hkeep.inReset, hkeep.pending, hkeep.lines, hkeep.loader, hkeep.d, hkeep.late, hkeep.epoch⟩
  · subst hu
    exact heyes
  · rw [hrest (entryTrailing_none (by subst hu; exact hnone))]
    subst hu
    exact ⟨rfl, rfl, rfl, rfl, rfl⟩
  · have hc := entryTrailing_closes (s := u) (by subst hu; exact hseg) hlen hslot hpos (by subst hu; exact hw)
    rw [hc, settle_of_none (by subst hu; exact h.ready.2.1)]
    subst hu
    refine ⟨?_, rfl, rfl, rfl, rfl, rfl⟩
    exact congrArg (fun x => ({ s.tracker with
      segment := pre ++ [closedRecord (cfg s) (recordedLength (cfg s) (posDiff edge r.entry)) r], floor := x } : Tracker))
      (raiseFloor_some _ _)
  · obtain ⟨h1, h2, h3, h4⟩ := entryTrailing_loses (s := u) (by subst hu; exact hseg) hlen hslot hneg
    have hc := settle_calm (entryTrailing edge u)
    subst hu
    exact ⟨hc.lost.trans h1, hc.entered.trans h2, hc.departed.trans h3, hc.slots.trans h4⟩

end Sys2Proof.Machine
end

section
/-! PROOFS. The reports of a count (R1, R3, R4): which reports leave the register as it is, and that no report is left out. -/

namespace Sys2Proof.Machine

/-! ## Operations that leave the Belt Distance Unit as it is -/

/-- What decides which records a re-decision may touch: slot and tracking state of each record, in queue order. -/
def tracks (s : State) : List (Nat × Tracking) := s.tracker.segment.map (fun b => (b.slot, b.tracking))

/-- An operation that leaves the Belt Distance Unit and the tracking states as they were. -/
def Still (s t : State) : Prop := t.belt = s.belt ∧ tracks t = tracks s

namespace Still

variable {s t u : State}

theorem refl (s : State) : Still s s := ⟨rfl, rfl⟩

theorem trans (h : Still s t) (k : Still t u) : Still s u := ⟨k.1.trans h.1, k.2.trans h.2⟩

theorem ite {p : Prop} [Decidable p] (ht : Still s t) (hu : Still s u) : Still s (if p then t else u) := by
  split
  · exact ht
  · exact hu

theorem foldl {α : Type} {f : State → α → State} (h : ∀ a x, Still a (f a x)) (l : List α) (s : State) :
    Still s (l.foldl f s) := by
  induction l generalizing s with
  | nil => exact .refl s
  | cons x l ih => exact (h s x).trans (ih _)

/-- A change beside the belt and the segment queue. -/
theorem beside (h : (t.belt, t.tracker) = (s.belt, s.tracker)) : Still s t := by
  obtain ⟨hb, ht⟩ := Prod.mk.inj h
  exact ⟨hb, by rw [tracks, ht]; rfl⟩

end Still

theorem Sends.still {s t : State} (h : Sends s t) : Still s t := .beside (by rw [h.belt, h.tracker])

theorem updateBag_still (slot : Nat) (f : BagRecord → BagRecord) (s : State)
    (h : ∀ b, (f b).slot = b.slot ∧ (f b).tracking = b.tracking := by exact fun _ => ⟨rfl, rfl⟩) :
    Still s (updateBag slot f s) := by
  refine ⟨rfl, ?_⟩
  simp only [tracks, updateBag, List.map_map]
  refine List.map_congr_left fun b _ => ?_
  simp only [Function.comp]
  split
  · rw [(h b).1, (h b).2]
  · rfl

theorem setStatus_still (l : Live) (st : RouteStatus) (s : State) : Still s (setStatus l st s) := by
  cases l with
  | bag slot => exact updateBag_still slot _ s
  | entry source id => exact .beside (by rfl)

theorem copyPart_still (l : Live) (p : ManifestPart) (s : State) : Still s (copyPart l p s) := by
  cases l with
  | bag slot => exact updateBag_still slot _ s
  | entry source id => exact .beside (by rfl)

theorem markDuplicate_still (l : Live) (s : State) : Still s (markDuplicate l s) := by
  cases l with
  | bag slot => exact updateBag_still slot _ s
  | entry source id => exact .beside (by rfl)

theorem duplicateCheck_still (l : Live) (s : State) : Still s (duplicateCheck l s) := by
  unfold duplicateCheck
  split
  · exact .refl s
  · refine .ite (.refl s) (.foldl (fun a m => ?_) _ s)
    split
    · exact .refl a
    · exact .ite (markDuplicate_still _ a) (.refl a)

theorem lateStray_still (slot : Nat) (r : StrayReason) (s : State) : Still s (lateStray slot r s) := by
  unfold lateStray
  split
  · exact .refl s
  · exact .ite (.refl s) ((updateBag_still slot _ s).trans (handStray_sends _ _).still)

theorem resolveLate_still (slot : Nat) (r : ReadResult) (s : State) : Still s (resolveLate slot r s) := by
  unfold resolveLate
  split
  · exact .refl s
  · split
    · exact .refl s
    · refine .ite ((updateBag_still slot _ s).trans (duplicateCheck_still _ _)) (.ite ?_ ?_)
      · exact updateBag_still slot _ s (by intro b; split <;> exact ⟨rfl, rfl⟩)
      · exact (updateBag_still slot _ s).trans (lateStray_still _ _ _)
    · exact (updateBag_still slot _ s).trans (lateStray_still _ _ _)

theorem timelyRecord_tracking (r : ReadResult) (b : BagRecord) : (timelyRecord r b).tracking = b.tracking := by
  unfold timelyRecord
  split
  · split <;> rfl
  · split
    · rfl
    · split <;> rfl
  · unfold asBefore; split <;> rfl

theorem resolveTimely_still (slot : Nat) (r : ReadResult) (s : State) : Still s (resolveTimely slot r s) :=
  have h := updateBag_still slot (timelyRecord r) s fun b => ⟨timelyRecord_slot r b, timelyRecord_tracking r b⟩
  .ite h (h.trans (duplicateCheck_still _ _))

theorem failLive_still (l : Live) (s : State) : Still s (failLive l s) :=
  (setStatus_still l _ s).trans (countEvent_sends _ _).still

theorem queryMiss_still (l : Live) (p : Nat) (s : State) : Still s (queryMiss l p s) := by
  unfold queryMiss
  split
  · exact .ite (Still.trans (.beside (by rfl)) (setStatus_still l _ _)) (failLive_still l s)
  · refine .ite (failLive_still l s) (.ite ?_ (failLive_still l s))
    exact (Still.trans (.beside (by rfl)) (setStatus_still l _ _)).trans (offer_sends _ _ _).still

/-! ## A re-decision touches decided records only -/

theorem findBag_tracks (s : State) (slot : Nat) :
    (findBag s slot).map BagRecord.tracking = ((tracks s).find? (fun x => decide (x.1 = slot))).map Prod.snd := by
  rw [tracks, List.find?_map, Option.map_map]
  rfl

/-- The record that a slot names is there and not decided. -/
def Undecided (slot : Nat) (s : State) : Prop := ∃ b, findBag s slot = some b ∧ isDecided b = false

theorem Undecided.still {slot : Nat} {s t : State} (h : Undecided slot s) (k : Still s t) : Undecided slot t := by
  obtain ⟨b, hb, hd⟩ := h
  have ht : (findBag t slot).map BagRecord.tracking = some b.tracking := by
    rw [findBag_tracks, k.2, ← findBag_tracks, hb]
    rfl
  obtain ⟨c, hc, he⟩ := Option.map_eq_some_iff.mp ht
  refine ⟨c, hc, ?_⟩
  rw [← hd]
  simp only [isDecided, he]

theorem redecide_undecided {slot : Nat} {s : State} (h : Undecided slot s) : redecide slot s = s := by
  obtain ⟨b, hb, hd⟩ := h
  unfold redecide
  simp only [hb]
  unfold isDecided at hd
  split <;> simp_all

theorem redecideServed_undecided {slot : Nat} {s : State} (h : Undecided slot s) : redecideServed [.bag slot] s = s := by
  have fixed : ∀ l : List Nat, (∀ i ∈ l, i = slot) → l.foldl (fun acc i => redecide i acc) s = s := by
    intro l hl
    induction l with
    | nil => rfl
    | cons i l ih =>
      obtain rfl := hl i (by simp)
      rw [List.foldl_cons, redecide_undecided h]
      exact ih fun j hj => hl j (List.mem_cons_of_mem _ hj)
  refine fixed _ fun i hi => ?_
  obtain ⟨b, hb, rfl⟩ := List.mem_map.mp hi
  simpa using (Bool.and_eq_true_iff.mp (List.mem_filter.mp hb).2).2

theorem lookup_still {slot : Nat} {s : State} (h : Undecided slot s) : Still s (lookup (.bag slot) s) := by
  unfold lookup
  split
  · exact .refl s
  · split
    · split
      · rename_i i e _
        simp only
        generalize hu : putSet (setOf _) _ _ = u
        have hc : Still s (copyPart (.bag slot) e.part u) := by
          subst hu
          exact Still.trans (.beside (by rfl)) (copyPart_still (.bag slot) _ _)
        rw [redecideServed_undecided (h.still hc)]
        exact hc
      · exact Still.trans (.beside (by rfl)) (queryMiss_still _ _ _)
    · exact .refl s

/-- R49: a read result moves no registration: a record decided before it is not looked up, and one not decided yet is not
re-decided. -/
theorem deliver_still (slot : Nat) (r : ReadResult) (s : State) : Still s (deliver slot r s) := by
  unfold deliver
  split
  · exact .refl s
  · rename_i b hb
    have h1 := updateBag_still slot (fun b => { b with held := some r }) s
    have told : ∀ u, Still s u → Still s (if r = .noRead then countEvent .noReadResults (watchPlates slot (resultPlates r) u)
        else watchPlates slot (resultPlates r) u) := fun u hu =>
      have hw := hu.trans (watchPlates_sends slot (resultPlates r) u).still
      .ite (hw.trans (countEvent_sends .noReadResults _).still) hw
    cases hd : isDecided b with
    | true => exact told _ (h1.trans (resolveLate_still slot r _))
    | false =>
      have h := told _ (h1.trans (resolveTimely_still slot r _))
      exact h.trans (lookup_still (Undecided.still ⟨b, hb, hd⟩ h))

theorem readerReached_still (slot : Nat) (s : State) : Still s (readerReached slot s) :=
  .ite (deliver_still _ _ s) (.ite (.beside (by rfl)) (.ite (.beside (by rfl)) (deliver_still _ _ s)))

/-! ## The other reports -/

theorem putOccupancy_belt (n : Nat) (s : State) : (putOccupancy n s).belt = s.belt := (followHold_sends _).belt

theorem entryMissing_belt (source id : Byte) (s : State) : (entryMissing source id s).belt = s.belt := by
  unfold entryMissing
  split
  · rfl
  · rename_i e _
    have h : ∀ i, (handStray i (enterMissing source id (leaveWaiters (.entry source id)
        (occupancyFall (removeEntry source id s))))).belt = s.belt := fun i =>
      (handStray_sends i _).belt.trans (putOccupancy_belt _ _)
    simp only
    split
    · exact h _
    · exact (beginSearch_sends _ _ _ _).belt.trans (h _)

theorem syncStops_belt (s : State) : (syncStops s).belt = s.belt := by
  unfold syncStops
  simp only
  split <;> split <;> rfl

theorem latchGate_belt (o : Outlet) (s : State) : (latchGate o s).belt = s.belt := by
  unfold latchGate
  split
  · rfl
  · split
    · exact syncStops_belt _
    · rfl

theorem passReached_belt (k : Diverter) (slot : Nat) (s : State) : (passReached k slot s).belt = s.belt := by
  unfold passReached
  split <;> rfl

theorem jamReached_register (s : State) : (jamReached s).belt.register = s.belt.register := by
  cases h : hasReason s.drive.reasons .jam with
  | true => rw [jamReached, raiseHalting_present h]
  | false => rw [jamReached, (raiseHalting_sends h).belt]; rfl

theorem dropWindow_register (k : Diverter) (n : Nat) (s : State) :
    (dropWindow k n s).belt.register = (withdraw (.firePoint k n) (withdraw (.releasePoint k n) s)).belt.register := by
  unfold dropWindow
  simp only
  split
  · rfl
  · split <;> rfl

/-- R4: the items whose reports withdraw no other reached position: all but decision positions and lost points, and fire points,
which a release point takes along. -/
def Harmless (i : Item) : Prop :=
  (∀ slot, i ≠ .decisionPosition slot ∧ i ≠ .lostPoint slot) ∧ ∀ k n, i ≠ .firePoint k n

theorem dueRegister_congr {s t : State} (hr : t.belt.register = s.belt.register) (hd : t.belt.d = s.belt.d) :
    dueRegister t = dueRegister s := by rw [dueRegister, hr, hd]; rfl

/-- R3, R4: where only harmless positions are reached, the report of one leaves the others to be reported. -/
theorem reportPosition_harmless {i : Item} {s : State} (hi : Harmless i) (hs : ∀ r ∈ dueRegister s, Harmless r.item) :
    ∀ r ∈ dueRegister s, r.item ≠ i → r ∈ dueRegister (reportPosition i s) := by
  have hd := (reportPosition_lawful i s).d
  have same : (reportPosition i s).belt.register = s.belt.register →
      ∀ r ∈ dueRegister s, r.item ≠ i → r ∈ dueRegister (reportPosition i s) := fun h r hr _ => by
    rwa [dueRegister_congr h hd]
  cases i with
  | readerPosition slot => exact same (congrArg Belt.register (readerReached_still slot s).1)
  | decisionPosition slot => exact absurd rfl (hi.1 slot).1
  | jamPoint => exact same (jamReached_register s)
  | lostPoint slot => exact absurd rfl (hi.1 slot).2
  | claimEnd slot => exact same rfl
  | windowEnd source id => exact same (congrArg Belt.register (entryMissing_belt source id s))
  | firePoint k n => exact absurd rfl (hi.2 k n)
  | releasePoint k n =>
    intro r hr hne
    obtain ⟨hm, hp⟩ := mem_dueRegister.mp hr
    refine mem_dueRegister.mpr ⟨?_, hd ▸ hp⟩
    rw [reportPosition, releaseWindow, dropWindow_register]
    simp [withdraw, hm, hne, (hs r hr).2 k n]
  | passPosition k slot => exact same (congrArg Belt.register (passReached_belt k slot s))
  | stopPosition o => exact same (congrArg Belt.register (latchGate_belt o s))

/-! ## No report is left out -/

/-- R4: where no trailing edge is due and all that is reached is harmless and of different items, everything is reported or still
to be reported. -/
theorem Reports.complete {s t : State} {l : List Registration} (h : Reports s l t) :
    NoTrailing s → (∀ r ∈ dueRegister s, Harmless r.item) →
    (∀ x ∈ dueRegister s, ∀ y ∈ dueRegister s, x.item = y.item → x = y) →
    ∀ r ∈ dueRegister s, r ∈ l ∨ r ∈ dueRegister t := by
  induction h with
  | finish s => exact fun _ _ _ r hr => .inr hr
  | @report s t x l held here _ ih =>
    intro ht hh hinj r hr
    by_cases hx : r.item = x.item
    · exact .inl (hinj r hr x (mem_dueRegister.mpr ⟨held, here⟩) hx ▸ List.mem_cons_self)
    · have hsub : (dueRegister (reportPosition x.item (withdraw x.item s))).Sublist (dueRegister s) :=
        (deliver_due x s).trans List.filter_sublist
      have hw : ∀ y ∈ dueRegister (withdraw x.item s), y ∈ dueRegister s := fun y hy => by
        rw [dueRegister_withdraw] at hy
        exact List.filter_sublist.subset hy
      have hdue := reportPosition_harmless (s := withdraw x.item s) (hh x (mem_dueRegister.mpr ⟨held, here⟩))
        (fun y hy => hh y (hw y hy)) r (by rw [dueRegister_withdraw]; exact List.mem_filter.mpr ⟨hr, by simpa using hx⟩) hx
      refine (ih ?_ (fun y hy => hh y (hsub.subset hy))
        (fun y hy z hz => hinj y (hsub.subset hy) z (hsub.subset hz)) r hdue).imp_left (List.mem_cons_of_mem x)
      have hd := (reportPosition_lawful x.item (withdraw x.item s)).d
      rcases (reportPosition_eyes x.item (withdraw x.item s)).2 with he | he
      · rw [NoTrailing, he, hd]
        exact ht
      · exact noTrailing_of_none he
  | edge pending passed _ ih =>
    intro ht
    rw [NoTrailing, pending, Option.any_some, chatterPassed, decide_eq_false_iff_not] at ht
    exact absurd passed ht
  | choose _ ih => exact ih

/-! ## A count (R1) -/

/-- Log 40: the choice between an edge and a position of the same count, where the edge is the next command. -/
theorem chooseEdge_choice (s : State) : ∃ awaited choice,
    chooseEdge s = { s with belt := { s.belt with awaited := awaited }, serial := { s.serial with choice := choice } } ∧
      (awaited = s.belt.awaited ∨ ∃ e, awaited = some e ∧ EdgeWaits e s) := by
  unfold chooseEdge
  split
  · exact ⟨s.belt.awaited, s.serial.choice, rfl, .inl rfl⟩
  · rename_i e he
    split
    · exact ⟨s.belt.awaited, s.serial.choice + 1, rfl, .inl rfl⟩
    · refine ⟨some e, s.serial.choice + 1, rfl, .inr ⟨e, rfl, ?_⟩⟩
      unfold edgeBeside at he
      split at he
      · rename_i e' rest hp
        split at he
        · cases he; exact ⟨rest, hp⟩
        · cases he
      · cases he

/-- A sample that is no count, or in a node state that counts nothing, is kept and moves nothing. -/
theorem encoderSample_still (a b : Bool) {s : State}
    (h : quadrature s.lines.encA s.lines.encB a b = none ∨ acting s = false) :
    encoderSample a b s = { s with lines := { s.lines with encA := a, encB := b } } := by
  unfold encoderSample
  simp only
  rcases h with h | h
  · rw [h]
  · split
    · rfl
    · simp [h]

/-- R1, R4: what a count that reaches positions makes of the part. -/
theorem exec_count_reports {a b forward : Bool} {s : State} (h : CountComes a b forward s)
    (ht : ∀ e p, e ≠ .entry → (eyeOf s e).trailing = some p → posDiff (movedTo forward s) p < 20000) :
    ∃ l awaited choice v, exec (.encoderCount a b) s = .next (settle v) ∧
      AllReported { countTaken a b forward s with belt := { (countTaken a b forward s).belt with awaited := awaited },
                                                  serial := { (countTaken a b forward s).serial with choice := choice } } l v ∧
      (awaited = none ∨ ∃ e, awaited = some e ∧ EdgeWaits e s) := by
  obtain ⟨awaited, choice, hc, ha⟩ := chooseEdge_choice (countTaken a b forward s)
  rw [show (countTaken a b forward s).belt.awaited = none from h.ready.2.2.2] at ha
  obtain ⟨l, hl⟩ := reportReached_reports (chooseEdge (countTaken a b forward s))
  rw [hc] at hl
  exact ⟨l, awaited, choice, _, by rw [exec_count h ht, hc], hl, ha⟩

/-- R1: a count that reaches nothing does what it does beside its reports. -/
theorem exec_count_nothing {a b forward : Bool} {s : State} (h : CountComes a b forward s)
    (hr : ∀ y ∈ s.belt.register, reached (movedTo forward s) y.position = false)
    (ht : ∀ e p, (eyeOf s e).trailing = some p → posDiff (movedTo forward s) p < 20000) :
    exec (.encoderCount a b) s = .next (drivePins (countTaken a b forward s)) := by
  obtain ⟨hdue, hc⟩ := countTaken_reaches_nothing (a := a) (b := b) hr
  rw [exec_count h (fun e p _ => ht e p), hc, reportReached_nothing hdue (noTrailing_of_lt fun p => ht .entry p),
    settle_of_none (s := countTaken a b forward s) h.ready.2.1]

/-- R1: a count leaves the time, the commands, the Loader and the settings as they were, and moves D by S. -/
theorem exec_count_keeps {a b forward : Bool} {s : State} (h : CountComes a b forward s) :
    ∃ t, exec (.encoderCount a b) s = .next t ∧ Keeps (countMoved a b forward s) t := by
  have he : encoderSample a b s = beltCount forward { s with lines := { s.lines with encA := a, encB := b } } := by
    simp only [encoderSample, h.direction]
    exact if_pos h.applies
  have hk := ((beltCount_lawful forward { s with lines := { s.lines with encA := a, encB := b } }).trans (settle_lawful _)).keeps
  refine ⟨_, exec_ready (by simp) (by simp) h.ready.1, ?_⟩
  show Keeps _ (settle (encoderSample a b s))
  rw [he]
  have hd : (moveBelt (cfg s) forward s.belt).d = movedTo forward s := by unfold moveBelt movedTo; split <;> rfl
  exact ⟨hk.time, hk.inReset, hk.pending, hk.lines, hk.loader, hk.d.trans hd, hk.late, hk.epoch⟩

/-- Settles O21: a count moves D and makes its reports in order; where each of them withdraws nothing none is left out. -/
theorem encoderCountMovesTheBelt : Obligations.EncoderCountMovesTheBelt := by
  refine ⟨fun a b s h hq => ?_, fun a b forward s h ha hq hr ht => exec_count_nothing ⟨h, ha, hq⟩ hr ht,
    fun a b forward s h ht => ?_, fun a b forward s h ha hq => exec_count_keeps ⟨h, ha, hq⟩, by decide, by decide⟩
  · exact exec_calm (by simp) (by simp) h (encoderSample_still a b hq) h.2.1
  · intro d taken
    obtain ⟨l, awaited, choice, v, hn, hall, ha⟩ := exec_count_reports h ht
    have hd : v.belt.d = d := hall.lawful.d
    refine ⟨l, awaited, choice, v, hn, hall.reports, hall.order.mono List.filter_sublist,
      fun r hr => mem_dueRegister.mp (hall.due r hr), fun r hm hr => ?_, fun hedge htr hinj hplain r hm hr => ?_⟩
    · have hb := hall.rest r (mem_dueRegister.mpr ⟨hm, hd ▸ hr⟩)
      rw [heldBack, hall.awaited, Option.any_eq_true] at hb
      obtain ⟨e, he, hb⟩ := hb
      obtain ⟨hown, hpos⟩ := of_decide_eq_true hb
      have he : awaited = some e := he
      rcases ha with ha | ⟨e', ha, hw⟩
      · rw [ha] at he; cases he
      · rw [ha] at he; cases he
        exact ⟨_, ha, hw, hown, hpos.trans hd⟩
    · have hnone : awaited = none := ha.resolve_right fun ⟨e, _, hw⟩ => hedge e hw
      refine (hall.reports.complete (noTrailing_of_lt htr) (fun y hy => ?_) (fun x hx y hy hxy => ?_) r
        (mem_dueRegister.mpr ⟨hm, hr⟩)).resolve_right fun hv => ?_
      · obtain ⟨hy, hyr⟩ := mem_dueRegister.mp hy
        exact hplain y hy hyr
      · exact List.inj_on_of_nodup_map hinj (mem_dueRegister.mp hx).1 (mem_dueRegister.mp hy).1 hxy
      · have hb := hall.rest r hv
        rw [heldBack, hall.awaited, show _ = none from hnone] at hb
        cases hb

end Sys2Proof.Machine
end

section
/-! PROOFS. The end of a speed window (R5, R14, R99): v and the stall judgement, and the fire points of the unfired windows where no
gate stands. -/

namespace Sys2Proof.Machine

/-! ## Without gates the Flow Controller does nothing -/

/-- No gate stands. -/
def NoGates (s : State) : Prop := s.flow.gates = ⟨none, none, none, none⟩

theorem NoGates.gate {s : State} (h : NoGates s) (o : Outlet) : gateOf s o = none := by
  rw [gateOf, h]; cases o <;> rfl

theorem fireMoved_no_gates (k : Diverter) (n : Nat) {s : State} (h : NoGates s) : fireMoved k n s = s := by
  simp [fireMoved, h.gate]

theorem stoppersGone_no_gates (l : List Nat) (o : Outlet) {s : State} (h : NoGates s) : stoppersGone l o s = s := by
  simp [stoppersGone, h.gate]

theorem recomputeStops_no_gates {s : State} (h : NoGates s) : recomputeStops s = s := by
  have hs : ∀ o, recomputeStop o s = s := fun o => by simp [recomputeStop, h.gate]
  simp [recomputeStops, allOutlets, hs]

/-! ## What firing leaves -/

/-- An operation that changes the segment queue, the register and the windows alone. -/
def Fires (s t : State) : Prop := ∃ segment register windows, t = { s with
  tracker := { s.tracker with segment := segment }
  belt := { s.belt with register := register }
  divert := { s.divert with windows := windows } }

theorem Fires.refl (s : State) : Fires s s := ⟨_, _, _, rfl⟩

theorem Fires.trans {s t u : State} (h : Fires s t) (k : Fires t u) : Fires s u := by
  obtain ⟨_, _, _, rfl⟩ := h
  obtain ⟨_, _, _, rfl⟩ := k
  exact ⟨_, _, _, rfl⟩

theorem Fires.noGates {s t : State} (h : Fires s t) (k : NoGates s) : NoGates t := by obtain ⟨_, _, _, rfl⟩ := h; exact k

theorem Fires.diverterCfg {s t : State} (h : Fires s t) (k : Diverter) : diverterCfg t k = diverterCfg s k := by
  obtain ⟨_, _, _, rfl⟩ := h; rfl

theorem Fires.fireFor {s t : State} (h : Fires s t) (x : DiverterConfig) (p : Pos) : fireFor t x p = fireFor s x p := by
  obtain ⟨_, _, _, rfl⟩ := h; rfl

theorem Fires.d {s t : State} (h : Fires s t) : t.belt.d = s.belt.d := by obtain ⟨_, _, _, rfl⟩ := h; rfl

/-- The registrations of a window's fire point. -/
def fireRegs (s : State) (k : Diverter) (n : Nat) : List Registration :=
  s.belt.register.filter (fun r => decide (r.item = .firePoint k n))

/-- An operation that fires and leaves the windows and the fire points registered. -/
structure Passing (s t : State) : Prop where
  fires : Fires s t
  windows : t.divert.windows = s.divert.windows
  regs : ∀ k n, fireRegs t k n = fireRegs s k n

theorem Passing.refl (s : State) : Passing s s := ⟨.refl s, rfl, fun _ _ => rfl⟩

theorem Passing.trans {s t u : State} (h : Passing s t) (k : Passing t u) : Passing s u :=
  ⟨h.fires.trans k.fires, k.windows.trans h.windows, fun j n => (k.regs j n).trans (h.regs j n)⟩

theorem fireRegs_withdraw (i : Item) (s : State) (k : Diverter) (n : Nat) :
    fireRegs (withdraw i s) k n = if i = .firePoint k n then [] else fireRegs s k n := by
  simp only [fireRegs, withdraw, List.filter_filter]
  split
  · rename_i h
    subst h
    simp
  · rename_i h
    refine List.filter_congr fun r _ => ?_
    by_cases hr : r.item = .firePoint k n
    · simp [hr, Ne.symm h]
    · simp [hr]

theorem fireRegs_hold (i : Item) (p : Pos) (s : State) (k : Diverter) (n : Nat) :
    fireRegs (holdPosition i p s) k n = fireRegs s k n ++ if i = .firePoint k n then [⟨i, p⟩] else [] := by
  simp only [fireRegs, holdPosition, List.filter_append]
  by_cases h : i = .firePoint k n <;> simp [h]

theorem updateBag_passing (slot : Nat) (f : BagRecord → BagRecord) (s : State) : Passing s (updateBag slot f s) :=
  ⟨⟨_, _, _, rfl⟩, rfl, fun _ _ => rfl⟩

theorem passReached_passing (k : Diverter) (slot : Nat) (s : State) : Passing s (passReached k slot s) := by
  unfold passReached
  split
  · exact .refl s
  · exact updateBag_passing _ _ s

theorem withdraw_passing {i : Item} (h : ∀ k n, i ≠ .firePoint k n) (s : State) : Passing s (withdraw i s) :=
  ⟨⟨_, _, _, rfl⟩, rfl, fun k n => by rw [fireRegs_withdraw, if_neg (h k n)]⟩

theorem hold_passing {i : Item} (h : ∀ k n, i ≠ .firePoint k n) (p : Pos) (s : State) : Passing s (holdPosition i p s) :=
  ⟨⟨_, _, _, rfl⟩, rfl, fun k n => by rw [fireRegs_hold, if_neg (h k n), List.append_nil]⟩

/-- R110: a bag that fires registers its pass position, and no fire point. -/
theorem bagFires_passing (k : Diverter) (slot : Nat) (s : State) : Passing s (bagFires k slot s) := by
  have offered : ∀ p u, Passing u (offerPosition (.passPosition k slot) p (passReached k slot) u) := fun p u => by
    have hw : Passing u (withdraw (.passPosition k slot) u) := withdraw_passing (by simp) u
    unfold offerPosition
    split
    · exact hw.trans (passReached_passing _ _ _)
    · exact hw.trans (hold_passing (by simp) _ _)
  unfold bagFires
  split
  · exact Passing.trans (updateBag_passing _ _ s) (offered _ _)
  · exact .refl s

theorem bagFires_all_passing (k : Diverter) (l : List Nat) (s : State) :
    Passing s (l.foldl (fun acc slot => bagFires k slot acc) s) := by
  induction l generalizing s with
  | nil => exact .refl s
  | cons slot l ih => exact (bagFires_passing k slot s).trans (ih _)

/-! ## The windows by their numbers -/

/-- The numbers of a diverter's windows. -/
def windowNumbers (s : State) (k : Diverter) : List Nat := (windowList (windowsOf s k)).map Window.number

theorem windowsOf_updateWindow (k j : Diverter) (n : Nat) (f : Window → Window) (s : State) :
    windowList (windowsOf (updateWindow k n f s) j) =
      if j = k then (windowList (windowsOf s j)).map (fun w => if w.number = n then f w else w) else windowList (windowsOf s j) := by
  rw [← windowList_map]
  cases j <;> cases k <;> rfl

theorem windowNumbers_updateWindow (k j : Diverter) (n : Nat) (f : Window → Window) (s : State)
    (hf : ∀ w, (f w).number = w.number) : windowNumbers (updateWindow k n f s) j = windowNumbers s j := by
  rw [windowNumbers, windowsOf_updateWindow]
  split
  · rw [List.map_map]
    refine List.map_congr_left fun w _ => ?_
    simp only [Function.comp_apply]
    split
    · exact hf w
    · rfl
  · rfl

theorem windowNumbered_updateWindow (k j : Diverter) (n m : Nat) (f : Window → Window) (s : State)
    (hf : ∀ w, (f w).number = w.number) : windowNumbered (updateWindow k n f s) j m =
      if j = k ∧ m = n then (windowNumbered s j m).map f else windowNumbered s j m := by
  simp only [windowNumbered, windowsOf_updateWindow]
  by_cases hj : j = k
  · have hp : ((fun w : Window => decide (w.number = m)) ∘ fun w => if w.number = n then f w else w) =
        fun w => decide (w.number = m) := funext fun w => by
      simp only [Function.comp_apply]
      split
      · rw [hf w]
      · rfl
    rw [if_pos hj, List.find?_map, hp]
    cases hw : (windowList (windowsOf s j)).find? (fun w => decide (w.number = m)) with
    | none => simp
    | some w =>
      have hm : w.number = m := by simpa using List.find?_some hw
      by_cases hn : m = n <;> simp [hj, hm, hn]
  · simp [hj]

theorem windowNumbered_of_mem {s : State} {k : Diverter} (h : (windowNumbers s k).Nodup) {w : Window}
    (hw : w ∈ windowList (windowsOf s k)) : windowNumbered s k w.number = some w := by
  cases hv : windowNumbered s k w.number with
  | none => simpa using List.find?_eq_none.1 hv w hw
  | some v =>
    have hn : v.number = w.number := by simpa using List.find?_some hv
    rw [List.inj_on_of_nodup_map h (List.mem_of_find?_eq_some hv) hw hn]

theorem Passing.windowNumbered {s t : State} (h : Passing s t) (k : Diverter) (n : Nat) :
    windowNumbered t k n = windowNumbered s k n := by
  simp only [Machine.windowNumbered, windowsOf, h.windows]

theorem Passing.windowNumbers {s t : State} (h : Passing s t) (k : Diverter) : windowNumbers t k = windowNumbers s k := by
  simp only [Machine.windowNumbers, windowsOf, h.windows]

/-! ## The fire points computed afresh (R99) -/

/-- R99: a window with its fire point computed afresh: one already reached fires it. -/
def refired (s : State) (x : DiverterConfig) (w : Window) : Window :=
  match w.fired, w.bags.head? with
  | false, some h => { w with fire := fireFor s x h.entry, fired := reached s.belt.d (fireFor s x h.entry) }
  | _, _ => w

theorem refired_of_fired {s : State} {x : DiverterConfig} {w : Window} (h : w.fired = true) : refired s x w = w := by
  simp [refired, h]

theorem refired_of_head {s : State} {x : DiverterConfig} {w : Window} {b : WindowBag} (h : w.fired = false)
    (hb : w.bags.head? = some b) :
    refired s x w = { w with fire := fireFor s x b.entry, fired := reached s.belt.d (fireFor s x b.entry) } := by
  simp [refired, h, hb]

theorem Fires.refired {s t : State} (h : Fires s t) (x : DiverterConfig) (w : Window) : refired t x w = refired s x w := by
  obtain ⟨_, _, _, rfl⟩ := h; rfl

/-- A window as R99 leaves it: computed afresh, its fire point held in the register unless it is reached. -/
def Afresh (s t : State) (k : Diverter) (n : Nat) : Prop :=
  ∀ x w, diverterCfg s k = some x → windowNumbered s k n = some w → windowNumbered t k n = some (refired s x w) ∧
    (w.fired = false → ∀ b, w.bags.head? = some b →
      fireRegs t k n = if reached s.belt.d (fireFor s x b.entry) then [] else [⟨.firePoint k n, fireFor s x b.entry⟩])

/-- An operation that computes the fire points of the windows in `p` afresh and leaves the others. -/
structure Refires (p : Diverter → Nat → Prop) (s t : State) : Prop where
  fires : Fires s t
  numbers : ∀ k, windowNumbers t k = windowNumbers s k
  others : ∀ k n, ¬ p k n → windowNumbered t k n = windowNumbered s k n ∧ fireRegs t k n = fireRegs s k n
  afresh : ∀ k n, p k n → Afresh s t k n

theorem Refires.refl {p : Diverter → Nat → Prop} {s : State} (h : ∀ k n, p k n → Afresh s s k n) : Refires p s s :=
  ⟨.refl s, fun _ => rfl, fun _ _ _ => ⟨rfl, rfl⟩, h⟩

theorem Refires.trans {p q : Diverter → Nat → Prop} {s t u : State} (h : Refires p s t) (j : Refires q t u)
    (apart : ∀ k n, p k n → ¬ q k n) : Refires (fun k n => p k n ∨ q k n) s u where
  fires := h.fires.trans j.fires
  numbers k := (j.numbers k).trans (h.numbers k)
  others k n hn := by
    obtain ⟨hp, hq⟩ := not_or.1 hn
    rw [(j.others k n hq).1, (j.others k n hq).2]
    exact h.others k n hp
  afresh k n hn x w hx hw := by
    rcases hn with hp | hq
    · rw [(j.others k n (apart k n hp)).1, (j.others k n (apart k n hp)).2]
      exact h.afresh k n hp x w hx hw
    · have hp : ¬ p k n := fun hp => apart k n hp hq
      have ha := j.afresh k n hq x w (by rw [h.fires.diverterCfg, hx]) (by rw [(h.others k n hp).1, hw])
      simpa only [h.fires.refired, h.fires.fireFor, h.fires.d] using ha

theorem Refires.of_iff {p q : Diverter → Nat → Prop} {s t : State} (h : Refires p s t) (hpq : ∀ k n, p k n ↔ q k n) :
    Refires q s t := by
  have : p = q := funext fun k => funext fun n => propext (hpq k n)
  exact this ▸ h

theorem updateWindow_fires (k : Diverter) (n : Nat) (f : Window → Window) (s : State) : Fires s (updateWindow k n f s) :=
  ⟨_, _, _, rfl⟩

theorem fireRegs_updateWindow (k j : Diverter) (n m : Nat) (f : Window → Window) (s : State) :
    fireRegs (updateWindow k n f s) j m = fireRegs s j m := rfl

/-- R110: an unfired window that fires, where no gate stands. -/
theorem fireWindow_eq {k : Diverter} {n : Nat} {s : State} {w : Window} (hg : NoGates s) (hw : windowNumbered s k n = some w)
    (hf : w.fired = false) : fireWindow k n s =
      (liveSlots w).foldl (fun acc slot => bagFires k slot acc) (updateWindow k n (fun y => { y with fired := true }) s) := by
  have hp := bagFires_all_passing k (liveSlots w) (updateWindow k n (fun y => { y with fired := true }) s)
  simp only [fireWindow, hw, hf, Bool.false_eq_true, if_false]
  exact stoppersGone_no_gates _ _ (hp.fires.noGates hg)

/-- What an operation that computes one unfired window afresh has to do. -/
theorem Refires.of_window {k : Diverter} {n : Nat} {s t : State} {x : DiverterConfig} {w : Window} {b : WindowBag}
    (hx : diverterCfg s k = some x) (hw : windowNumbered s k n = some w) (hb : w.bags.head? = some b) (fires : Fires s t)
    (numbers : ∀ j, windowNumbers t j = windowNumbers s j)
    (windows : ∀ j m, windowNumbered t j m = if j = k ∧ m = n then some (Machine.refired s x w) else windowNumbered s j m)
    (regs : ∀ j m, fireRegs t j m = if j = k ∧ m = n then
      (if reached s.belt.d (fireFor s x b.entry) then [] else [⟨.firePoint k n, fireFor s x b.entry⟩]) else fireRegs s j m) :
    Refires (fun j m => j = k ∧ m = n) s t where
  fires := fires
  numbers := numbers
  others j m hn := by rw [windows, regs, if_neg hn, if_neg hn]; exact ⟨rfl, rfl⟩
  afresh := by
    rintro j m ⟨rfl, rfl⟩ y v hy hv
    obtain rfl : x = y := Option.some.inj (hx.symm.trans hy)
    obtain rfl : w = v := Option.some.inj (hw.symm.trans hv)
    refine ⟨by rw [windows, if_pos ⟨rfl, rfl⟩], fun _ c hc => ?_⟩
    obtain rfl : b = c := Option.some.inj (hb.symm.trans hc)
    rw [regs, if_pos ⟨rfl, rfl⟩]

/-- An unfired window with its fire point, no earlier one registered. -/
def aimed (k : Diverter) (n : Nat) (p : Pos) (s : State) : State :=
  withdraw (.firePoint k n) (updateWindow k n (fun y => { y with fire := p }) s)

theorem aimed_fires (k : Diverter) (n : Nat) (p : Pos) (s : State) : Fires s (aimed k n p s) := ⟨_, _, _, rfl⟩

theorem windowNumbers_aimed (k j : Diverter) (n : Nat) (p : Pos) (s : State) :
    windowNumbers (aimed k n p s) j = windowNumbers s j :=
  windowNumbers_updateWindow k j n _ s (by exact fun _ => rfl)

theorem windowNumbered_aimed (k j : Diverter) (n m : Nat) (p : Pos) (s : State) : windowNumbered (aimed k n p s) j m =
    if j = k ∧ m = n then (windowNumbered s j m).map (fun y => { y with fire := p }) else windowNumbered s j m :=
  windowNumbered_updateWindow k j n m _ s (by exact fun _ => rfl)

theorem fireRegs_aimed (k j : Diverter) (n m : Nat) (p : Pos) (s : State) :
    fireRegs (aimed k n p s) j m = if j = k ∧ m = n then [] else fireRegs s j m := by
  have h : fireRegs (updateWindow k n (fun y => { y with fire := p }) s) j m = fireRegs s j m := rfl
  simp only [aimed, fireRegs_withdraw, Item.firePoint.injEq, eq_comm, h]

section setFire
variable {k : Diverter} {n : Nat} {s : State} {x : DiverterConfig} {w : Window} {b : WindowBag}

/-- R99: a fire point ahead of D is registered. -/
theorem holdPosition_refires (hx : diverterCfg s k = some x) (hw : windowNumbered s k n = some w) (hf : w.fired = false)
    (hb : w.bags.head? = some b) (hd : reached s.belt.d (fireFor s x b.entry) = false) :
    Refires (fun j m => j = k ∧ m = n) s
      (holdPosition (.firePoint k n) (fireFor s x b.entry) (aimed k n (fireFor s x b.entry) s)) := by
  refine .of_window hx hw hb ((aimed_fires ..).trans ⟨_, _, _, rfl⟩) (windowNumbers_aimed k · n _ s)
    (fun j m => ?_) (fun j m => ?_)
  · refine (windowNumbered_aimed k j n m _ s).trans (ite_congr rfl ?_ fun _ => rfl)
    rintro ⟨rfl, rfl⟩
    rw [hw, refired_of_head hf hb, hd, ← hf]; rfl
  · rw [fireRegs_hold, fireRegs_aimed, hd, if_neg Bool.false_ne_true]
    by_cases h : j = k ∧ m = n
    · obtain ⟨rfl, rfl⟩ := h
      simp
    · have h' : ¬ (k = j ∧ n = m) := fun e => h ⟨e.1.symm, e.2.symm⟩
      simp [h, h']

/-- R99, R110: a fire point already reached fires the window. -/
theorem fireWindow_refires (hg : NoGates s) (hx : diverterCfg s k = some x) (hw : windowNumbered s k n = some w)
    (hf : w.fired = false) (hb : w.bags.head? = some b) (hd : reached s.belt.d (fireFor s x b.entry) = true) :
    Refires (fun j m => j = k ∧ m = n) s (fireWindow k n (aimed k n (fireFor s x b.entry) s)) := by
  have ha := aimed_fires k n (fireFor s x b.entry) s
  have hu : windowNumbered (aimed k n (fireFor s x b.entry) s) k n = some { w with fire := fireFor s x b.entry } := by
    rw [windowNumbered_aimed, if_pos ⟨rfl, rfl⟩, hw]; rfl
  have hp := bagFires_all_passing k (liveSlots { w with fire := fireFor s x b.entry })
    (updateWindow k n (fun y => { y with fired := true }) (aimed k n (fireFor s x b.entry) s))
  rw [fireWindow_eq (ha.noGates hg) hu hf]
  refine .of_window hx hw hb ((ha.trans (updateWindow_fires ..)).trans hp.fires) (fun j => ?_) (fun j m => ?_) (fun j m => ?_)
  · rw [hp.windowNumbers, windowNumbers_updateWindow _ _ _ _ _ (by exact fun _ => rfl), windowNumbers_aimed]
  · rw [hp.windowNumbered, windowNumbered_updateWindow _ _ _ _ _ _ (by exact fun _ => rfl), windowNumbered_aimed]
    refine if_ctx_congr Iff.rfl ?_ (fun h => if_neg h)
    rintro ⟨rfl, rfl⟩
    rw [if_pos ⟨rfl, rfl⟩, hw, refired_of_head hf hb, hd]; rfl
  · rw [hp.regs, fireRegs_updateWindow, fireRegs_aimed, hd, if_pos rfl]

/-- R99: the fire point of one window; where no gate stands nothing follows it (R147). -/
theorem setFire_refires (k : Diverter) (n : Nat) {s : State} (hg : NoGates s) :
    Refires (fun j m => j = k ∧ m = n) s (setFire k n s) := by
  unfold setFire
  split
  · rename_i x w hx hw
    split
    · rename_i b hf hb
      have hr : ∀ u, Refires (fun j m => j = k ∧ m = n) s u → Refires (fun j m => j = k ∧ m = n) s (fireMoved k n u) :=
        fun u hu => (fireMoved_no_gates k n (hu.fires.noGates hg)).symm ▸ hu
      refine hr _ ?_
      rw [offerPosition]
      split
      · exact fireWindow_refires hg hx hw hf hb (by assumption)
      · exact holdPosition_refires hx hw hf hb (Bool.eq_false_iff.2 (by assumption))
    · rename_i hn
      refine .refl ?_
      rintro j m ⟨rfl, rfl⟩ y v - hv
      obtain rfl : w = v := Option.some.inj (hw.symm.trans hv)
      have hr : refired s y w = w := by
        unfold refired
        split
        · rename_i b hf hb; exact absurd hb (hn b hf)
        · rfl
      exact ⟨by rw [hr, hw], fun hf b hb => absurd hb (hn b hf)⟩
  · rename_i hn
    refine .refl ?_
    rintro j m ⟨rfl, rfl⟩ y v hy hv
    exact absurd hv (hn y v hy)

end setFire

/-! ## All the windows -/

theorem setFires_refires (k : Diverter) : ∀ (l : List Nat) {s : State}, NoGates s → l.Nodup →
    Refires (fun j m => j = k ∧ m ∈ l) s (l.foldl (fun a n => setFire k n a) s)
  | [], s, _, _ => .refl (fun _ _ h => absurd h.2 List.not_mem_nil)
  | n :: l, s, hg, hl => by
    have hn := setFire_refires k n hg
    obtain ⟨hnl, hl⟩ := List.nodup_cons.1 hl
    refine (hn.trans (setFires_refires k l (hn.fires.noGates hg) hl) ?_).of_iff ?_
    · rintro j m ⟨-, rfl⟩ ⟨-, hm⟩
      exact hnl hm
    · intro j m
      rw [List.mem_cons, and_or_left]

theorem diverters_refire : ∀ (ks : List Diverter) {s : State}, NoGates s → (∀ k, (windowNumbers s k).Nodup) → ks.Nodup →
    Refires (fun j m => j ∈ ks ∧ m ∈ windowNumbers s j) s
      (ks.foldl (fun acc k => ((windowList (windowsOf acc k)).map Window.number).foldl (fun a n => setFire k n a) acc) s)
  | [], s, _, _, _ => .refl (fun _ _ h => absurd h.1 List.not_mem_nil)
  | k :: ks, s, hg, hw, hk => by
    have hn := setFires_refires k _ hg (hw k)
    obtain ⟨hkl, hk⟩ := List.nodup_cons.1 hk
    refine (hn.trans (diverters_refire ks (hn.fires.noGates hg) (fun j => by rw [hn.numbers]; exact hw j) hk) ?_).of_iff ?_
    · rintro j m ⟨rfl, -⟩ ⟨hj, -⟩
      exact hkl hj
    · intro j m
      rw [hn.numbers, List.mem_cons]
      constructor
      · rintro (⟨rfl, hm⟩ | ⟨hj, hm⟩)
        · exact ⟨.inl rfl, hm⟩
        · exact ⟨.inr hj, hm⟩
      · rintro ⟨rfl | hj, hm⟩
        · exact .inl ⟨rfl, hm⟩
        · exact .inr ⟨hj, hm⟩

/-- R99: every window computed afresh. -/
theorem recomputeFires_refires {s : State} (hg : NoGates s) (hw : ∀ k, (windowNumbers s k).Nodup) :
    Refires (fun j m => m ∈ windowNumbers s j) s (recomputeFires s) :=
  (diverters_refire allDiverters hg hw (by decide)).of_iff (fun j m => by cases j <;> simp [allDiverters])

/-! ## The speed measured (R5, R14) -/

/-- R5: the belt at the end of a speed window. -/
def measured (s : State) : State :=
  onDrive (judgeStall (cfg s) (endWindow (cfg s) s.belt).v) (onBeltUnit (endWindow (cfg s)) s)

theorem endWindow_eq (c : JunctionConfig) (b : Belt) : endWindow c b =
    { b with n := 0, v := min 4000 (b.n.toNat * c.scale / 10),
             overspeed := if 4000 < b.n.toNat * c.scale / 10 then min 65535 (b.overspeed + 1) else b.overspeed } := by
  by_cases h : 4000 < b.n.toNat * c.scale / 10
  · refine (if_pos h).trans ?_
    rw [if_pos h, min_eq_left h.le]
    rfl
  · refine (if_neg h).trans ?_
    rw [if_neg h, min_eq_right (Nat.le_of_not_lt h)]
    rfl

theorem judgeStall_eq (c : JunctionConfig) (v : Nat) (d : Drive) : judgeStall c v d = { d with stall :=
    if d.state = .run then
      (if v < c.rRun * c.vMax / 1000 / 2 then min 200 (d.stall + 1) else if d.stall < 200 then 0 else d.stall)
    else d.stall } := by
  unfold judgeStall
  split
  · rename_i h
    simp only [h, if_true, stallThreshold, leftRun, Config.stallWindows]
    split <;> rfl
  all_goals
    rename_i h
    rw [if_neg (by simp [h])]

theorem speedWindow_eq (s : State) : speedWindow s = recomputeStops (recomputeFires (measured s)) := rfl

theorem speedWindowEnd_effect (s : State) : effect .speedWindowEnd s = speedWindow s := rfl

theorem recomputeFires_no_windows {s : State} (h : s.divert.windows = ⟨{}, {}, {}⟩) : recomputeFires s = s := by
  simp [recomputeFires, allDiverters, windowsOf, h, PerDiverter.get, windowList]

theorem isHeld_of_fireRegs {k : Diverter} {n : Nat} {s : State} {l : List Registration} (h : fireRegs s k n = l) :
    isHeld (.firePoint k n) s = !l.isEmpty := by
  rw [← h, isHeld, fireRegs, Bool.eq_iff_iff]
  simp [List.filter_eq_nil_iff]

theorem isHeld_drivePins (i : Item) (s : State) : isHeld i (drivePins s) = isHeld i s := rfl

theorem measured_eq {s : State} {b : Belt} (h : endWindow (cfg s) s.belt = b) :
    measured s = { s with belt := b, drive := judgeStall (cfg s) b.v s.drive } := by
  subst h; rfl

theorem judgeStall_state (c : JunctionConfig) (v : Nat) (d : Drive) : (judgeStall c v d).state = d.state := by
  rw [judgeStall_eq]

theorem fireFor_measured {s : State} {b : Belt} (h : endWindow (cfg s) s.belt = b) (x : DiverterConfig) (p : Pos) :
    fireFor (measured s) x p = p + mm x.position - um (leadOf { s with belt := b } x) := by
  rw [measured_eq h, fireFor, leadOf, leadOf, judgeStall_state]
  rfl

/-- R14: STALL's count is no part of what a `steady` state keeps. -/
theorem steady_measured {s : State} {b : Belt} (h : endWindow (cfg s) s.belt = b) :
    steady (measured s) = steady { s with belt := b } := by
  rw [measured_eq h]
  simp only [steady, judgeStall_reasons]

/-- Settles O22: the windows are computed afresh one by one, and each computation touches its own window and fire point. -/
theorem speedWindowEndMeasuresSpeed : Obligations.SpeedWindowEndMeasuresSpeed := by
  intro s h raw belt
  have hbelt : endWindow (cfg s) s.belt = belt := endWindow_eq _ _
  refine ⟨⟨_, exec_ready (by simp) (by simp) h.1, ?_⟩, fun hw hg => ?_, fun hw hg => ?_⟩
  · rw [speedWindowEnd_effect, speedWindow_eq, (settle_calm _).steady, (recomputeStops_calm _).steady,
      (recomputeFires_calm _).steady, steady_measured hbelt]
  · refine exec_calm (by simp) (by simp) h ?_ h.2.1
    rw [speedWindowEnd_effect, speedWindow_eq, recomputeFires_no_windows (s := measured s) hw,
      recomputeStops_no_gates (s := measured s) hg, measured_eq hbelt,
      judgeStall_eq]
  · have hn : ∀ k, (windowNumbers (measured s) k).Nodup := fun k => (hw k).distinct
    have hg : NoGates (measured s) := hg
    have hr := recomputeFires_refires hg hn
    have hu : effect .speedWindowEnd s = recomputeFires (measured s) := by
      rw [speedWindowEnd_effect, speedWindow_eq, recomputeStops_no_gates (hr.fires.noGates hg)]
    have ho : (recomputeFires (measured s)).owed = [] := by
      obtain ⟨_, _, _, hf⟩ := hr.fires
      rw [hf]; exact h.2.1
    have hd : (measured s).belt.d = s.belt.d := by rw [measured_eq hbelt]
    refine ⟨_, exec_calm (by simp) (by simp) h hu ho, hr.fires.d.trans hd, ?_, ?_,
      fun k x hx => ⟨hr.numbers k, fun w hwk => ?_⟩⟩
    · obtain ⟨_, _, _, hf⟩ := hr.fires
      rw [hf]; rfl
    · obtain ⟨_, _, _, hf⟩ := hr.fires
      rw [hf]; rfl
    · have hv := windowNumbered_of_mem (hn k) hwk
      obtain ⟨ha, hregs⟩ := hr.afresh k w.number (List.mem_map_of_mem hwk) x w hx hv
      have hm := List.mem_of_find?_eq_some ha
      refine ⟨fun hf => by rwa [refired_of_fired hf] at hm, fun hf b l hb => ?_⟩
      have hb : w.bags.head? = some b := by rw [hb]; rfl
      rw [refired_of_head hf hb] at hm
      have hregs := hregs hf b hb
      rw [fireFor_measured hbelt, hd] at hm hregs
      refine ⟨fun hp => ?_, fun hp => ?_⟩
      · rw [hp] at hm
        rw [hp, if_neg Bool.false_ne_true] at hregs
        refine ⟨hf ▸ hm, by rw [isHeld_drivePins, isHeld_of_fireRegs hregs]; rfl, fun r hr hi => ?_⟩
        have hmem : r ∈ fireRegs (recomputeFires (measured s)) k w.number := List.mem_filter.2 ⟨hr, decide_eq_true hi⟩
        rw [hregs, List.mem_singleton] at hmem
        rw [hmem]
      · rw [hp] at hm
        rw [hp, if_pos rfl] at hregs
        exact ⟨hm, by rw [isHeld_drivePins, isHeld_of_fireRegs hregs]; rfl⟩

end Sys2Proof.Machine
end

section
/-! PROOFS. What every operation but a few leaves of the ends of an event: one relation, `Quiet`, for the operations that deliver no
report of an unsent frame, leave the wait for an edge and withdraw no jam point; and `Tidy`, without the jam point. -/

namespace Sys2Proof.Machine

/-! ## The relations -/

/-- An operation that leaves no report to deliver where there was none (R177) and the wait for an edge as it was (log 40). -/
structure Tidy (s t : State) : Prop where
  due : s.bus.due = [] → t.bus.due = []
  awaited : t.belt.awaited = s.belt.awaited

/-- A tidy operation that withdraws no jam point (R27). -/
structure Quiet (s t : State) : Prop extends Tidy s t where
  jam : ∀ p, (⟨.jamPoint, p⟩ : Registration) ∈ s.belt.register → ⟨.jamPoint, p⟩ ∈ t.belt.register

section
variable {s t u : State}

theorem Tidy.refl (s : State) : Tidy s s := ⟨id, rfl⟩

theorem Tidy.trans (h : Tidy s t) (k : Tidy t u) : Tidy s u := ⟨k.due ∘ h.due, k.awaited.trans h.awaited⟩

theorem Tidy.ite {p : Prop} [Decidable p] (ht : Tidy s t) (hu : Tidy s u) : Tidy s (if p then t else u) := by
  split
  · exact ht
  · exact hu

theorem Tidy.foldl {α : Type} {f : State → α → State} (h : ∀ a x, Tidy a (f a x)) (l : List α) (s : State) :
    Tidy s (l.foldl f s) := by
  induction l generalizing s with
  | nil => exact .refl s
  | cons x l ih => exact (h s x).trans (ih _)

theorem Tidy.beside (h : (t.belt.awaited, t.bus.due) = (s.belt.awaited, s.bus.due)) : Tidy s t := by
  obtain ⟨ha, hd⟩ := Prod.mk.inj h
  exact ⟨hd.trans, ha⟩

namespace Quiet

theorem refl (s : State) : Quiet s s := ⟨.refl s, fun _ => id⟩

theorem trans (h : Quiet s t) (k : Quiet t u) : Quiet s u := ⟨h.toTidy.trans k.toTidy, fun p hp => k.jam p (h.jam p hp)⟩

theorem ite {p : Prop} [Decidable p] (ht : Quiet s t) (hu : Quiet s u) : Quiet s (if p then t else u) := by
  split
  · exact ht
  · exact hu

/-- A quiet operation that may be followed by another. -/
theorem iteElse {p : Prop} [Decidable p] (h : Quiet s t) (k : Quiet t u) : Quiet s (if p then t else u) := .ite h (h.trans k)

theorem iteThen {p : Prop} [Decidable p] (h : Quiet s t) (k : Quiet t u) : Quiet s (if p then u else t) := .ite (h.trans k) h

theorem foldl {α : Type} {f : State → α → State} (h : ∀ a x, Quiet a (f a x)) (l : List α) (s : State) :
    Quiet s (l.foldl f s) := by
  induction l generalizing s with
  | nil => exact .refl s
  | cons x l ih => exact (h s x).trans (ih _)

/-- A change beside the Belt Distance Unit and the reports to deliver. -/
theorem beside (h : (t.belt, t.bus.due) = (s.belt, s.bus.due)) : Quiet s t := by
  obtain ⟨hb, hd⟩ := Prod.mk.inj h
  exact ⟨⟨hd.trans, by rw [hb]⟩, fun _ => by rw [hb]; exact id⟩

/-- A change of the Belt Distance Unit beside the register and the wait. -/
theorem belt (h : (t.belt.register, t.belt.awaited, t.bus.due) = (s.belt.register, s.belt.awaited, s.bus.due)) : Quiet s t := by
  obtain ⟨hr, ha, hd⟩ := by simpa only [Prod.mk.injEq] using h
  exact ⟨⟨hd.trans, ha⟩, fun _ => by rw [hr]; exact id⟩

/-- A quiet operation after a change beside the Belt Distance Unit and the reports to deliver. -/
theorem after (h : Quiet t u) (k : (t.belt, t.bus.due) = (s.belt, s.bus.due)) : Quiet s u := (beside k).trans h

end Quiet

theorem Sends.quiet (h : Sends s t) : Quiet s t := ⟨⟨h.due, by rw [h.belt]⟩, fun _ => by rw [h.belt]; exact id⟩

end

/-! ## The register and the records -/

theorem withdraw_quiet (i : Item) (s : State) (h : i ≠ .jamPoint) : Quiet s (withdraw i s) :=
  ⟨Tidy.beside (by rfl), fun _ hp => List.mem_filter.2 ⟨hp, decide_eq_true h.symm⟩⟩

theorem withdraw_tidy (i : Item) (s : State) : Tidy s (withdraw i s) := .beside (by rfl)

theorem holdPosition_quiet (i : Item) (p : Pos) (s : State) : Quiet s (holdPosition i p s) :=
  ⟨.beside (by rfl), fun _ hp => List.mem_append_left _ hp⟩

theorem offerPosition_quiet (i : Item) (p : Pos) {report : State → State} (s : State) (h : ∀ t, Quiet t (report t))
    (hi : i ≠ .jamPoint) : Quiet s (offerPosition i p report s) :=
  .ite ((withdraw_quiet i s hi).trans (h _)) ((withdraw_quiet i s hi).trans (holdPosition_quiet i p _))

theorem setStatus_quiet (l : Live) (st : RouteStatus) (s : State) : Quiet s (setStatus l st s) := by
  cases l <;> exact .beside (by rfl)

/-! ## The Flow Controller -/

theorem putReason_quiet (x : StopReason) (b : Bool) (s : State) : Quiet s (putReason x b s) := .beside (by rfl)

theorem syncStops_quiet (s : State) : Quiet s (syncStops s) := by
  unfold syncStops
  simp only
  exact .trans (.ite (putReason_quiet _ _ s) (.refl s)) (.trans (.ite (putReason_quiet _ _ _) (.refl _))
    (.trans (.ite (.refl _) (putReason_quiet _ _ _)) (.ite (.refl _) (putReason_quiet _ _ _))))

theorem handReach_quiet (r : DestSet) (s : State) : Quiet s (handReach r s) := by
  unfold handReach
  simp only
  split
  · exact (toSources_sends _ _).quiet.after (by rfl)
  · exact .beside (by rfl)

theorem passOverrun_quiet (o : Outlet) (slot : Nat) (s : State) : Quiet s (passOverrun o slot s) :=
  (countEvent_sends _ _).quiet.after (by rfl)

theorem takeUp_quiet (o : Outlet) (g : Gate) (l : List BagRecord) (s : State) : Quiet s (takeUp o g l s) := by
  induction l generalizing s with
  | nil => exact (withdraw_quiet (.stopPosition o) s (by simp)).trans (.beside (by rfl))
  | cons b rest ih =>
    unfold takeUp
    split
    · split
      · exact ih s
      · split
        · exact .refl s
        · exact .ite ((passOverrun_quiet _ _ s).trans (ih _))
            ((withdraw_quiet (.stopPosition o) s (by simp)).trans ((holdPosition_quiet _ _ _).trans (.beside (by rfl))))
    · exact ih s

theorem determineStop_quiet (o : Outlet) (s : State) : Quiet s (determineStop o s) := by
  unfold determineStop; split
  · exact .refl s
  · exact (takeUp_quiet _ _ _ s).trans (syncStops_quiet _)

theorem refreshGate_quiet (o : Outlet) (s : State) : Quiet s (refreshGate o s) := by
  unfold refreshGate; split
  · exact .iteThen (.refl s) (.trans (.beside (by rfl)) (determineStop_quiet _ _))
  · split
    · exact syncStops_quiet s
    · exact (withdraw_quiet (.stopPosition o) s (by simp)).trans (.trans (.beside (by rfl)) (syncStops_quiet _))

theorem refreshGates_quiet (s : State) : Quiet s (refreshGates s) := .foldl (fun a o => refreshGate_quiet o a) _ s

theorem latchGate_quiet (o : Outlet) (s : State) : Quiet s (latchGate o s) := by
  unfold latchGate; split
  · exact .refl s
  · exact .ite (.trans (.beside (by rfl)) (syncStops_quiet _)) (.refl s)

theorem recomputeStop_quiet (o : Outlet) (s : State) : Quiet s (recomputeStop o s) := by
  unfold recomputeStop
  repeat' split
  any_goals exact .refl s
  exact .trans (.beside (by rfl)) (offerPosition_quiet _ _ _ (latchGate_quiet o) (by simp))

theorem recomputeStops_quiet (s : State) : Quiet s (recomputeStops s) := .foldl (fun a o => recomputeStop_quiet o a) _ s

theorem fireMoved_quiet (k : Diverter) (w : Nat) (s : State) : Quiet s (fireMoved k w s) := by
  unfold fireMoved
  simp only
  repeat' split
  any_goals exact .refl s
  exact recomputeStop_quiet _ s

theorem stoppersGone_quiet (l : List Nat) (o : Outlet) (s : State) : Quiet s (stoppersGone l o s) := by
  unfold stoppersGone; split
  · exact .refl s
  · exact .ite (determineStop_quiet _ s) (.refl s)

theorem handChosen_quiet (slot : Nat) (s : State) : Quiet s (handChosen slot s) := by
  unfold handChosen; split
  · exact .refl s
  · rename_i b _
    have gone : Quiet s (allOutlets.foldl (fun acc o => if b.chosen = some o then acc else stoppersGone [slot] o acc) s) :=
      .foldl (fun a o => .ite (.refl a) (stoppersGone_quiet _ _ a)) _ s
    simp only
    split
    · exact gone
    · exact gone.trans (determineStop_quiet _ _)

theorem stopperLeft_quiet (slot : Nat) (s : State) : Quiet s (stopperLeft slot s) :=
  .foldl (fun a o => stoppersGone_quiet _ o a) _ s

theorem putOccupancy_quiet (n : Nat) (s : State) : Quiet s (putOccupancy n s) := (followHold_sends _).quiet.after (by rfl)

/-! ## The Divert Scheduler -/

theorem updateWindow_quiet (k : Diverter) (n : Nat) (f : Window → Window) (s : State) : Quiet s (updateWindow k n f s) :=
  .beside (by rfl)

theorem dropWindow_quiet (k : Diverter) (n : Nat) (s : State) : Quiet s (dropWindow k n s) := by
  have h : Quiet s (withdraw (.firePoint k n) (withdraw (.releasePoint k n) s)) :=
    (withdraw_quiet _ s (by simp)).trans (withdraw_quiet _ _ (by simp))
  exact .ite (h.trans (.beside (by rfl))) (.ite (h.trans (.beside (by rfl))) h)

theorem passReached_quiet (k : Diverter) (slot : Nat) (s : State) : Quiet s (passReached k slot s) := by
  unfold passReached; split
  · exact .refl s
  · exact .beside (by rfl)

theorem bagFires_quiet (k : Diverter) (slot : Nat) (s : State) : Quiet s (bagFires k slot s) := by
  unfold bagFires; split
  · exact (offerPosition_quiet _ _ _ (passReached_quiet k slot) (by simp)).after (by rfl)
  · exact .refl s

theorem fireWindow_quiet (k : Diverter) (n : Nat) (s : State) : Quiet s (fireWindow k n s) := by
  unfold fireWindow; split
  · exact .refl s
  · exact .ite (.refl s) ((updateWindow_quiet _ _ _ s).trans
      (Quiet.trans (.foldl (fun a slot => bagFires_quiet k slot a) _ _) (stoppersGone_quiet _ _ _)))

theorem releaseWindow_quiet (k : Diverter) (n : Nat) (s : State) : Quiet s (releaseWindow k n s) := dropWindow_quiet k n s

theorem setFire_quiet (k : Diverter) (n : Nat) (s : State) : Quiet s (setFire k n s) := by
  unfold setFire; split
  · split
    · exact (updateWindow_quiet _ _ _ s).trans
        ((offerPosition_quiet _ _ _ (fireWindow_quiet k n) (by simp)).trans (fireMoved_quiet _ _ _))
    · exact .refl s
  · exact .refl s

theorem setRelease_quiet (k : Diverter) (n : Nat) (s : State) : Quiet s (setRelease k n s) := by
  unfold setRelease; split
  · simp only
    split
    · exact (updateWindow_quiet _ _ _ s).trans (withdraw_quiet _ _ (by simp))
    · exact (updateWindow_quiet _ _ _ s).trans (offerPosition_quiet _ _ _ (releaseWindow_quiet k n) (by simp))
  · exact .refl s

theorem recomputeFires_quiet (s : State) : Quiet s (recomputeFires s) :=
  .foldl (fun a k => .foldl (fun b n => setFire_quiet k n b) _ a) _ s

theorem withdrawBag_quiet (k : Diverter) (slot : Nat) (s : State) : Quiet s (withdrawBag k slot s) := by
  unfold withdrawBag; split
  · exact .refl s
  · exact .ite (.refl s) (.ite (dropWindow_quiet _ _ s)
      (((updateWindow_quiet _ _ _ s).iteElse (setFire_quiet _ _ _)).iteElse (setRelease_quiet _ _ _)))

theorem withdrawEverywhere_quiet (slot : Nat) (s : State) : Quiet s (withdrawEverywhere slot s) :=
  .foldl (fun a k => withdrawBag_quiet k slot a) _ s

theorem markRisk_quiet (slot : Nat) (s : State) : Quiet s (markRisk slot s) := by
  unfold markRisk
  repeat' split
  any_goals exact .refl s
  exact .beside (by rfl)

theorem countThrough_quiet (c : ThroughCause) (slot : Nat) (s : State) : Quiet s (countThrough c slot s) := by
  unfold countThrough; split
  · exact (countEvent_sends _ _).quiet.after (by rfl)
  · exact (countEvent_sends _ _).quiet.after (by rfl)
  · exact .ite (.beside (by rfl)) (.trans (.beside (by rfl)) (countEvent_sends _ _).quiet)

theorem riskCheck_quiet (slot : Nat) (e : Pos) (j : Diverter) (s : State) : Quiet s (riskCheck slot e j s) := by
  unfold riskCheck; split
  · exact .ite (markRisk_quiet _ s) (.refl s)
  · exact .refl s

theorem sendThrough_quiet (c : ThroughCause) (busy slot : Nat) (s : State) : Quiet s (sendThrough c busy slot s) := by
  unfold sendThrough; split
  · exact .refl s
  · rename_i b _
    have checks : ∀ u, Quiet u (allDiverters.foldl (fun acc j =>
        if passes acc b.entry .o0 j && !passesFor acc b.entry b.chosen j then riskCheck slot b.entry j acc else acc) u) :=
      .foldl (fun a j => .ite (riskCheck_quiet _ _ _ a) (.refl a)) _
    exact ((countThrough_quiet c slot _).trans ((checks _).iteElse (handChosen_quiet _ _))).after (by rfl)

theorem closingCheck_quiet (fuel slot : Nat) (e : Pos) (j : Diverter) (s : State) : Quiet s (closingCheck fuel slot e j s) := by
  induction fuel generalizing s with
  | zero => exact .refl s
  | succ fuel ih =>
    unfold closingCheck; split
    · exact .ite (.ite (markRisk_quiet _ s) ((withdrawBag_quiet _ _ s).trans ((sendThrough_quiet _ _ _ _).trans (ih _)))) (.refl s)
    · exact .refl s

theorem closingChecks_quiet (slot : Nat) (e : Pos) (o : Outlet) (s : State) : Quiet s (closingChecks slot e o s) :=
  .foldl (fun a j => .ite (closingCheck_quiet 9 slot e j a) (.refl a)) _ s

theorem joinWindow_quiet (k : Diverter) (w : Window) (b : BagRecord) (s : State) : Quiet s (joinWindow k w b s) :=
  ((updateWindow_quiet _ _ _ s).trans (setRelease_quiet _ _ _)).iteThen (bagFires_quiet _ _ _)

theorem openWindow_quiet (k : Diverter) (b : BagRecord) (s : State) : Quiet s (openWindow k b s) :=
  ((setFire_quiet k s.serial.window _).trans (setRelease_quiet k s.serial.window _)).after (by rfl)

theorem newWindow_quiet (k : Diverter) (x : DiverterConfig) (b : BagRecord) (s : State) : Quiet s (newWindow k x b s) :=
  .ite (sendThrough_quiet _ _ _ s) (.ite (sendThrough_quiet _ _ _ s) (.ite (sendThrough_quiet _ _ _ s) (openWindow_quiet _ _ s)))

theorem placeBag_quiet (k : Diverter) (b : BagRecord) (s : State) : Quiet s (placeBag k b s) := by
  unfold placeBag; split
  · exact .refl s
  · simp only
    split
    · exact .ite (.ite (joinWindow_quiet _ _ _ s) (sendThrough_quiet _ _ _ s)) (newWindow_quiet _ _ _ s)
    · exact newWindow_quiet _ _ _ s

theorem schedule_quiet (slot : Nat) (o : Outlet) (s : State) : Quiet s (schedule slot o s) := by
  unfold schedule; split
  · exact .refl s
  · simp only
    split
    · exact closingChecks_quiet _ _ _ s
    · exact (closingChecks_quiet _ _ _ s).trans (placeBag_quiet _ _ _)

theorem behindCheck_quiet (slot : Nat) (e : Pos) (len : Option Nat) (j : Diverter) (s : State) :
    Quiet s (behindCheck slot e len j s) := by
  unfold behindCheck; split
  · exact .ite (.ite (markRisk_quiet _ s) ((withdrawBag_quiet _ _ s).trans (sendThrough_quiet _ _ _ _))) (.refl s)
  · exact .refl s

theorem reschedule_quiet (slot : Nat) (old : Option Outlet) (m : Outlet) (s : State) : Quiet s (reschedule slot old m s) := by
  unfold reschedule; split
  · exact .refl s
  · rename_i b _
    have checks : ∀ u, Quiet u (allDiverters.foldl (fun acc j =>
        if passes acc b.entry m j && !passesFor acc b.entry old j then behindCheck slot b.entry b.length j acc else acc) u) :=
      .foldl (fun a j => .ite (behindCheck_quiet _ _ _ _ a) (.refl a)) _
    have checked := (withdrawEverywhere_quiet slot s).trans ((closingChecks_quiet slot b.entry m _).trans (checks _))
    simp only
    split
    · exact .refl s
    · split
      · exact checked
      · split
        · exact checked
        · exact checked.trans (.ite (sendThrough_quiet _ _ _ _) (.ite (sendThrough_quiet _ _ _ _) (placeBag_quiet _ _ _)))

theorem bagLeft_quiet (slot : Nat) (s : State) : Quiet s (bagLeft slot s) := by
  refine .foldl (fun a k => ?_) _ s
  split
  · exact .refl a
  · exact .ite ((updateWindow_quiet _ _ _ a).iteThen (releaseWindow_quiet _ _ _)) (withdrawBag_quiet _ _ a)

theorem lengthKnown_quiet (slot len : Nat) (s : State) : Quiet s (lengthKnown slot len s) := by
  refine .foldl (fun a k => ?_) _ s
  split
  · exact .refl a
  · exact (updateWindow_quiet _ _ _ a).iteThen (setRelease_quiet _ _ _)

/-! ## The Route Selector -/

theorem strayOfOutcome_quiet (oc : Outcome) (p : Option Outlet) (b : BagRecord) (s : State) :
    Quiet s (strayOfOutcome oc p b s) := by
  unfold strayOfOutcome; split
  · exact .refl s
  · exact .ite (.refl s) (handStray_sends _ s).quiet

theorem takeRedecision_quiet (oc : Outcome) (b : BagRecord) (s : State) : Quiet s (takeRedecision oc b s) :=
  ((strayOfOutcome_quiet _ _ _ _).trans ((reschedule_quiet _ _ _ _).trans (handChosen_quiet _ _))).after (by rfl)

theorem refuseRedecision_quiet (b : BagRecord) (s : State) : Quiet s (refuseRedecision b s) :=
  .ite (.beside (by rfl)) (.trans (.beside (by rfl)) (countEvent_sends _ _).quiet)

theorem redecide_quiet (slot : Nat) (s : State) : Quiet s (redecide slot s) := by
  unfold redecide; split
  · exact .refl s
  · split
    · exact .ite (.beside (by rfl)) (takeRedecision_quiet _ _ s)
    · exact .ite (.refl s) (refuseRedecision_quiet _ s)
    · exact .ite (.refl s) (refuseRedecision_quiet _ s)
    all_goals exact .refl s

theorem redecideAll_quiet (s : State) : Quiet s (redecideAll s) := .foldl (fun a slot => redecide_quiet slot a) _ s

theorem redecideServed_quiet (ls : List Live) (s : State) : Quiet s (redecideServed ls s) :=
  .foldl (fun a slot => redecide_quiet slot a) _ s

theorem recomputeReach_quiet (s : State) : Quiet s (recomputeReach s) := .ite (.refl s) ((handReach_quiet _ _).after (by rfl))

theorem routeChanged_quiet (s : State) : Quiet s (routeChanged s) :=
  (refreshGates_quiet s).trans ((recomputeReach_quiet _).trans (redecideAll_quiet _))

theorem peerGaveUp_quiet (st : Byte) (s : State) : Quiet s (peerGaveUp st s) :=
  .ite (.trans (.beside (by rfl)) (.trans (.beside (by rfl)) (routeChanged_quiet _))) (.beside (by rfl))

/-! ## Queries and handoffs -/

theorem failLive_quiet (l : Live) (s : State) : Quiet s (failLive l s) :=
  (setStatus_quiet _ _ s).trans (countEvent_sends _ _).quiet

theorem failQuery_quiet (p : Nat) (s : State) : Quiet s (failQuery p s) := by
  unfold failQuery; split
  · exact .refl s
  · exact (Quiet.foldl (fun a l => failLive_quiet l a) _ (retireQuery p s)).after (by rfl)

theorem attemptEnds_quiet (p : Nat) (s : State) : Quiet s (attemptEnds p s) := by
  unfold attemptEnds; split
  · exact .refl s
  · exact .ite ((offer_sends _ _ _).quiet.after (by rfl)) (failQuery_quiet _ s)

theorem deadlinePasses_quiet (p : Nat) (s : State) : Quiet s (deadlinePasses p s) :=
  .ite (failQuery_quiet _ s) (attemptEnds_quiet _ s)

theorem queryMiss_quiet (l : Live) (p : Nat) (s : State) : Quiet s (queryMiss l p s) := by
  unfold queryMiss; split
  · exact .ite ((setStatus_quiet _ _ _).after (by rfl)) (failLive_quiet _ s)
  · exact .ite (failLive_quiet _ s)
      (.ite (Quiet.after ((setStatus_quiet _ _ _).trans (offer_sends _ _ _).quiet) (by rfl)) (failLive_quiet _ s))

theorem countGiveUp_quiet (peer : Byte) (s : State) : Quiet s (countGiveUp peer s) :=
  ((countEvent_sends _ _).quiet.trans (peerGaveUp_quiet _ _)).after (by rfl)

theorem attemptUnanswered_quiet (peer id : Byte) (s : State) : Quiet s (attemptUnanswered peer id s) := by
  unfold attemptUnanswered; split
  · exact .refl s
  · split
    · exact .ite (.beside (by rfl)) ((countGiveUp_quiet _ _).after (by rfl))
    · exact .refl s

theorem makeAttempt_quiet (peer id : Byte) (s : State) : Quiet s (makeAttempt peer id s) := by
  unfold makeAttempt; split
  · exact .refl s
  · split
    · exact .refl s
    · exact (offerFrame_sends _ _).quiet.after (by rfl)

theorem retryDelayOut_quiet (peer id : Byte) (s : State) : Quiet s (retryDelayOut peer id s) := by
  unfold retryDelayOut; split
  · exact makeAttempt_quiet _ _ s
  · exact .refl s

theorem handoffUnsent_quiet (peer id : Byte) (n : Nat) (s : State) : Quiet s (handoffUnsent peer id n s) := by
  unfold handoffUnsent; split
  · exact .refl s
  · exact .ite (attemptUnanswered_quiet _ _ s) (.refl s)

theorem acceptTaken_quiet (peer id : Byte) (s : State) : Quiet s (acceptTaken peer id s) := by
  unfold acceptTaken; split
  · exact .refl s
  · exact .beside (by rfl)

/-! ## How an event ends -/

theorem takeReport_quiet (r : Report) (s : State) : Quiet s (takeReport r s) := by
  unfold takeReport; split
  · exact handoffUnsent_quiet _ _ _ s
  · exact attemptEnds_quiet _ s
  · exact .ite (offer_sends _ _ s).quiet (.refl s)
  · exact .ite (offer_sends _ _ s).quiet (.refl s)

theorem drainReports_quiet (n : Nat) (s : State) : Quiet s (drainReports n s) := by
  induction n generalizing s with
  | zero => exact .beside (by rfl)
  | succ n ih =>
    unfold drainReports; split
    · exact .refl s
    · exact ((takeReport_quiet _ _).trans (ih _)).after (by rfl)

theorem settle_quiet (s : State) : Quiet s (settle s) := (drainReports_quiet _ s).trans (.beside (by rfl))

end Sys2Proof.Machine
end

section
/-! PROOFS. The owners of events: which of them are quiet, and which withdraw a jam point at most. -/

namespace Sys2Proof.Machine

/-! ## The Route Cache and the Query Table -/

theorem considerOffer_quiet (e : CacheEntry) (r : Bool) (s : State) : Quiet s (considerOffer e r s) :=
  .ite (.beside (by rfl)) (.refl s)

theorem copyPart_quiet (l : Live) (p : ManifestPart) (s : State) : Quiet s (copyPart l p s) := by cases l <;> exact .beside (by rfl)

theorem markDuplicate_quiet (l : Live) (s : State) : Quiet s (markDuplicate l s) := by cases l <;> exact .beside (by rfl)

theorem lookup_quiet (l : Live) (s : State) : Quiet s (lookup l s) := by
  unfold lookup; split
  · exact .refl s
  · split
    · split
      · exact ((copyPart_quiet _ _ _).trans (redecideServed_quiet [l] _)).after (by rfl)
      · exact (queryMiss_quiet _ _ _).after (by rfl)
    · exact .refl s

theorem serveLives_quiet (p : ManifestPart) (ls : List Live) (s : State) : Quiet s (serveLives p ls s) :=
  .foldl (fun a l => copyPart_quiet l p a) _ s

theorem serveQuery_quiet (pl : Nat) (p : ManifestPart) (s : State) : Quiet s (serveQuery pl p s) :=
  (serveLives_quiet _ _ _).after (by rfl)

theorem answerFound_quiet (pl : Nat) (p : ManifestPart) (e : Byte) (s : State) : Quiet s (answerFound pl p e s) :=
  (serveQuery_quiet pl p s).trans ((serveLives_quiet _ _ _).trans ((redecideServed_quiet _ _).trans (considerOffer_quiet _ _ _)))

theorem handoffOffer_quiet (pl : Nat) (p : ManifestPart) (r : Bool) (s : State) : Quiet s (handoffOffer pl p r s) :=
  .ite (.refl s) ((serveQuery_quiet pl p s).trans (considerOffer_quiet _ _ _))

theorem applyUpdate_quiet (pl : Nat) (p : ManifestPart) (e : Byte) (s : State) : Quiet s (applyUpdate pl p e s) :=
  (serveQuery_quiet pl p s).trans ((considerOffer_quiet _ _ _).trans ((serveLives_quiet _ _ _).trans (redecideServed_quiet _ _)))

theorem serveFromCache_quiet (pl : Nat) (s : State) : Quiet s (serveFromCache pl s) := by
  unfold serveFromCache; split
  · exact .refl s
  · exact serveQuery_quiet _ _ s

theorem newEpoch_quiet (e : Byte) (s : State) : Quiet s (newEpoch e s) :=
  Quiet.after ((Quiet.foldl (fun a p => serveFromCache_quiet p a) _ _).trans
    ((redecideServed_quiet _ _).trans (.beside (by rfl)))) (by rfl)

theorem walkStep_quiet (s : State) : Quiet s (walkStep s) := by
  unfold walkStep; split
  · exact .refl s
  · exact .beside (by rfl)

/-! ## The Reader Link -/

theorem duplicateCheck_quiet (l : Live) (s : State) : Quiet s (duplicateCheck l s) := by
  unfold duplicateCheck; split
  · exact .refl s
  · refine .ite (.refl s) (.foldl (fun a m => ?_) _ s)
    split
    · exact .refl a
    · exact .ite (markDuplicate_quiet _ a) (.refl a)

theorem lateStray_quiet (slot : Nat) (r : StrayReason) (s : State) : Quiet s (lateStray slot r s) := by
  unfold lateStray; split
  · exact .refl s
  · exact .ite (.refl s) ((handStray_sends _ _).quiet.after (by rfl))

theorem resolveLate_quiet (slot : Nat) (r : ReadResult) (s : State) : Quiet s (resolveLate slot r s) := by
  unfold resolveLate; split
  · exact .refl s
  · split
    · exact .refl s
    · exact .ite ((duplicateCheck_quiet _ _).after (by rfl)) (.ite (.beside (by rfl)) ((lateStray_quiet _ _ _).after (by rfl)))
    · exact (lateStray_quiet _ _ _).after (by rfl)

theorem resolveTimely_quiet (slot : Nat) (r : ReadResult) (s : State) : Quiet s (resolveTimely slot r s) :=
  .ite (.beside (by rfl)) ((duplicateCheck_quiet _ _).after (by rfl))

theorem resolveAgain_quiet (slot : Nat) (s : State) : Quiet s (resolveAgain slot s) := by
  unfold resolveAgain; split
  · exact .refl s
  · split
    · exact .refl s
    · exact .ite (resolveLate_quiet _ _ s) (resolveTimely_quiet _ _ s)

theorem deliver_quiet (slot : Nat) (r : ReadResult) (s : State) : Quiet s (deliver slot r s) := by
  unfold deliver; split
  · exact .refl s
  · rename_i b _
    have held : Quiet s (updateBag slot (fun b => { b with held := some r }) s) := .beside (by rfl)
    have resolved := held.trans (.ite (p := isDecided b = true) (resolveLate_quiet slot r _) (resolveTimely_quiet slot r _))
    exact ((resolved.trans (watchPlates_sends slot _ _).quiet).iteThen (countEvent_sends _ _).quiet).iteElse (lookup_quiet _ _)

theorem readerReached_quiet (slot : Nat) (s : State) : Quiet s (readerReached slot s) :=
  .ite (deliver_quiet _ _ s) (.ite (.beside (by rfl)) (.ite (.beside (by rfl)) (deliver_quiet _ _ s)))

theorem checkDown_quiet (s : State) : Quiet s (checkDown s) :=
  .ite (Quiet.after (.foldl (fun a i => deliver_quiet i .noRead a) _ _) (by rfl)) (.refl s)

theorem onReader_quiet (f : ReaderLink → ReaderLink) (s : State) : Quiet s (onReader f s) := .beside (by rfl)

theorem readAnswered_quiet (slot : Option Nat) (r : ReadResult) (s : State) : Quiet s (readAnswered slot r s) := by
  unfold readAnswered
  simp only
  refine Quiet.trans ?_ (onReader_quiet _ _)
  split
  · exact .beside (by rfl)
  · exact (deliver_quiet _ _ _).after (by rfl)

theorem readMissed_quiet (slot : Option Nat) (s : State) : Quiet s (readMissed slot s) := by
  unfold readMissed
  simp only
  refine Quiet.trans ?_ ((checkDown_quiet _).trans (onReader_quiet _ _))
  split
  · exact .beside (by rfl)
  · exact (deliver_quiet _ _ _).after (by rfl)

/-! ## The Handoff Controller -/

theorem occupancyFall_quiet (s : State) : Quiet s (occupancyFall s) := putOccupancy_quiet _ s

theorem occupancyRise_quiet (s : State) : Quiet s (occupancyRise s) := putOccupancy_quiet _ s

theorem entryMissing_quiet (source id : Byte) (s : State) : Quiet s (entryMissing source id s) := by
  unfold entryMissing; split
  · exact .refl s
  · have gone : Quiet s (occupancyFall (removeEntry source id s)) := (occupancyFall_quiet _).after (by rfl)
    have missed : ∀ u i, Quiet u (handStray i (enterMissing source id (leaveWaiters (.entry source id) u))) :=
      fun u i => (handStray_sends i _).quiet.after (by rfl)
    exact (gone.trans (missed _ _)).iteElse (beginSearch_sends _ _ _ _).quiet

theorem writeHistory_quiet (d : Departure) (s : State) : Quiet s (writeHistory d s) := by
  have put : ∀ u, Quiet u { u with tracker := { u.tracker with history := d :: u.tracker.history } } := fun _ => .beside (by rfl)
  unfold writeHistory
  simp only
  split
  · exact put s
  · split
    · exact .beside (by rfl)
    · exact .trans (.ite ((countGiveUp_quiet _ _).after (by rfl)) (.beside (by rfl))) (put _)

theorem enterHistory_quiet (o : Outlet) (v : Leaving) (s : State) : Quiet s (enterHistory o v s) := by
  unfold enterHistory
  simp only
  split
  · exact writeHistory_quiet _ s
  · exact ((writeHistory_quiet _ _).trans (makeAttempt_quiet _ _ _)).after (by rfl)

theorem entryOffer_quiet (f : HandoffFields) (r : Bool) (s : State) : Quiet s (entryOffer f r s) := by
  unfold entryOffer; split
  · exact (handoffOffer_quiet _ _ _ s).trans (redecideServed_quiet _ _)
  · exact .refl s

theorem entryLookup_quiet (f : HandoffFields) (s : State) : Quiet s (entryLookup f s) := .ite (.refl s) (lookup_quiet _ s)

/-- R127: what follows the identity part of a HANDOFF that is taken: its check against the watch list, and ACCEPT. -/
theorem accepted_quiet (f : HandoffFields) (pl : Place) (o : Option Outlet) (s : State) :
    Quiet s (answerAccept f (watchCheck f.plate pl o s)) := (watchCheck_sends _ _ _ s).quiet.trans (offer_sends _ _ _).quiet

theorem makeEntry_quiet (x : SourceConfig) (f : HandoffFields) (s : State) : Quiet s (makeEntry x f s) :=
  Quiet.after ((offerPosition_quiet _ _ _ (entryMissing_quiet f.source f.id) (by simp)).trans ((occupancyRise_quiet _).trans
    ((duplicateCheck_quiet _ _).trans ((entryOffer_quiet _ _ _).trans
      ((entryLookup_quiet _ _).trans (accepted_quiet _ _ _ _)))))) (by rfl)

theorem waiterMoved_quiet (l : Live) (s : State) : Quiet s (waiterMoved l s) := by
  unfold waiterMoved; split
  · exact .refl s
  · exact .ite (((setStatus_quiet _ _ _).trans (lookup_quiet _ _)).after (by rfl)) (.beside (by rfl))

theorem resendEntry_quiet (f : HandoffFields) (e : ExpectedEntry) (s : State) : Quiet s (resendEntry f e s) := by
  unfold resendEntry
  simp only
  refine Quiet.trans ?_ ((entryLookup_quiet _ _).trans (accepted_quiet _ _ _ _))
  refine Quiet.iteElse ?_ ((waiterMoved_quiet _ _).trans (duplicateCheck_quiet _ _))
  exact Quiet.trans (.ite (.beside (by rfl)) (.beside (by rfl))) (entryOffer_quiet _ _ _)

theorem claimLookup_quiet (slot : Nat) (s : State) : Quiet s (claimLookup slot s) := by
  unfold claimLookup; split
  · exact .refl s
  · exact .ite (.refl s) ((setStatus_quiet _ _ s).trans (lookup_quiet _ _))

theorem claimOffer_quiet (f : HandoffFields) (r : Bool) (s : State) : Quiet s (claimOffer f r s) := by
  unfold claimOffer; split
  · exact handoffOffer_quiet _ _ _ s
  · exact .refl s

theorem claimRedecide_quiet (slot : Nat) (ls : List Live) (s : State) : Quiet s (claimRedecide slot ls s) :=
  (redecideServed_quiet _ _).after (by rfl)

theorem claimRecord_quiet (f : HandoffFields) (b : BagRecord) (s : State) : Quiet s (claimRecord f b s) := by
  unfold claimRecord
  simp only
  refine Quiet.trans ?_ ((watchCheck_sends _ _ _ _).quiet.trans ((claimRedecide_quiet _ _ _).trans (offer_sends _ _ _).quiet))
  refine Quiet.trans ?_ ((resolveAgain_quiet _ _).trans (claimLookup_quiet _ _))
  refine Quiet.iteElse ?_ ((waiterMoved_quiet _ _).trans (duplicateCheck_quiet _ _))
  refine Quiet.trans ?_ (claimOffer_quiet _ _ _)
  have identified : Quiet s (updateBag b.slot (claimedRecord f) (withdraw (.claimEnd b.slot) s)) :=
    (withdraw_quiet (.claimEnd b.slot) s (by simp)).trans (.beside (by rfl))
  split
  · exact identified.trans ((copyPart_quiet _ _ _).trans (.beside (by rfl)))
  · exact identified

theorem takeHandoff_quiet (x : SourceConfig) (f : HandoffFields) (s : State) : Quiet s (takeHandoff x f s) := by
  unfold takeHandoff; split
  · exact resendEntry_quiet _ _ s
  · refine .ite (offer_sends _ _ s).quiet ?_
    split
    · exact claimRecord_quiet _ _ s
    · exact .ite (makeEntry_quiet x f s) (offer_sends _ _ s).quiet

theorem handoffTaken_quiet (src : Byte) (p : HandoffPayload) (s : State) : Quiet s (handoffTaken src p s) := by
  unfold handoffTaken; split
  · split
    · exact .refl s
    · exact takeHandoff_quiet _ _ s
  · exact .refl s

theorem matchEntry_quiet (slot : Nat) (x : ExpectedEntry) (s : State) : Quiet s (matchEntry slot x s) := by
  have matched : Quiet s (updateBag slot (matchedRecord x) s) := .beside (by rfl)
  have left : ∀ u, Quiet u (occupancyFall (withdraw (.windowEnd x.source x.id) (removeEntry x.source x.id
      (takeWaiterPlace (.entry x.source x.id) (.bag slot) u)))) :=
    fun u => ((withdraw_quiet (.windowEnd x.source x.id) _ (by simp)).trans (occupancyFall_quiet _)).after (by rfl)
  exact (matched.iteThen (markDuplicate_quiet _ _)).trans (left _)

theorem matchArrival_quiet (slot : Nat) (e : Pos) (s : State) : Quiet s (matchArrival slot e s) := by
  unfold matchArrival; split
  · exact matchEntry_quiet _ _ s
  · have claimable : Quiet s (updateBag slot (fun b => { b with flags := { b.flags with claimable := true } }) s) :=
      .beside (by rfl)
    exact .ite (claimable.trans ((withdraw_quiet (.claimEnd slot) _ (by simp)).trans (.beside (by rfl))))
      (claimable.trans (offerPosition_quiet _ _ _ (fun _ => .beside (by rfl)) (by simp)))

/-! ## The Segment Tracker -/

/-- R28: a removal withdraws the jam point of the open record. -/
theorem withdrawRecord_tidy (slot : Nat) (s : State) : Tidy s (withdrawRecord slot s) := by
  unfold withdrawRecord
  simp only
  refine Tidy.trans ?_ (.foldl (fun a k => withdraw_tidy _ a) _ _)
  exact .trans (.ite (withdraw_tidy _ s) (.refl s))
    ((withdraw_tidy _ _).trans ((withdraw_tidy _ _).trans ((withdraw_tidy _ _).trans (withdraw_tidy _ _))))

theorem removeRecord_tidy (slot : Nat) (s : State) : Tidy s (removeRecord slot s) :=
  (withdrawRecord_tidy slot s).trans (Quiet.after ((bagLeft_quiet slot _).trans ((occupancyFall_quiet _).trans
    (stopperLeft_quiet _ _))) (by rfl)).toTidy

theorem departRecord_tidy (o : Outlet) (b : BagRecord) (s : State) : Tidy s (departRecord o b s) :=
  Tidy.trans (Tidy.trans (.beside (by rfl)) (removeRecord_tidy b.slot _)) (enterHistory_quiet _ _ _).toTidy

theorem loseRecord_tidy (b : BagRecord) (r : StrayReason) (d : Disposition) (s : State) : Tidy s (loseRecord b r d s) :=
  Tidy.trans (Tidy.trans (.beside (by rfl)) (removeRecord_tidy b.slot _)) (handStray_sends _ _).quiet.toTidy

theorem declareLost_tidy (b : BagRecord) (s : State) : Tidy s (declareLost b s) :=
  .ite (loseRecord_tidy _ _ _ s) (loseRecord_tidy _ _ _ s)

theorem lostReached_tidy (slot : Nat) (s : State) : Tidy s (lostReached slot s) := by
  unfold lostReached; split
  · exact .refl s
  · exact .ite (.beside (by rfl)) (declareLost_tidy _ s)

theorem confirmExpires_tidy (slot : Nat) (s : State) : Tidy s (confirmExpires slot s) := by
  unfold confirmExpires; split
  · exact .refl s
  · exact .ite (.ite (.trans (.beside (by rfl)) (declareLost_tidy _ _)) (.beside (by rfl))) (.refl s)

theorem raiseHalting_quiet (x : StopReason) (s : State) : Quiet s (raiseHalting x s) := by
  have halted : Quiet s { onDrive (joinReason (cfg s).rRun x) s with belt := { s.belt with
      eyes := { s.belt.eyes with entry := { s.belt.eyes.entry with trailing := none } } } } := .belt (by rfl)
  exact .ite (.refl s) (halted.trans ((followHold_sends _).quiet.trans (countEvent_sends _ _).quiet))

theorem putJamPoint_tidy (p : Pos) (s : State) : Tidy s (putJamPoint p s) :=
  .ite ((withdraw_tidy _ s).trans (raiseHalting_quiet _ _).toTidy) ((withdraw_tidy _ s).trans (holdPosition_quiet _ _ _).toTidy)

theorem decideBag_quiet (slot : Nat) (s : State) : Quiet s (decideBag slot s) := by
  unfold decideBag; split
  · exact .refl s
  · exact .ite (.refl s) (Quiet.after ((strayOfOutcome_quiet _ _ _ _).trans
      ((schedule_quiet _ _ _).trans (handChosen_quiet _ _))) (by rfl))

theorem handOn_tidy (b : BagRecord) (s : State) : Tidy s (handOn b s) := by
  have read := fun u => (offerPosition_quiet (.readerPosition b.slot) (b.entry + mm (cfg s).readerPosition) u
    (readerReached_quiet b.slot) (by simp)).toTidy
  have decided := fun u => (offerPosition_quiet (.decisionPosition b.slot) (b.entry + mm (cfg s).decisionPosition) u
    (decideBag_quiet b.slot) (by simp)).toTidy
  have counted := fun u => ((occupancyRise_quiet u).trans (countEvent_sends .entries _).quiet).toTidy
  have lost : ∀ p u, Tidy u (offerPosition (.lostPoint b.slot) p (lostReached b.slot) u) := fun p u =>
    .ite ((withdraw_tidy _ u).trans (lostReached_tidy _ _)) ((withdraw_tidy _ u).trans (holdPosition_quiet _ _ _).toTidy)
  exact (matchArrival_quiet b.slot b.entry s).toTidy.trans ((read _).trans ((decided _).trans ((counted _).trans (lost _ _))))

theorem arrival_tidy (p : Pos) (s : State) : Tidy s (arrival p s) :=
  have joined : Tidy s (joinQueue (newRecord s (entryPosition s.tracker p)) s) := .beside (by rfl)
  (joined.trans (putJamPoint_tidy p _)).trans (handOn_tidy _ _)

theorem overrunArrival_tidy (p : Pos) (s : State) : Tidy s (overrunArrival p s) :=
  Tidy.trans (Tidy.trans (.beside (by rfl)) (handStray_sends _ _).quiet.toTidy) (putJamPoint_tidy _ _)

theorem closeLength_tidy (b : BagRecord) (p : Pos) (s : State) : Tidy s (closeLength b p s) :=
  (Quiet.after (lengthKnown_quiet _ _ _) (by rfl)).toTidy

theorem entryTrailing_tidy (p : Pos) (s : State) : Tidy s (entryTrailing p s) := by
  have withdrawn := withdraw_tidy .jamPoint s
  unfold entryTrailing
  simp only
  split
  · exact withdrawn
  · exact .ite (withdrawn.trans (closeLength_tidy _ _ _)) (withdrawn.trans (loseRecord_tidy _ _ _ _))

theorem unknownObject_quiet (o : Outlet) (s : State) : Quiet s (unknownObject o s) := by
  have strayed : ∀ i, Quiet s (handStray i (onTracker (fun t => { t with unknown := t.unknown + 1 }) s)) :=
    fun i => (handStray_sends i _).quiet.after (by rfl)
  exact (strayed _).iteThen (enterHistory_quiet _ _ _)

theorem settleUncertain_quiet (b : BagRecord) (s : State) : Quiet s (settleUncertain b s) :=
  .ite (handStray_sends _ s).quiet (.refl s)

theorem chuteEdge_tidy (k : Diverter) (s : State) : Tidy s (chuteEdge k s) := by
  unfold chuteEdge; split
  · exact (unknownObject_quiet _ s).toTidy
  · exact (Quiet.after (settleUncertain_quiet _ _) (by rfl)).toTidy.trans (departRecord_tidy _ _ _)

theorem misroute_tidy (b : BagRecord) (s : State) : Tidy s (misroute b s) :=
  (Quiet.after (handStray_sends _ _).quiet (by rfl)).toTidy.trans (departRecord_tidy _ _ _)

theorem exitEdge_tidy (p : Pos) (s : State) : Tidy s (exitEdge p s) := by
  unfold exitEdge; split
  · exact (unknownObject_quiet _ s).toTidy
  · exact .ite ((settleUncertain_quiet _ s).toTidy.trans (departRecord_tidy _ _ _)) (misroute_tidy _ s)

theorem leadingDelivered_tidy (e : Eye) (p : Pos) (s : State) : Tidy s (leadingDelivered e p s) := by
  unfold leadingDelivered; split
  · split
    · exact .ite (arrival_tidy p s) (overrunArrival_tidy p s)
    · exact exitEdge_tidy p s
    · exact chuteEdge_tidy _ s
  · exact .refl s

theorem trailingDelivered_tidy (e : Eye) (p : Pos) (s : State) : Tidy s (trailingDelivered e p s) := by
  unfold trailingDelivered; split
  · split
    · exact entryTrailing_tidy p s
    · exact .refl s
    · exact .refl s
  · exact .refl s

/-! ## The Belt Distance Unit -/

theorem updateEye_quiet (e : Eye) (f : EyeState → EyeState) (s : State) : Quiet s (updateEye e f s) := .belt (by rfl)

theorem deliverLeading_tidy (e : Eye) (s : State) : Tidy s (deliverLeading e s) :=
  .ite (.refl s) ((updateEye_quiet _ _ s).toTidy.trans (leadingDelivered_tidy _ _ _))

theorem deliverTrailing_tidy (e : Eye) (s : State) : Tidy s (deliverTrailing e s) := by
  unfold deliverTrailing; split
  · exact .refl s
  · exact (updateEye_quiet _ _ s).toTidy.trans (trailingDelivered_tidy _ _ _)

theorem eyeBlocked_tidy (e : Eye) (s : State) : Tidy s (eyeBlocked e s) := by
  have blocked := (updateEye_quiet e (fun x => { x with present := true }) s).toTidy
  unfold eyeBlocked
  simp only
  split
  · split
    · exact blocked.trans (deliverLeading_tidy _ _)
    · exact .ite (blocked.trans ((deliverTrailing_tidy _ _).trans (deliverLeading_tidy _ _)))
        (blocked.trans (updateEye_quiet _ _ _).toTidy)
  · exact blocked

theorem eyeCleared_quiet (e : Eye) (s : State) : Quiet s (eyeCleared e s) :=
  (updateEye_quiet e (fun x => { x with present := false }) s).iteThen (updateEye_quiet _ _ _)

theorem resyncEntry_tidy (s : State) : Tidy s (resyncEntry s) :=
  .ite (.ite (putJamPoint_tidy _ s) (deliverLeading_tidy _ s)) (.ite (updateEye_quiet _ _ s).toTidy (.refl s))

theorem reportPosition_tidy (i : Item) (s : State) : Tidy s (reportPosition i s) := by
  cases i
  · exact (readerReached_quiet _ s).toTidy
  · exact (decideBag_quiet _ s).toTidy
  · exact (raiseHalting_quiet _ s).toTidy
  · exact lostReached_tidy _ s
  · exact .beside (by rfl)
  · exact (entryMissing_quiet _ _ s).toTidy
  · exact (fireWindow_quiet _ _ s).toTidy
  · exact (releaseWindow_quiet _ _ s).toTidy
  · exact (passReached_quiet _ _ s).toTidy
  · exact (latchGate_quiet _ s).toTidy

theorem deliverDue_tidy (x : Due) (s : State) : Tidy s (deliverDue x s) := by
  cases x
  · exact (withdraw_tidy _ s).trans (reportPosition_tidy _ _)
  · exact deliverTrailing_tidy _ s

theorem reportAll_tidy (n : Nat) (s : State) : Tidy s (reportAll n s) := by
  induction n generalizing s with
  | zero => exact .refl s
  | succ n ih =>
    unfold reportAll; split
    · exact .refl s
    · exact (deliverDue_tidy _ s).trans (ih _)
    · exact Tidy.trans (.beside (by rfl)) ((deliverDue_tidy _ (spendChoice s)).trans (ih _))

theorem otherTrailing_tidy (s : State) : Tidy s (otherTrailing s) :=
  .foldl (fun a e => .ite (deliverTrailing_tidy e a) (.refl a)) _ s

theorem speedWindow_quiet (s : State) : Quiet s (speedWindow s) := by
  have hm : Quiet s (measured s) := .belt (by rw [measured_eq rfl, endWindow_eq])
  rw [speedWindow_eq]
  exact hm.trans ((recomputeFires_quiet _).trans (recomputeStops_quiet _))

theorem markUncertain_quiet (k : Diverter) (slot : Nat) (s : State) : Quiet s (markUncertain k slot s) := by
  unfold markUncertain; split
  · exact .refl s
  · exact .beside (by rfl)

theorem holdOutputs_quiet (s : State) : Quiet s (holdOutputs s) :=
  Quiet.after (t := { s with holdOff := true })
    (.foldl (fun a k => .foldl (fun b _ => .ite (.foldl (fun c slot => markUncertain_quiet k slot c) _ b) (.refl b)) _ a) _ _)
    (by rfl)

theorem estopJoins_quiet (s : State) : Quiet s (estopJoins s) := by
  have joined : Quiet s (onBeltUnit (fun b => { b with restartArmed := false }) (onDrive (joinReason (cfg s).rRun .estop) s)) :=
    .belt (by rfl)
  exact .ite (.refl s) (joined.trans (holdOutputs_quiet _))

theorem estopLeaves_quiet (s : State) : Quiet s (estopLeaves s) := .ite (.belt (by rfl)) (.refl s)

/-- R8, R9: what JAMCLR_N does before EYE_IN is looked at. -/
def jamsGone (s : State) : State := followHold (onDrive (clearJamStall (cfg s).rRun) s)

theorem jamsGone_quiet (s : State) : Quiet s (jamsGone s) := (followHold_sends _).quiet.after (by rfl)

theorem jamCleared_tidy (s : State) : Tidy s (jamCleared s) :=
  .ite ((jamsGone_quiet s).toTidy.trans (resyncEntry_tidy _)) (.refl s)

end Sys2Proof.Machine
end

section
/-! PROOFS. After every step no report is owed or due, an edge is awaited only while it is the next command, and the output lines
follow the state (logs 7, 40). -/

namespace Sys2Proof.Machine

/-! ## Outlets, frames and the Hall Bus Interface -/

theorem putClosed_quiet (o : Outlet) (c : Bool) (s : State) : Quiet s (putClosed o c s) :=
  .ite ((routeChanged_quiet _).after (by rfl)) (.refl s)

theorem updatePeerRows_quiet (st : Byte) (f : RouteRow → RouteRow) (s : State) : Quiet s (updatePeerRows st f s) :=
  .foldl (fun a _ => .ite (.beside (by rfl)) (.refl a)) _ s

theorem putLearned_quiet (st : Byte) (r : DestSet) (s : State) : Quiet s (putLearned st r s) :=
  .ite ((updatePeerRows_quiet _ _ s).trans (routeChanged_quiet _)) (.refl s)

theorem peerHeard_quiet (st : Byte) (s : State) : Quiet s (peerHeard st s) :=
  .ite (Quiet.after ((updatePeerRows_quiet _ _ _).trans (routeChanged_quiet _)) (by rfl)) (.refl s)

theorem putLate_quiet (late : DestSet) (s : State) : Quiet s (putLate late s) :=
  .ite (.refl s) ((redecideAll_quiet _).after (by rfl))

theorem writeClosed_quiet (k : Diverter) (closed : Bool) (s : State) : Quiet s (writeClosed k closed s) :=
  .ite ((putClosed_quiet _ _ _).after (by rfl)) (.beside (by rfl))

theorem answerTaken_quiet (p : AnswerPayload) (s : State) : Quiet s (answerTaken p s) := by
  refine .ite (.ite ?_ (.ite (failQuery_quiet _ s) (.refl s))) (.refl s)
  split
  · exact answerFound_quiet _ _ _ s
  · exact .refl s

theorem updateTaken_quiet (p : UpdatePayload) (s : State) : Quiet s (updateTaken p s) := by
  refine .ite ?_ (.refl s)
  split
  · exact applyUpdate_quiet _ _ _ s
  · exact .refl s

theorem onBus_quiet (f : Bus → Bus) (s : State) (h : (f s.bus).due = s.bus.due) : Quiet s (onBus f s) :=
  .beside (congrArg (s.belt, ·) h)

theorem beginSending_due (b : Bus) : (beginSending b).due = b.due := by
  unfold beginSending
  split
  · split <;> rfl
  · split <;> rfl

theorem collide_due (b : Bus) : (collide b).due = b.due := by unfold collide; split <;> rfl

theorem backoffEnds_due (b : Bus) : (backoffEnds b).due = b.due := by unfold backoffEnds; split <;> rfl

/-- R177: every report that an event delivers has been delivered at its end. -/
theorem deliverEach_due (n : Nat) (s : State) : (deliverEach n s).bus.due = [] := by
  induction n generalizing s with
  | zero => rfl
  | succ n ih =>
    unfold deliverEach; split
    · assumption
    · exact ih _

theorem deliverPending_tidy {s t : State} (h : t.belt = s.belt) : Tidy s (deliverPending t) :=
  ⟨fun _ => deliverEach_due _ _, (deliverPending_calm t).sameEyes.2.trans (by rw [h])⟩

theorem frameLeaves_tidy (s : State) : Tidy s (frameLeaves s) := by
  unfold frameLeaves; split
  · exact deliverPending_tidy rfl
  · exact .refl s

theorem abandonFrame_tidy (q : Queued) (s : State) : Tidy s (abandonFrame q s) := by
  refine ⟨fun _ => deliverEach_due _ _, ?_⟩
  exact ((countEvent_calm _ _).trans ((oweReport_calm _ _).trans ((drainReports_calm _ _).trans (deliverPending_calm _)))).sameEyes.2

theorem jamEnds_tidy (s : State) : Tidy s (jamEnds s) := by
  unfold jamEnds; split
  · exact .ite (.beside (by rfl)) (abandonFrame_tidy _ s)
  · exact .refl s

/-! ## Start-up -/

theorem enterConfigFault_quiet (s : State) : Quiet s (enterConfigFault s) := by
  have ended : Quiet s (endLoading .configFault s) := .belt (by rfl)
  exact ended.iteThen ((offer_sends _ _ _).trans (offer_sends _ _ _)).quiet

theorem enterJoining_tidy (c : JunctionConfig) (s : State) : Tidy s (enterJoining c s) := by
  have loaded : Quiet s (putInForce c (endLoading .joining s)) := .belt (by rfl)
  have jam : ∀ u, Tidy u (jamPointAtJoining u) := fun u => .ite (putJamPoint_tidy _ u) (.refl u)
  have told : ∀ p u, Quiet u (onLoader (fun l => { l with listen := some Config.listenTime }) (offer 127 p u)) :=
    fun p u => (offer_sends _ _ _).quiet.trans (.beside (by rfl))
  exact (loaded.trans ((recomputeReach_quiet _).trans (refreshGates_quiet _))).toTidy.trans ((jam _).trans (told _ _).toTidy)

theorem enterRunning_quiet (s : State) : Quiet s (enterRunning s) := by
  have told : Quiet s (toSources (.path s.flow.reach) (onLoader (fun l => { l with node := .running, listen := none }) s)) :=
    (toSources_sends _ _).quiet.after (by rfl)
  exact (told.iteThen (toSources_sends _ _).quiet).trans (.beside (by rfl))

theorem addressNack_quiet (s : State) : Quiet s (addressNack s) :=
  .ite (.ite (.beside (by rfl)) ((enterConfigFault_quiet _).after (by rfl))) (.refl s)

theorem readComplete_tidy (memory : List Byte) (s : State) : Tidy s (readComplete memory s) := by
  have copied : Tidy s (onLoader (fun l => { l with image := some (bytesRead memory) }) s) := .beside (by rfl)
  exact .ite (.ite (copied.trans (enterJoining_tidy _ _)) (copied.trans (enterConfigFault_quiet _).toTidy)) (.refl s)

theorem ownNumberSeen_tidy (s : State) : Tidy s (ownNumberSeen s) := by
  unfold ownNumberSeen
  simp only
  split
  · exact ⟨fun _ => rfl, rfl⟩
  · exact .ite (.beside (by rfl)) ((offer_sends _ _ _).quiet.after (by rfl)).toTidy
  all_goals exact .beside (by rfl)

theorem deliverFrame_tidy (h : Header) {owner : State → State} (ho : ∀ u, Tidy u (owner u)) (s : State) :
    Tidy s (deliverFrame h owner s) :=
  .ite (.refl s) (.ite (.beside (by rfl)) (.ite (ownNumberSeen_tidy s) (.ite (.refl s)
    (((peerHeard_quiet _ _).after (by rfl)).toTidy.trans (ho _)))))

theorem countersCleared_quiet (s : State) : Quiet s (countersCleared s) := .ite (.refl s) (.beside (by rfl))

theorem frameEnded_quiet (f : RawFrame) (s : State) : Quiet s (frameEnded f s) := by
  refine .ite (.refl s) ?_
  split
  · exact .beside (by rfl)
  · exact (countEvent_sends _ _).quiet.after (by rfl)
  · exact .beside (by rfl)
  all_goals exact .refl s

/-! ## The reader link -/

theorem readReplied_quiet (n : Byte) (plates : List Nat) (s : State) : Quiet s (readReplied n plates s) := by
  unfold readReplied; split
  · exact .ite (readAnswered_quiet _ _ s) (.beside (by rfl))
  · exact .beside (by rfl)

theorem pollReplied_quiet (n : Byte) (s : State) : Quiet s (pollReplied n s) := by
  unfold pollReplied; split
  · exact .ite (.beside (by rfl)) (.beside (by rfl))
  · exact .beside (by rfl)

theorem readTimesOut_quiet (s : State) : Quiet s (readTimesOut s) := by
  unfold readTimesOut; split
  · exact readMissed_quiet _ s
  · exact .refl s

theorem pollTimesOut_quiet (s : State) : Quiet s (pollTimesOut s) := by
  unfold pollTimesOut; split
  · exact Quiet.after ((checkDown_quiet (onReader countMiss s)).trans (onReader_quiet _ _)) (by rfl)
  · exact .refl s

theorem holdRefreshed_quiet (s : State) : Quiet s (holdRefreshed s) :=
  .ite ((toSources_sends _ s).quiet.trans (.beside (by rfl))) (.refl s)

theorem stallFires_quiet (s : State) : Quiet s (stallFires s) := .ite ((raiseHalting_quiet _ s).trans (.beside (by rfl))) (.refl s)

/-! ## Every command -/

/-- Every command is tidy but RESET, a count, which may leave an edge to be awaited, and a leading edge, which may be awaited. -/
theorem effect_tidy {c : Instr} (hr : ∀ r, c ≠ .reset r) (hc : ∀ a b, c ≠ .encoderCount a b) (he : ∀ e, c ≠ .eyeLeadingEdge e)
    (s : State) : Tidy s (effect c s) := by
  cases c
  case reset r => exact absurd rfl (hr r)
  case encoderCount a b => exact absurd rfl (hc a b)
  case eyeLeadingEdge e => exact absurd rfl (he e)
  case resetNAsserted => exact .beside (by rfl)
  case configAddressNack => exact (addressNack_quiet s).toTidy
  case configReaddress => exact .ite (.beside (by rfl)) (.refl s)
  case configReadComplete bytes => exact readComplete_tidy bytes s
  case listenTimeout => exact .ite (enterRunning_quiet s).toTidy (.refl s)
  case speedWindowEnd => exact (speedWindow_quiet s).toTidy
  case stallDetected => exact (stallFires_quiet s).toTidy
  case rampStep => exact .beside (by rfl)
  case haltQuietTimeout => exact .ite (.beside (by rfl)) (.refl s)
  case estopAsserted => exact ((estopJoins_quiet _).after (by rfl)).toTidy
  case estopDeasserted => exact ((estopLeaves_quiet _).after (by rfl)).toTidy
  case jamclrActivation => exact Tidy.trans (.beside (by rfl)) (jamCleared_tidy (putJamclrLine s))
  case eyeTrailingEdge e => exact .ite (eyeCleared_quiet e s).toTidy (.refl s)
  case chuteFullClose k => exact (writeClosed_quiet k true s).toTidy
  case chuteFullReopen k => exact (writeClosed_quiet k false s).toTidy
  case readReply whole n plates => exact .ite (readReplied_quiet n plates s).toTidy (.refl s)
  case pollReply whole n => exact .ite (pollReplied_quiet n s).toTidy (.refl s)
  case readTimeout => exact (readTimesOut_quiet s).toTidy
  case pollTimeout => exact (pollTimesOut_quiet s).toTidy
  case idleTimeout => exact .ite (.beside (by rfl)) (.refl s)
  case queryDeadline plate => exact (deadlinePasses_quiet plate s).toTidy
  case epochWalkStep => exact (walkStep_quiet s).toTidy
  case confirmTimeout slot => exact confirmExpires_tidy slot s
  case answerWaitTimeout peer id => exact (attemptUnanswered_quiet peer id s).toTidy
  case retryDelayTimeout peer id => exact (retryDelayOut_quiet peer id s).toTidy
  case holdExpiry o => exact .ite ((refreshGate_quiet o _).after (by rfl)).toTidy (.refl s)
  case holdRefreshTimeout => exact (holdRefreshed_quiet s).toTidy
  case watchLapse => exact .beside (by rfl)
  case transmitStart => exact (onBus_quiet _ s (beginSending_due _)).toTidy
  case collision => exact (onBus_quiet _ s (collide_due _)).toTidy
  case jamComplete => exact jamEnds_tidy s
  case backoffExpiry => exact (onBus_quiet _ s (backoffEnds_due _)).toTidy
  case frameSent => exact frameLeaves_tidy s
  case handoffReceived h p => exact deliverFrame_tidy h (fun u => (handoffTaken_quiet _ _ u).toTidy) s
  case acceptReceived h id => exact deliverFrame_tidy h (fun u => .ite (acceptTaken_quiet _ _ u).toTidy (.refl u)) s
  case retryReceived h id => exact deliverFrame_tidy h (fun u => .ite (attemptUnanswered_quiet _ _ u).toTidy (.refl u)) s
  case pathReceived h reach => exact deliverFrame_tidy h (fun u => .ite (putLearned_quiet _ _ u).toTidy (.refl u)) s
  case holdReceived h q =>
    exact deliverFrame_tidy h (fun u => .ite ((updatePeerRows_quiet _ _ u).trans (refreshGates_quiet _)).toTidy (.refl u)) s
  case answerReceived h p => exact deliverFrame_tidy h (fun u => (answerTaken_quiet _ u).toTidy) s
  case updateReceived h p => exact deliverFrame_tidy h (fun u => (updateTaken_quiet _ u).toTidy) s
  case epochReceived h e => exact deliverFrame_tidy h (fun u => .ite (newEpoch_quiet _ u).toTidy (.refl u)) s
  case destCloseReceived h d a =>
    exact deliverFrame_tidy h (fun u => .ite
      (.ite (putLate_quiet _ u).toTidy (.ite (putLate_quiet _ u).toTidy (.refl u))) (.refl u)) s
  case missingReceived h p r => exact deliverFrame_tidy h (fun u => .ite (beginSearch_sends _ _ _ u).quiet.toTidy (.refl u)) s
  case foundReceived h p => exact deliverFrame_tidy h (fun u => .ite (unwatch_sends _ u).quiet.toTidy (.refl u)) s
  case statusReqReceived h i p => exact deliverFrame_tidy h (fun u => .ite (offer_sends _ _ u).quiet.toTidy (.refl u)) s
  case counterClearReceived h => exact deliverFrame_tidy h (fun u => (countersCleared_quiet u).toTidy) s
  case announceReceived h p => exact deliverFrame_tidy h .refl s
  case queryReceived h p => exact deliverFrame_tidy h .refl s
  case strayReceived h p => exact deliverFrame_tidy h .refl s
  case statusReplyReceived h i p d => exact .ite (.beside (by rfl)) (deliverFrame_tidy h .refl s)
  case alertReceived h p => exact deliverFrame_tidy h .refl s
  case ownNumberFrame d k p => exact .ite (.refl s) (ownNumberSeen_tidy s)
  case frameDiscarded f => exact (frameEnded_quiet f s).toTidy

theorem resetPart_ends (r : ResetLines) (s : State) : (resetPart r s).bus.due = [] ∧ (resetPart r s).belt.awaited = none := by
  unfold resetPart
  simp only
  split
  · exact ⟨rfl, rfl⟩
  · have h := enterConfigFault_quiet (leaveReset r s)
    exact ⟨h.due rfl, h.awaited⟩

/-! ## A count and a leading edge (log 40) -/

/-- What a count reports on: the trailing edges of the other eyes are delivered, the belt has restarted. -/
def countDelivered (forward : Bool) (s : State) : State :=
  otherTrailing (beltRestart forward (onDrive restartQuiet (onBeltUnit (moveBelt (cfg s) forward) s)))

theorem countDelivered_tidy (forward : Bool) (s : State) : Tidy s (countDelivered forward s) := by
  have moved : Tidy s (onDrive restartQuiet (onBeltUnit (moveBelt (cfg s) forward) s)) := .beside (by
    unfold onDrive onBeltUnit moveBelt; split <;> rfl)
  have restarted : ∀ u, Tidy u (beltRestart forward u) := fun u => .ite (.beside (by rfl)) (.refl u)
  exact moved.trans ((restarted _).trans (otherTrailing_tidy _))

theorem countDelivered_pending (forward : Bool) (s : State) : (countDelivered forward s).pending = s.pending :=
  ((beltRestart_lawful _ _).trans (otherTrailing_lawful _)).pending

/-- R37, R134: an edge is awaited only where it is the next command. -/
theorem chooseEdge_awaited (s : State) : (chooseEdge s).belt.awaited = s.belt.awaited ∨
    ∃ e rest, (chooseEdge s).belt.awaited = some e ∧ s.pending = .eyeLeadingEdge e :: rest := by
  unfold chooseEdge
  split
  · exact .inl rfl
  · rename_i e he
    split
    · exact .inl rfl
    · unfold edgeBeside at he
      split at he
      · rename_i e' rest hp
        split at he
        · exact .inr ⟨e, rest, rfl, by rw [hp, Option.some.inj he]⟩
        · cases he
      · cases he

theorem chooseEdge_due (s : State) : (chooseEdge s).bus.due = s.bus.due := by
  unfold chooseEdge
  split
  · rfl
  · split <;> rfl

theorem beltCount_ends (forward : Bool) (s : State) : (s.bus.due = [] → (beltCount forward s).bus.due = []) ∧
    ((beltCount forward s).belt.awaited = s.belt.awaited ∨
      ∃ e rest, (beltCount forward s).belt.awaited = some e ∧ s.pending = .eyeLeadingEdge e :: rest) := by
  have hd := countDelivered_tidy forward s
  have hr : Tidy (chooseEdge (countDelivered forward s)) (beltCount forward s) := reportAll_tidy _ _
  refine ⟨fun h => hr.due (by rw [chooseEdge_due]; exact hd.due h), ?_⟩
  rw [hr.awaited, ← hd.awaited, ← countDelivered_pending forward s]
  exact chooseEdge_awaited _

theorem encoderSample_ends (a b : Bool) (s : State) : (s.bus.due = [] → (encoderSample a b s).bus.due = []) ∧
    ((encoderSample a b s).belt.awaited = s.belt.awaited ∨
      ∃ e rest, (encoderSample a b s).belt.awaited = some e ∧ s.pending = .eyeLeadingEdge e :: rest) := by
  unfold encoderSample
  simp only
  split
  · exact ⟨id, .inl rfl⟩
  · rename_i forward _
    split
    · have h := beltCount_ends forward { s with lines := { s.lines with encA := a, encB := b } }
      exact ⟨h.1, h.2⟩
    · exact ⟨id, .inl rfl⟩

theorem encoderSample_pending (a b : Bool) (s : State) :
    (encoderSample a b s).pending = s.pending ∧ (encoderSample a b s).inReset = s.inReset := by
  unfold encoderSample
  simp only
  split
  · exact ⟨rfl, rfl⟩
  · split
    · have h := beltCount_lawful (by assumption) { s with lines := { s.lines with encA := a, encB := b } }
      exact ⟨h.pending, h.inReset⟩
    · exact ⟨rfl, rfl⟩

/-- A leading edge that has been taken is awaited no more. -/
theorem leadingEdge_ends (e : Eye) (s : State) : (s.bus.due = [] → (leadingEdge e s).bus.due = []) ∧
    (leadingEdge e s).belt.awaited = none := by
  have taken : Tidy s (if (eyeOf s e).present then s else eyeBlocked e s) := .ite (.refl s) (eyeBlocked_tidy e s)
  unfold leadingEdge
  simp only
  split
  · have held := reportAll_tidy (onBeltUnit (fun b => { b with awaited := none })
      (if (eyeOf s e).present then s else eyeBlocked e s)).belt.register.length.succ
      (onBeltUnit (fun b => { b with awaited := none }) (if (eyeOf s e).present then s else eyeBlocked e s))
    exact ⟨fun h => held.due (taken.due h), held.awaited⟩
  · rename_i hn
    exact ⟨taken.due, taken.awaited.trans (by simpa using hn)⟩

/-! ## Every step -/

theorem exec_due {c : Instr} {s t : State} (h : exec c s = .next t) (hd : s.bus.due = []) : t.bus.due = [] := by
  rcases exec_cases h with ⟨-, -, rfl⟩ | ⟨-, rfl⟩ | ⟨-, -, rfl⟩
  · refine (settle_quiet _).due ?_
    by_cases hr : ∃ r, c = .reset r
    · obtain ⟨r, rfl⟩ := hr
      exact (resetPart_ends r s).1
    by_cases hc : ∃ a b, c = .encoderCount a b
    · obtain ⟨a, b, rfl⟩ := hc
      exact (encoderSample_ends a b s).1 hd
    by_cases he : ∃ e, c = .eyeLeadingEdge e
    · obtain ⟨e, rfl⟩ := he
      exact (leadingEdge_ends e s).1 hd
    · push Not at hr hc he
      exact (effect_tidy hr hc he s).due hd
  · exact hd
  · exact hd

/-- With no edge awaited a command leaves none, but a count in front of the edge. -/
theorem exec_awaits {c : Instr} {s t : State} (h : exec c s = .next t) (ha : s.belt.awaited = none) : AwaitLaw t := by
  rcases exec_cases h with ⟨hs, -, rfl⟩ | ⟨-, rfl⟩ | ⟨-, -, rfl⟩
  · have settled := (settle_quiet (effect c s)).awaited
    by_cases hr : ∃ r, c = .reset r
    · obtain ⟨r, rfl⟩ := hr
      exact .inl (settled.trans (resetPart_ends r s).2)
    by_cases hc : ∃ a b, c = .encoderCount a b
    · obtain ⟨a, b, rfl⟩ := hc
      obtain ⟨hp, hi⟩ := encoderSample_pending a b s
      rcases (encoderSample_ends a b s).2 with hw | ⟨e, rest, hw, hq⟩
      · exact .inl (settled.trans (hw.trans ha))
      · exact .inr ⟨(settle_calm _).inReset.trans (hi.trans (hs.resolve_left (by simp))), e, rest, settled.trans hw,
          (settle_calm _).pending.trans (hp.trans hq)⟩
    by_cases he : ∃ e, c = .eyeLeadingEdge e
    · obtain ⟨e, rfl⟩ := he
      exact .inl (settled.trans (leadingEdge_ends e s).2)
    · push Not at hr hc he
      exact .inl (settled.trans ((effect_tidy hr hc he s).awaited.trans ha))
  · exact .inl ha
  · exact .inl ha

/-- An awaited edge, taken in a part out of reset, is awaited no more. -/
theorem exec_edge {e : Eye} {s t : State} (hs : s.inReset = false) (h : exec (.eyeLeadingEdge e) s = .next t) : AwaitLaw t := by
  rw [exec_ready (by simp) (by simp) hs] at h
  cases h
  exact .inl ((settle_quiet _).awaited.trans (leadingEdge_ends e s).2)

theorem exec_owed {c : Instr} {s t : State} (h : exec c s = .next t) (ho : s.owed = []) : t.owed = [] := by
  rcases exec_cases h with ⟨-, -, rfl⟩ | ⟨-, rfl⟩ | ⟨-, -, rfl⟩
  · exact settle_owed _
  · exact ho
  · exact ho

/-- The time base moves no output line and leaves what is owed, due and awaited. -/
theorem idle_leaves (s : State) : (idle s).pins = s.pins ∧ pinsOf (idle s) = pinsOf s ∧ (idle s).owed = s.owed ∧
    (idle s).bus = s.bus ∧ (idle s).belt = s.belt := by
  unfold idle
  split
  · exact ⟨rfl, rfl, rfl, rfl, rfl⟩
  · split
    · rw [tick_eq]
      exact ⟨rfl, rfl, rfl, rfl, rfl⟩
    · exact ⟨rfl, rfl, rfl, rfl, rfl⟩
    · exact ⟨rfl, rfl, rfl, rfl, rfl⟩

/-- Settles O11: an edge awaited is the command at the front of the queue, so that the next step takes it. -/
theorem everyStepKeepsPinsInStep : Obligations.EveryStepKeepsPinsInStep := by
  intro s t h
  rcases step_cases h with ⟨hp, rfl⟩ | ⟨c, rest, hp, h⟩
  · obtain ⟨pins, same, owed, bus, belt⟩ := idle_leaves s
    refine ⟨fun k => pins.trans (k.trans same.symm), owed.trans, fun k => by rw [bus]; exact k, fun k => .inl ?_⟩
    rcases k with k | ⟨-, e, rest, -, hq⟩
    · rw [belt, k]
    · rw [hp] at hq; cases hq
  · refine ⟨fun k => ?_, fun k => exec_owed h k, fun k => exec_due h k, fun k => ?_⟩
    · rcases exec_pins h with hn | ⟨-, rfl⟩
      · exact hn
      · exact k
    · rcases k with k | ⟨hs, e, rest', -, hq⟩
      · exact exec_awaits (s := { s with pending := rest }) h k
      · obtain ⟨rfl, -⟩ := List.cons.inj (hp.symm.trans hq)
        exact exec_edge (s := { s with pending := rest }) hs h

end Sys2Proof.Machine
end

section
/-! PROOFS. JAMCLR_N (R9): JAM and STALL leave, and EYE_IN is brought into agreement (R6), found clear or blocked. -/

namespace Sys2Proof.Machine

/-! ## JAM and STALL leave the set -/

theorem clearJamStall_reasons {n : Nat} {d : Drive} (h : (d.reasons.jam || d.reasons.stall) = true) :
    (clearJamStall n d).reasons = { d.reasons with jam := false, stall := false } := by
  rw [clearJamStall, if_pos h, examine_reasons]

theorem clearJamStall_halted {n : Nat} {d : Drive} (h : (d.reasons.jam || d.reasons.stall) = true) (hs : d.state = .halted) :
    clearJamStall n d = { d with reasons := { d.reasons with jam := false, stall := false }, stall := 0 } := by
  rw [clearJamStall, if_pos h]
  exact examine_halted _ hs

theorem jamsGone_drive (s : State) : (jamsGone s).drive = clearJamStall (cfg s).rRun s.drive := (followHold_sends _).drive

theorem jamsGone_belt (s : State) : (jamsGone s).belt = s.belt := (followHold_sends _).belt

theorem jamsGone_tracker (s : State) : (jamsGone s).tracker = s.tracker := (followHold_sends _).tracker

theorem jamsGone_loader (s : State) : (jamsGone s).loader = s.loader := (followHold_sends _).loader

theorem jamsGone_steady {s : State} (h : jammed s = true) : steady (jamsGone s) =
    steady { s with drive := { s.drive with reasons := { s.drive.reasons with jam := false, stall := false } } } := by
  refine (followHold_calm _).steady.trans ?_
  simp only [steady, onDrive, clearJamStall_reasons h]

/-! ## EYE_IN is brought into agreement (R6) -/

theorem steady_updateEye (e : Eye) (f : EyeState → EyeState) (s : State) : steady (updateEye e f s) = updateEye e f (steady s) := rfl

/-- R6: found clear, EYE_IN has its trailing edge pending where its delivered level is blocked. -/
theorem resyncEntry_clear {s : State} (h : s.belt.eyes.entry.present = false) : resyncEntry s =
    updateEye .entry (fun x => { x with trailing := if x.delivered then some s.belt.d else x.trailing }) s := by
  simp only [resyncEntry, h, Bool.false_eq_true, if_false]
  cases hd : s.belt.eyes.entry.delivered
  · simp only [updateEye, onBeltUnit, Eyes.update, hd, Bool.false_eq_true, if_false]
    rw [← hd]
  · simp [updateEye, onBeltUnit, Eyes.update, hd]

/-- R27: a jam point that D has not reached is registered. -/
theorem putJamPoint_ahead {s : State} {p : Pos} (h : reached s.belt.d (p + mm (cfg s).lJam) = false) :
    putJamPoint p s = holdPosition .jamPoint (p + mm (cfg s).lJam) (withdraw .jamPoint s) := if_neg (by simpa using h)

theorem mem_holdPosition (i : Item) (p : Pos) (s : State) : (⟨i, p⟩ : Registration) ∈ (holdPosition i p s).belt.register := by
  simp [holdPosition]

theorem resyncEntry_blocked {s : State} (h : s.belt.eyes.entry.present = true) : resyncEntry s =
    if s.belt.eyes.entry.delivered then putJamPoint s.belt.d s else
      leadingDelivered .entry s.belt.d (updateEye .entry (fun x => { x with delivered := true }) s) := by
  rw [resyncEntry, if_pos h, deliverLeading]
  split
  · rfl
  · exact if_neg (by assumption)

/-! ## What hands an arrival on -/

/-- A quiet operation beside the drive, the eyes, D, the Loader and the queue's slots and counts. -/
structure Aside (s t : State) : Prop extends Quiet s t where
  drive : t.drive = s.drive
  loader : t.loader = s.loader
  d : t.belt.d = s.belt.d
  eyes : t.belt.eyes = s.belt.eyes
  entered : t.tracker.entered = s.tracker.entered
  overrun : t.tracker.overrun = s.tracker.overrun
  slots : segmentSlots t = segmentSlots s

namespace Aside
variable {s t u : State}

theorem refl (s : State) : Aside s s := ⟨.refl s, rfl, rfl, rfl, rfl, rfl, rfl, rfl⟩

theorem trans (h : Aside s t) (k : Aside t u) : Aside s u :=
  ⟨h.toQuiet.trans k.toQuiet, k.drive.trans h.drive, k.loader.trans h.loader, k.d.trans h.d, k.eyes.trans h.eyes,
   k.entered.trans h.entered, k.overrun.trans h.overrun, k.slots.trans h.slots⟩

theorem ite {p : Prop} [Decidable p] (ht : Aside s t) (hu : Aside s u) : Aside s (if p then t else u) := by
  split
  · exact ht
  · exact hu

theorem cfg (h : Aside s t) : Machine.cfg t = Machine.cfg s := by rw [Machine.cfg, h.loader]; rfl

end Aside

theorem Sends.aside {s t : State} (h : Sends s t) : Aside s t :=
  ⟨h.quiet, h.drive, h.loader, by rw [h.belt], by rw [h.belt], by rw [h.tracker], by rw [h.tracker],
   by rw [segmentSlots, h.tracker]; rfl⟩

theorem updateBag_aside (slot : Nat) (f : BagRecord → BagRecord) (s : State) (h : ∀ b, (f b).slot = b.slot) :
    Aside s (updateBag slot f s) :=
  ⟨.beside (by rfl), rfl, rfl, rfl, rfl, rfl, rfl, segmentSlots_updateBag _ _ _ (fun b _ => h b)⟩

theorem withdraw_aside {i : Item} (h : i ≠ .jamPoint) (s : State) : Aside s (withdraw i s) :=
  ⟨withdraw_quiet i s h, rfl, rfl, rfl, rfl, rfl, rfl, rfl⟩

theorem holdPosition_aside (i : Item) (p : Pos) (s : State) : Aside s (holdPosition i p s) :=
  ⟨holdPosition_quiet i p s, rfl, rfl, rfl, rfl, rfl, rfl, rfl⟩

/-- R3: an offered position that D has not reached is only registered. -/
theorem offerPosition_aside {i : Item} {p : Pos} {report : State → State} {s : State} (hi : i ≠ .jamPoint)
    (h : reached s.belt.d p = false) : Aside s (offerPosition i p report s) := by
  rw [offerPosition, if_neg (by simp [h])]
  exact (withdraw_aside hi s).trans (holdPosition_aside i p _)

theorem claimEnds_aside (slot : Nat) (s : State) : Aside s (claimEnds slot s) := updateBag_aside _ _ s (fun _ => rfl)

theorem putOccupancy_aside (n : Nat) (s : State) : Aside s (putOccupancy n s) :=
  have set : Aside s { s with flow := { s.flow with occupancy := n, demand := demandAt (cfg s) n s.flow.demand } } :=
    ⟨.beside (by rfl), rfl, rfl, rfl, rfl, rfl, rfl, rfl⟩
  set.trans (followHold_sends _).aside

theorem occupancyRise_aside (s : State) : Aside s (occupancyRise s) := putOccupancy_aside _ s

theorem matchEntry_aside (slot : Nat) (x : ExpectedEntry) (s : State) : Aside s (matchEntry slot x s) := by
  have matched : Aside s (updateBag slot (matchedRecord x) s) := updateBag_aside _ _ s (fun _ => rfl)
  have marked : ∀ u, Aside u (markDuplicate (.bag slot) u) := fun u => updateBag_aside _ _ u (fun _ => rfl)
  have left : ∀ u, Aside u (removeEntry x.source x.id (takeWaiterPlace (.entry x.source x.id) (.bag slot) u)) :=
    fun u => ⟨.beside (by rfl), rfl, rfl, rfl, rfl, rfl, rfl, rfl⟩
  have gone : ∀ u, Aside u (occupancyFall (withdraw (.windowEnd x.source x.id) u)) :=
    fun u => (withdraw_aside (by simp) u).trans (putOccupancy_aside _ _)
  exact Aside.trans (.ite (matched.trans (marked _)) matched) ((left _).trans (gone _))

theorem leaveUnannounced_aside (slot : Nat) (e : Pos) (s : State) : Aside s (leaveUnannounced slot e s) := by
  have claimable : Aside s (updateBag slot (fun b => { b with flags := { b.flags with claimable := true } }) s) :=
    updateBag_aside _ _ s (fun _ => rfl)
  have withdrawn : ∀ u, Aside u (withdraw (.claimEnd slot) u) := withdraw_aside (by simp)
  exact claimable.trans (.ite ((withdrawn _).trans (claimEnds_aside _ _))
    (.ite ((withdrawn _).trans (claimEnds_aside _ _)) ((withdrawn _).trans (holdPosition_aside _ _ _))))

theorem matchArrival_aside (slot : Nat) (e : Pos) (s : State) : Aside s (matchArrival slot e s) := by
  unfold matchArrival; split
  · exact matchEntry_aside _ _ s
  · exact leaveUnannounced_aside _ _ s

/-- R21: a new record none of whose positions D has reached. -/
theorem handOn_aside {b : BagRecord} {s : State} (h : ∀ n ∈ [(cfg s).readerPosition, (cfg s).decisionPosition,
    (cfg s).exitPosition + (cfg s).exitTolerance], reached s.belt.d (b.entry + mm n) = false) : Aside s (handOn b s) := by
  simp only [List.mem_cons, List.not_mem_nil, or_false, forall_eq_or_imp, forall_eq] at h
  obtain ⟨hr, hd, hl⟩ := h
  have matched := matchArrival_aside b.slot b.entry s
  have read := matched.trans (offerPosition_aside (i := .readerPosition b.slot) (report := readerReached b.slot) (by simp)
    (matched.d ▸ hr))
  have decided := read.trans (offerPosition_aside (i := .decisionPosition b.slot) (report := decideBag b.slot) (by simp)
    (read.d ▸ hd))
  have counted := decided.trans ((occupancyRise_aside _).trans (countEvent_sends .entries _).aside)
  exact counted.trans (offerPosition_aside (i := .lostPoint b.slot) (by simp) (counted.d ▸ hl))

/-! ## The leading edge that JAMCLR_N delivers (R20, R22) -/

/-- What a leading edge at D leaves where D has reached none of the positions it registers: a record or, in a full queue, an
overrun, and the jam point either way. -/
structure EdgeTaken (s t : State) : Prop where
  drive : t.drive = s.drive
  eyes : t.belt.eyes = s.belt.eyes
  jam : (⟨.jamPoint, s.belt.d + mm (cfg s).lJam⟩ : Registration) ∈ t.belt.register
  record : s.tracker.segment.length < 32 → t.tracker.entered = s.tracker.entered + 1 ∧
    segmentSlots t = segmentSlots s ++ [freeSlot s] ∧ t.tracker.overrun = s.tracker.overrun
  full : 32 ≤ s.tracker.segment.length → t.tracker.entered = s.tracker.entered ∧ segmentSlots t = segmentSlots s ∧
    t.tracker.overrun = s.tracker.overrun + 1

section
variable {s : State} (hj : reached s.belt.d (s.belt.d + mm (cfg s).lJam) = false)
include hj

theorem arrival_edgeTaken (hl : s.tracker.segment.length < 32) (h : ∀ n ∈ [(cfg s).readerPosition, (cfg s).decisionPosition,
    (cfg s).exitPosition + (cfg s).exitTolerance], reached s.belt.d (entryPosition s.tracker s.belt.d + mm n) = false) :
    EdgeTaken s (arrival s.belt.d s) := by
  have ha : arrival s.belt.d s = handOn (newRecord s (entryPosition s.tracker s.belt.d))
      (holdPosition .jamPoint (s.belt.d + mm (cfg s).lJam)
        (withdraw .jamPoint (joinQueue (newRecord s (entryPosition s.tracker s.belt.d)) s))) :=
    congrArg (handOn _) (putJamPoint_ahead (s := joinQueue _ s) hj)
  have handed := handOn_aside (b := newRecord s (entryPosition s.tracker s.belt.d))
    (s := holdPosition .jamPoint (s.belt.d + mm (cfg s).lJam)
      (withdraw .jamPoint (joinQueue (newRecord s (entryPosition s.tracker s.belt.d)) s))) h
  rw [← ha] at handed
  refine ⟨handed.drive, handed.eyes, handed.jam _ (mem_holdPosition _ _ _), fun _ => ⟨handed.entered, ?_, handed.overrun⟩,
    fun hf => absurd hl (not_lt.2 hf)⟩
  rw [handed.slots]
  simp [segmentSlots, holdPosition, withdraw, joinQueue, newRecord]

theorem overrunArrival_edgeTaken (hl : 32 ≤ s.tracker.segment.length) : EdgeTaken s (overrunArrival s.belt.d s) := by
  obtain ⟨u, strayed, hu⟩ : ∃ u, Aside (onTracker (fun t => { t with overrun := t.overrun + 1 }) s) u ∧
      overrunArrival s.belt.d s = putJamPoint s.belt.d u := ⟨_, (handStray_sends _ _).aside, rfl⟩
  have hc : cfg u = cfg s := strayed.cfg
  rw [hu, putJamPoint_ahead (by rw [strayed.d, hc]; exact hj), hc]
  exact ⟨strayed.drive, strayed.eyes, mem_holdPosition _ _ _, fun hf => absurd hl (not_le.2 hf),
    fun _ => ⟨strayed.entered, strayed.slots, strayed.overrun⟩⟩

theorem entryLeading_edgeTaken (h : ∀ n ∈ [(cfg s).readerPosition, (cfg s).decisionPosition,
    (cfg s).exitPosition + (cfg s).exitTolerance], reached s.belt.d (entryPosition s.tracker s.belt.d + mm n) = false) :
    EdgeTaken s (entryLeading s.belt.d s) := by
  unfold entryLeading
  split
  · exact arrival_edgeTaken hj (by assumption) h
  · exact overrunArrival_edgeTaken hj (not_lt.1 (by assumption))

end

/-- R6: found blocked with its level not delivered, EYE_IN delivers its leading edge at D. -/
theorem resyncEntry_edgeTaken {s : State} (hp : s.belt.eyes.entry.present = true) (hd : s.belt.eyes.entry.delivered = false)
    (ha : acting s = true) (hj : reached s.belt.d (s.belt.d + mm (cfg s).lJam) = false)
    (h : ∀ n ∈ [(cfg s).readerPosition, (cfg s).decisionPosition, (cfg s).exitPosition + (cfg s).exitTolerance],
      reached s.belt.d (entryPosition s.tracker s.belt.d + mm n) = false) :
    EdgeTaken (updateEye .entry (fun x => { x with delivered := true }) s) (resyncEntry s) := by
  have hr : resyncEntry s = entryLeading s.belt.d (updateEye .entry (fun x => { x with delivered := true }) s) := by
    rw [resyncEntry_blocked hp, if_neg (by simp [hd])]
    exact if_pos ha
  rw [hr]
  exact entryLeading_edgeTaken (s := updateEye .entry (fun x => { x with delivered := true }) s) hj h

/-! ## JAMCLR_N -/

theorem jamclr_effect (s : State) : effect .jamclrActivation s =
    if jammed s then resyncEntry (jamsGone (putJamclrLine s)) else putJamclrLine s := rfl

theorem exec_jamclr {s : State} (h : Ready s) (hj : jammed s = true) :
    exec .jamclrActivation s = .next (settle (resyncEntry (jamsGone (putJamclrLine s)))) := by
  rw [exec_ready (by simp) (by simp) h.1, jamclr_effect, if_pos hj]

/-- Settles O26: the line is taken, JAM and STALL leave the set, and EYE_IN, found clear or blocked, is brought into agreement. -/
theorem jamClearRemovesJamAndStall : Obligations.JamClearRemovesJamAndStall := by
  intro s h taken
  have jammed_of : (s.drive.reasons.jam = true ∨ s.drive.reasons.stall = true) → jammed s = true := fun hr => by
    rcases hr with hr | hr <;> simp [jammed, hr]
  refine ⟨fun hj hs => ?_, fun hr hp => ?_, fun hr hp ha => ?_⟩
  · exact exec_calm (by simp) (by simp) h ((jamclr_effect s).trans (if_neg (by simp [jammed, hj, hs]))) h.2.1
  all_goals
    have hj := jammed_of hr
    rw [exec_jamclr h hj]
    have hbelt : (jamsGone (putJamclrLine s)).belt = s.belt := jamsGone_belt _
    have hdrive : (jamsGone (putJamclrLine s)).drive = clearJamStall (cfg s).rRun s.drive := jamsGone_drive _
    have hloader : (jamsGone (putJamclrLine s)).loader = s.loader := jamsGone_loader _
    have hcfg : cfg (jamsGone (putJamclrLine s)) = cfg s := by rw [cfg, hloader]; rfl
    have htracker : (jamsGone (putJamclrLine s)).tracker = s.tracker := jamsGone_tracker _
    have hsteady := jamsGone_steady (s := putJamclrLine s) hj
    generalize jamsGone (putJamclrLine s) = w at hbelt hdrive hloader hcfg htracker hsteady ⊢
  · rw [resyncEntry_clear (by rw [hbelt]; exact hp), hbelt]
    refine ⟨_, rfl, ?_, fun hh => ?_⟩
    · rw [(settle_calm _).steady, steady_updateEye, hsteady, ← steady_updateEye]
      rfl
    · rw [clearJamStall_halted hj hh] at hdrive
      have coasts := (settle_calm (updateEye .entry (fun x =>
        { x with trailing := if x.delivered then some s.belt.d else x.trailing }) w)).coasts
      rw [updateEye_drive, hdrive] at coasts
      exact coasts hh
  · refine ⟨fun hd => ⟨_, rfl, ?_⟩, fun hd hact hpos => ⟨_, rfl, ?_⟩⟩
    · rw [resyncEntry_blocked (by rw [hbelt]; exact hp), hbelt, if_pos hd, putJamPoint_ahead (by rw [hbelt, hcfg]; exact ha), hcfg]
      exact ⟨(settle_calm _).steady.trans hsteady, (settle_quiet _).jam _ (mem_holdPosition _ _ _)⟩
    · have edge : EdgeTaken (updateEye .entry (fun x => { x with delivered := true }) w) (resyncEntry w) :=
        resyncEntry_edgeTaken (by rw [hbelt]; exact hp) (by rw [hbelt]; exact hd) (by rw [acting, hloader]; exact hact)
          (by rw [hbelt, hcfg]; exact ha) (by rw [hbelt, hcfg, htracker]; exact hpos)
      have ends := settle_calm (resyncEntry w)
      have reasons := clearJamStall_reasons (n := (cfg s).rRun) hj
      have hslots : segmentSlots w = segmentSlots s := by rw [segmentSlots, htracker]; rfl
      have hfree : freeSlot w = freeSlot s := by rw [freeSlot, hslots]; rfl
      rw [← hdrive] at reasons
      refine ⟨by rw [ends.jam, edge.drive, updateEye_drive, reasons], by rw [ends.stall, edge.drive, updateEye_drive, reasons],
        by rw [ends.eyes, edge.eyes, ← hbelt]; rfl, ?_, fun hl => ?_, fun hl => ?_⟩
      · rw [← hbelt, ← hcfg]
        exact (settle_quiet _).jam _ edge.jam
      · obtain ⟨entered, slots, overrun⟩ := edge.record (by rw [← htracker] at hl; exact hl)
        rw [ends.entered, ends.slots, ends.overrun, entered, slots, overrun, ← htracker, ← hslots, ← hfree]
        exact ⟨rfl, rfl, rfl⟩
      · obtain ⟨entered, slots, overrun⟩ := edge.full (by rw [← htracker] at hl; exact hl)
        rw [ends.entered, ends.slots, ends.overrun, entered, slots, overrun, ← htracker, ← hslots]
        exact ⟨rfl, rfl, rfl⟩

end Sys2Proof.Machine
end

section
/-! PROOFS. What every operation but the closing of a length and the joining of a record leaves of the segment queue (R17): one
relation, `Thins`. -/

namespace Sys2Proof.Machine

/-! ## The relation -/

/-- What the law of R17 reads of a record. -/
structure QueuePlace where
  slot : Nat
  entry : Pos
  length : Option Nat

/-- The place a record holds in the queue. -/
def BagRecord.place (b : BagRecord) : QueuePlace := ⟨b.slot, b.entry, b.length⟩

/-- The records of a queue, oldest first, as the law of R17 reads them. -/
def places (s : State) : List QueuePlace := s.tracker.segment.map BagRecord.place

/-- What a removal rests on: distinct slots, and no entry floor in an empty queue (R17). -/
structure Slotted (s : State) : Prop where
  slots : (segmentSlots s).Nodup
  empty : s.tracker.segment = [] → s.tracker.floor = none

/-- An operation that at most takes records out of the segment queue: none joins, moves or has its length closed; the entry floor
stands, or becomes absent with the queue empty (R28). The delivered level of EYE_IN stands and no trailing edge of it comes up. -/
structure Thins (s t : State) : Prop where
  acting : acting t = acting s
  delivered : t.belt.eyes.entry.delivered = s.belt.eyes.entry.delivered
  trailing : s.belt.eyes.entry.trailing = none → t.belt.eyes.entry.trailing = none
  places : Slotted s → (places t).Sublist (places s)
  floor : Slotted s → t.tracker.floor = if t.tracker.segment = [] then none else s.tracker.floor

theorem places_nil {s : State} : places s = [] ↔ s.tracker.segment = [] := List.map_eq_nil_iff

theorem segmentSlots_eq_places (s : State) : segmentSlots s = (places s).map QueuePlace.slot := by
  rw [places, List.map_map]
  rfl

namespace Thins

variable {s t u : State}

theorem slotted (h : Thins s t) (hs : Slotted s) : Slotted t := by
  refine ⟨?_, fun ht => by rw [h.floor hs, if_pos ht]⟩
  rw [segmentSlots_eq_places]
  exact (segmentSlots_eq_places s ▸ hs.slots).sublist ((h.places hs).map _)

theorem empty (h : Thins s t) (h0 : Slotted s) (hs : s.tracker.segment = []) : t.tracker.segment = [] := by
  have := h.places h0
  rw [places_nil.mpr hs] at this
  exact places_nil.mp (List.sublist_nil.mp this)

/-- The places and the floor stand. -/
theorem same (ha : Machine.acting t = Machine.acting s)
    (hd : t.belt.eyes.entry.delivered = s.belt.eyes.entry.delivered)
    (he : s.belt.eyes.entry.trailing = none → t.belt.eyes.entry.trailing = none)
    (hp : (segmentSlots s).Nodup → Machine.places t = Machine.places s) (hf : t.tracker.floor = s.tracker.floor) : Thins s t := by
  refine ⟨ha, hd, he, fun h0 => by rw [hp h0.slots], fun h0 => ?_⟩
  split
  · rename_i ht
    rw [hf, h0.empty (places_nil.mp (hp h0.slots ▸ places_nil.mpr ht))]
  · exact hf

/-- A change beside the node state, the eyes and the tracker. -/
theorem beside (h : (t.loader, t.belt.eyes, t.tracker) = (s.loader, s.belt.eyes, s.tracker)) : Thins s t := by
  simp only [Prod.mk.injEq] at h
  obtain ⟨hl, he, ht⟩ := h
  exact same (by rw [Machine.acting, hl]; rfl) (by rw [he]) (by rw [he]; exact id) (fun _ => by rw [Machine.places, ht]; rfl) (by rw [ht])

theorem refl (s : State) : Thins s s := .beside rfl

theorem trans (h : Thins s t) (k : Thins t u) : Thins s u := by
  refine ⟨k.acting.trans h.acting, k.delivered.trans h.delivered, k.trailing ∘ h.trailing,
    fun h0 => (k.places (h.slotted h0)).trans (h.places h0), fun h0 => ?_⟩
  rw [k.floor (h.slotted h0)]
  split
  · rfl
  · rename_i hu
    rw [h.floor h0, if_neg fun hn => hu (k.empty (h.slotted h0) hn)]

/-- An operation that thins, after a change beside the node state, the eyes and the tracker. -/
theorem after (h : Thins t u) (k : (t.loader, t.belt.eyes, t.tracker) = (s.loader, s.belt.eyes, s.tracker)) : Thins s u :=
  (beside k).trans h

theorem ite {p : Prop} [Decidable p] (ht : Thins s t) (hu : Thins s u) : Thins s (if p then t else u) := by
  split
  · exact ht
  · exact hu

/-- An operation that may be followed by another. -/
theorem iteElse {p : Prop} [Decidable p] (h : Thins s t) (k : Thins t u) : Thins s (if p then t else u) := .ite h (h.trans k)

theorem iteThen {p : Prop} [Decidable p] (h : Thins s t) (k : Thins t u) : Thins s (if p then u else t) := .ite (h.trans k) h

theorem foldl {α : Type} {f : State → α → State} (h : ∀ a x, Thins a (f a x)) (l : List α) (s : State) :
    Thins s (l.foldl f s) := by
  induction l generalizing s with
  | nil => exact .refl s
  | cons x l ih => exact (h s x).trans (ih _)

end Thins

theorem Calm.places {s t : State} (h : Calm s t) : Machine.places t = Machine.places s := by
  have := congrArg (List.map BagRecord.place) h.segment
  rwa [List.map_map, List.map_map] at this

theorem Calm.thins {s t : State} (h : Calm s t) : Thins s t :=
  .same h.acting (by rw [h.eyes]) (by rw [h.eyes]; exact id) (fun _ => h.places) h.floor

theorem places_updateBag (slot : Nat) (f : BagRecord → BagRecord) (s : State)
    (h : ∀ b ∈ s.tracker.segment, b.slot = slot → (f b).place = b.place) : places (updateBag slot f s) = places s := by
  simp only [places, updateBag, List.map_map]
  refine List.map_congr_left fun b hb => ?_
  simp only [Function.comp]
  split
  · exact h b hb (by assumption)
  · rfl

theorem updateBag_thins (slot : Nat) (f : BagRecord → BagRecord) (s : State) (h : ∀ b, (f b).place = b.place := by exact fun _ => rfl) :
    Thins s (updateBag slot f s) :=
  .same rfl rfl id (fun _ => places_updateBag slot f s fun b _ _ => h b) rfl

theorem updateEntry_thins (source id : Byte) (f : ExpectedEntry → ExpectedEntry) (s : State) :
    Thins s (updateEntry source id f s) := .beside rfl

theorem onReader_thins (f : ReaderLink → ReaderLink) (s : State) : Thins s (onReader f s) := .beside rfl

theorem onBus_thins (f : Bus → Bus) (s : State) : Thins s (onBus f s) := .beside rfl

theorem onDrive_thins (f : Drive → Drive) (s : State) : Thins s (onDrive f s) := .beside rfl

/-- A change of the Loader beside the node state. -/
theorem onLoader_thins (f : Loader → Loader) (s : State) (h : (f s.loader).node = s.loader.node) : Thins s (onLoader f s) :=
  .same (by rw [acting, onLoader_loader, h]; rfl) rfl id (fun _ => rfl) rfl

theorem updateRow_thins (o : Outlet) (f : RouteRow → RouteRow) (s : State) : Thins s (updateRow o f s) := .beside rfl

theorem putSet_thins (i : Nat) (w : List Way) (s : State) : Thins s (putSet i w s) := .beside rfl

/-- A change of an eye that keeps the delivered level of EYE_IN and brings up no trailing edge of it. -/
theorem updateEye_thins (e : Eye) (f : EyeState → EyeState) (s : State)
    (h : e = .entry → ∀ x, (f x).delivered = x.delivered ∧ (x.trailing = none → (f x).trailing = none)) :
    Thins s (updateEye e f s) := by
  cases e
  · exact .same rfl (h rfl _).1 (h rfl _).2 (fun _ => rfl) rfl
  all_goals exact .same rfl rfl id (fun _ => rfl) rfl

theorem offerPosition_thins (i : Item) (p : Pos) {report : State → State} (s : State) (h : ∀ t, Thins t (report t)) :
    Thins s (offerPosition i p report s) :=
  .ite ((withdraw_calm i s).thins.trans (h _)) ((withdraw_calm i s).thins.trans (.beside rfl))

/-! ## The Route Cache and the Query Table -/

theorem considerOffer_thins (e : CacheEntry) (r : Bool) (s : State) : Thins s (considerOffer e r s) :=
  .ite (putSet_thins _ _ s) (.refl s)

theorem copyPart_thins (l : Live) (p : ManifestPart) (s : State) : Thins s (copyPart l p s) := by
  cases l
  · exact updateBag_thins _ _ s
  · exact updateEntry_thins _ _ _ s

theorem setStatus_thins (l : Live) (st : RouteStatus) (s : State) : Thins s (setStatus l st s) := (setStatus_calm l st s).thins

theorem lookup_thins (l : Live) (s : State) : Thins s (lookup l s) := by
  unfold lookup; split
  · exact .refl s
  · split
    · split
      · exact ((copyPart_thins _ _ _).trans (redecideServed_calm _ _).thins).after rfl
      · exact (queryMiss_calm _ _ _).thins.after rfl
    · exact .refl s

theorem serveLives_thins (p : ManifestPart) (ls : List Live) (s : State) : Thins s (serveLives p ls s) :=
  .foldl (fun a l => copyPart_thins l p a) _ s

theorem serveQuery_thins (pl : Nat) (p : ManifestPart) (s : State) : Thins s (serveQuery pl p s) :=
  (retireQuery_calm pl s).thins.trans (serveLives_thins _ _ _)

theorem answerFound_thins (pl : Nat) (p : ManifestPart) (e : Byte) (s : State) : Thins s (answerFound pl p e s) :=
  (serveQuery_thins pl p s).trans ((serveLives_thins _ _ _).trans
    ((redecideServed_calm _ _).thins.trans (considerOffer_thins _ _ _)))

theorem handoffOffer_thins (pl : Nat) (p : ManifestPart) (r : Bool) (s : State) : Thins s (handoffOffer pl p r s) := by
  unfold handoffOffer; split
  · exact .refl s
  · exact (serveQuery_thins pl p s).trans (considerOffer_thins _ _ _)

theorem applyUpdate_thins (pl : Nat) (p : ManifestPart) (e : Byte) (s : State) : Thins s (applyUpdate pl p e s) :=
  (serveQuery_thins pl p s).trans ((considerOffer_thins _ _ _).trans
    ((serveLives_thins _ _ _).trans (redecideServed_calm _ _).thins))

theorem serveFromCache_thins (pl : Nat) (s : State) : Thins s (serveFromCache pl s) := by
  unfold serveFromCache; split
  · exact .refl s
  · exact serveQuery_thins _ _ s

theorem newEpoch_thins (e : Byte) (s : State) : Thins s (newEpoch e s) := by
  have epoch : Thins s { s with cache := { s.cache with epoch := e } } := .beside rfl
  exact epoch.trans ((Thins.foldl (fun a p => serveFromCache_thins p a) _ _).trans
    ((redecideServed_calm _ _).thins.trans (.beside rfl)))

theorem walkStep_thins (s : State) : Thins s (walkStep s) := by
  unfold walkStep; split
  · exact .refl s
  · exact .beside rfl

/-! ## Reader Link and identity -/

theorem markDuplicate_thins (l : Live) (s : State) : Thins s (markDuplicate l s) := by
  cases l
  · exact updateBag_thins _ _ s
  · exact updateEntry_thins _ _ _ s

theorem duplicateCheck_thins (l : Live) (s : State) : Thins s (duplicateCheck l s) := by
  unfold duplicateCheck; split
  · exact .refl s
  · refine .ite (.refl s) (.foldl (fun a m => ?_) _ s)
    split
    · exact .refl a
    · exact .ite (markDuplicate_thins _ a) (.refl a)

theorem lateStray_thins (slot : Nat) (r : StrayReason) (s : State) : Thins s (lateStray slot r s) := by
  unfold lateStray; split
  · exact .refl s
  · exact .ite (.refl s) ((updateBag_thins _ _ s).trans (handStray_calm _ _).thins)

theorem resolveLate_thins (slot : Nat) (r : ReadResult) (s : State) : Thins s (resolveLate slot r s) := by
  unfold resolveLate; split
  · exact .refl s
  · split
    · exact .refl s
    · refine .ite ((updateBag_thins _ _ s).trans (duplicateCheck_thins _ _)) (.ite ?_ ?_)
      · exact updateBag_thins _ _ s fun b => by split <;> rfl
      · exact (updateBag_thins _ _ s).trans (lateStray_thins _ _ _)
    · exact (updateBag_thins _ _ s).trans (lateStray_thins _ _ _)

theorem timelyRecord_place (r : ReadResult) (b : BagRecord) : (timelyRecord r b).place = b.place := by
  unfold timelyRecord; split
  · split <;> rfl
  · split
    · rfl
    · split <;> rfl
  · unfold asBefore; split <;> rfl

theorem resolveTimely_thins (slot : Nat) (r : ReadResult) (s : State) : Thins s (resolveTimely slot r s) :=
  (updateBag_thins slot _ s (timelyRecord_place r)).iteElse (duplicateCheck_thins _ _)

theorem resolveAgain_thins (slot : Nat) (s : State) : Thins s (resolveAgain slot s) := by
  unfold resolveAgain; split
  · exact .refl s
  · split
    · exact .refl s
    · exact .ite (resolveLate_thins _ _ s) (resolveTimely_thins _ _ s)

theorem deliver_thins (slot : Nat) (r : ReadResult) (s : State) : Thins s (deliver slot r s) := by
  unfold deliver; split
  · exact .refl s
  · simp only
    refine Thins.iteElse ?_ (lookup_thins _ _)
    refine Thins.iteThen ?_ (countEvent_calm _ _).thins
    refine Thins.trans ?_ (watchPlates_calm _ _ _).thins
    exact (updateBag_thins _ _ s).trans (.ite (resolveLate_thins _ _ _) (resolveTimely_thins _ _ _))

theorem readerReached_thins (slot : Nat) (s : State) : Thins s (readerReached slot s) :=
  .ite (deliver_thins _ _ s) (.ite (onReader_thins _ s) (.ite (onReader_thins _ s) (deliver_thins _ _ s)))

theorem checkDown_thins (s : State) : Thins s (checkDown s) := by
  unfold checkDown; split
  · exact (onReader_thins _ s).trans (.foldl (fun a i => deliver_thins i .noRead a) _ _)
  · exact .refl s

theorem readAnswered_thins (slot : Option Nat) (r : ReadResult) (s : State) : Thins s (readAnswered slot r s) := by
  unfold readAnswered
  simp only
  refine Thins.trans ?_ (onReader_thins _ _)
  split
  · exact onReader_thins _ s
  · exact (onReader_thins _ s).trans (deliver_thins _ _ _)

theorem readMissed_thins (slot : Option Nat) (s : State) : Thins s (readMissed slot s) := by
  unfold readMissed
  simp only
  refine Thins.trans ?_ ((checkDown_thins _).trans (onReader_thins _ _))
  split
  · exact onReader_thins _ s
  · exact (onReader_thins _ s).trans (deliver_thins _ _ _)

/-! ## The Handoff Controller -/

theorem putOccupancy_thins (n : Nat) (s : State) : Thins s (putOccupancy n s) :=
  Thins.trans (t := atOccupancy n s) (.beside rfl) (putOccupancy_calm n s).thins

theorem writeHistory_thins (d : Departure) (s : State) : Thins s (writeHistory d s) := by
  have put : ∀ (t : State) (l : List Departure), Thins t { t with tracker := { t.tracker with history := l } } :=
    fun _ _ => .same rfl rfl id (fun _ => rfl) rfl
  refine .ite (put s _) ?_
  split
  · exact (put s _).trans (put _ _)
  · exact (put s _).trans (.trans (.ite (countGiveUp_calm _ _).thins (.refl _)) (put _ _))

theorem enterHistory_thins (o : Outlet) (v : Leaving) (s : State) : Thins s (enterHistory o v s) := by
  unfold enterHistory
  simp only
  split
  · exact writeHistory_thins _ s
  · exact ((writeHistory_thins _ _).trans (makeAttempt_calm _ _ _).thins).after rfl

theorem entryMissing_thins (source id : Byte) (s : State) : Thins s (entryMissing source id s) := by
  unfold entryMissing; split
  · exact .refl s
  · simp only
    refine Thins.iteElse ?_ (beginSearch_calm _ _ _ _).thins
    have gone : Thins s (occupancyFall (removeEntry source id s)) := (putOccupancy_thins _ _).after rfl
    exact gone.trans ((leaveWaiters_calm (.entry source id) _).thins.trans ((handStray_calm _ _).thins.after rfl))

theorem entryOffer_thins (f : HandoffFields) (r : Bool) (s : State) : Thins s (entryOffer f r s) := by
  unfold entryOffer; split
  · exact (handoffOffer_thins _ _ _ s).trans (redecideServed_calm _ _).thins
  · exact .refl s

theorem entryLookup_thins (f : HandoffFields) (s : State) : Thins s (entryLookup f s) := .ite (.refl s) (lookup_thins _ s)

theorem makeEntry_thins (x : SourceConfig) (f : HandoffFields) (s : State) : Thins s (makeEntry x f s) := by
  have listed : Thins s (listedEntry x f s) := .beside rfl
  exact listed.trans ((offerPosition_thins (.windowEnd f.source f.id) (windowEndOf (newEntry s x f)) _
    (entryMissing_thins f.source f.id)).trans ((putOccupancy_thins _ _).trans ((duplicateCheck_thins _ _).trans
    ((entryOffer_thins _ _ _).trans ((entryLookup_thins _ _).trans
      ((watchCheck_calm _ _ _ _).trans (answerAccept_calm _ _)).thins)))))

theorem waiterMoved_thins (l : Live) (s : State) : Thins s (waiterMoved l s) := by
  unfold waiterMoved; split
  · exact .refl s
  · exact (leaveWaiters_calm l s).thins.iteThen ((setStatus_thins _ _ _).trans (lookup_thins _ _))

theorem resendEntry_thins (f : HandoffFields) (e : ExpectedEntry) (s : State) : Thins s (resendEntry f e s) := by
  unfold resendEntry
  simp only
  refine Thins.trans ?_ ((entryLookup_thins _ _).trans ((watchCheck_calm _ _ _ _).trans (answerAccept_calm _ _)).thins)
  refine Thins.iteElse ?_ ((waiterMoved_thins _ _).trans (duplicateCheck_thins _ _))
  refine Thins.trans ?_ (entryOffer_thins _ _ _)
  exact (updateEntry_thins _ _ _ s).iteThen (leaveWaiters_calm _ _).thins

theorem claimLookup_thins (slot : Nat) (s : State) : Thins s (claimLookup slot s) := by
  unfold claimLookup; split
  · exact .refl s
  · exact .ite (.refl s) ((setStatus_thins _ _ s).trans (lookup_thins _ _))

theorem countPass_place (s : State) (b : BagRecord) : (countPass s b).place = b.place := by unfold countPass; split <;> rfl

theorem claimOffer_thins (f : HandoffFields) (r : Bool) (s : State) : Thins s (claimOffer f r s) := by
  unfold claimOffer; split
  · exact handoffOffer_thins _ _ _ s
  · exact .refl s

theorem claimRedecide_thins (slot : Nat) (ls : List Live) (s : State) : Thins s (claimRedecide slot ls s) := by
  refine Thins.trans (updateBag_thins slot _ s fun b => ?_) (redecideServed_calm _ _).thins
  split
  · exact countPass_place s b
  · rfl

theorem claimRecord_thins (f : HandoffFields) (b : BagRecord) (s : State) : Thins s (claimRecord f b s) := by
  unfold claimRecord
  simp only
  refine Thins.trans ?_ ((watchCheck_calm _ _ _ _).thins.trans ((claimRedecide_thins _ _ _).trans (answerAccept_calm _ _).thins))
  refine Thins.trans ?_ ((resolveAgain_thins _ _).trans (claimLookup_thins _ _))
  refine Thins.iteElse ?_ ((waiterMoved_thins _ _).trans (duplicateCheck_thins _ _))
  refine Thins.trans ?_ (claimOffer_thins _ _ _)
  have claimed := (withdraw_calm (.claimEnd b.slot) s).thins.trans (updateBag_thins b.slot (claimedRecord f) _)
  split
  · exact claimed.trans ((copyPart_thins _ _ _).trans (leaveWaiters_calm _ _).thins)
  · exact claimed

theorem handoffTaken_thins (src : Byte) (p : HandoffPayload) (s : State) : Thins s (handoffTaken src p s) := by
  have taken : ∀ x f, Thins s (takeHandoff x f s) := fun x f => by
    unfold takeHandoff; split
    · exact resendEntry_thins _ _ s
    · refine .ite (answerAccept_calm _ s).thins ?_
      split
      · exact claimRecord_thins _ _ s
      · exact .ite (makeEntry_thins x f s) (offer_calm _ _ s).thins
  unfold handoffTaken; split
  · split
    · exact .refl s
    · exact taken _ _
  · exact .refl s

theorem claimEnds_thins (slot : Nat) (s : State) : Thins s (claimEnds slot s) := updateBag_thins _ _ s

theorem matchEntry_thins (slot : Nat) (x : ExpectedEntry) (s : State) : Thins s (matchEntry slot x s) := by
  unfold matchEntry
  simp only
  have matched := (updateBag_thins slot (matchedRecord x) s).iteThen
    (p := plateElsewhere x.plate slot x.source x.id (updateBag slot (matchedRecord x) s) = true) (markDuplicate_thins (.bag slot) _)
  exact matched.trans ((takeWaiterPlace_calm (.entry x.source x.id) (.bag slot) _).thins.trans ((putOccupancy_thins _ _).after rfl))

theorem leaveUnannounced_thins (slot : Nat) (e : Pos) (s : State) : Thins s (leaveUnannounced slot e s) :=
  (updateBag_thins slot (fun b => { b with flags := { b.flags with claimable := true } }) s).trans
    (.ite ((withdraw_calm _ _).thins.trans (claimEnds_thins slot _)) (offerPosition_thins _ _ _ (claimEnds_thins slot)))

theorem matchArrival_thins (slot : Nat) (e : Pos) (s : State) : Thins s (matchArrival slot e s) := by
  unfold matchArrival; split
  · exact matchEntry_thins _ _ s
  · exact leaveUnannounced_thins _ _ s

/-! ## Records that leave (R28, R29, R37) -/

theorem dropRecord_thins (slot : Nat) (s : State) : Thins s (onTracker (dropRecord slot) s) := by
  refine ⟨rfl, rfl, id, fun _ => List.filter_sublist.map _, fun _ => ?_⟩
  simp only [onTracker, dropRecord, List.isEmpty_iff]

theorem removeRecord_thins (slot : Nat) (s : State) : Thins s (removeRecord slot s) :=
  (withdrawRecord_calm slot s).thins.trans ((dropRecord_thins slot _).trans ((onReader_thins _ _).trans
    (((leaveWaiters_calm _ _).trans (bagLeft_calm slot _)).thins.trans
      ((putOccupancy_thins _ _).trans (stopperLeft_calm slot _).thins))))

theorem departRecord_thins (o : Outlet) (b : BagRecord) (s : State) : Thins s (departRecord o b s) :=
  Thins.trans (t := onTracker (fun t => { t with departed := t.departed + 1 }) s) (.same rfl rfl id (fun _ => rfl) rfl)
    ((removeRecord_thins b.slot _).trans (enterHistory_thins o _ _))

theorem loseRecord_thins (b : BagRecord) (r : StrayReason) (p : Disposition) (s : State) : Thins s (loseRecord b r p s) :=
  Thins.trans (t := onTracker (fun t => { t with lost := t.lost + 1 }) s) (.same rfl rfl id (fun _ => rfl) rfl)
    ((removeRecord_thins b.slot _).trans (handStray_calm _ _).thins)

theorem declareLost_thins (b : BagRecord) (s : State) : Thins s (declareLost b s) :=
  .ite (loseRecord_thins _ _ _ s) (loseRecord_thins _ _ _ s)

theorem lostReached_thins (slot : Nat) (s : State) : Thins s (lostReached slot s) := by
  unfold lostReached; split
  · exact .refl s
  · exact .ite (updateBag_thins _ _ s) (declareLost_thins _ s)

theorem confirmExpires_thins (slot : Nat) (s : State) : Thins s (confirmExpires slot s) := by
  unfold confirmExpires; split
  · exact .refl s
  · exact .ite ((updateBag_thins _ _ s).iteThen (declareLost_thins _ _)) (.refl s)

/-! ## The eyes and the positions -/

theorem raiseHalting_thins (x : StopReason) (s : State) : Thins s (raiseHalting x s) := by
  rcases h : hasReason s.drive.reasons x with _ | _
  · exact Thins.trans (t := raised x s) (.same rfl rfl (fun _ => rfl) (fun _ => rfl) rfl) (raiseHalting_calm h).thins
  · rw [raiseHalting_present h]
    exact .refl s

theorem putJamPoint_thins (p : Pos) (s : State) : Thins s (putJamPoint p s) := offerPosition_thins _ _ s (raiseHalting_thins .jam)

theorem writeOutcome_place (oc : Outcome) (b : BagRecord) : (writeOutcome oc b).place = b.place := by
  have := congrArg BagRecord.place (writeOutcome_fixed oc b)
  exact this

/-- The record that a slot holds, where the slots are distinct. -/
theorem findBag_unique {s : State} {slot : Nat} {b x : BagRecord} (hn : (segmentSlots s).Nodup) (h : findBag s slot = some b)
    (hx : x ∈ s.tracker.segment) (hs : x.slot = slot) : x = b :=
  List.inj_on_of_nodup_map hn hx (findBag_slot h).2 (hs.trans (findBag_slot h).1.symm)

theorem decideBag_thins (slot : Nat) (s : State) : Thins s (decideBag slot s) := by
  unfold decideBag; split
  · exact .refl s
  · rename_i b hb
    refine .ite (.refl s) (Thins.trans ?_
      ((strayOfOutcome_calm _ _ _ _).trans ((schedule_calm _ _ _).trans (handChosen_calm _ _))).thins)
    refine .same rfl rfl id (fun hn => places_updateBag slot _ s fun x hx hs => ?_) rfl
    rw [writeOutcome_place, countPass_place, findBag_unique hn hb hx hs]

theorem unknownObject_thins (o : Outlet) (s : State) : Thins s (unknownObject o s) := by
  have counted : Thins s (onTracker (fun t => { t with unknown := t.unknown + 1 }) s) := .same rfl rfl id (fun _ => rfl) rfl
  exact (counted.trans (handStray_calm _ _).thins).iteThen (enterHistory_thins _ _ _)

theorem overrunArrival_thins (p : Pos) (s : State) : Thins s (overrunArrival p s) := by
  have counted : Thins s (onTracker (fun t => { t with overrun := t.overrun + 1 }) s) := .same rfl rfl id (fun _ => rfl) rfl
  exact counted.trans ((handStray_calm _ _).thins.trans (putJamPoint_thins _ _))

theorem chuteEdge_thins (k : Diverter) (s : State) : Thins s (chuteEdge k s) := by
  unfold chuteEdge; split
  · exact unknownObject_thins _ s
  · exact (updateBag_thins _ _ s).trans ((settleUncertain_calm _ _).thins.trans (departRecord_thins _ _ _))

theorem exitMatch_record {s : State} {p : Pos} {b : BagRecord} (h : exitMatch s p = some b) : b ∈ s.tracker.segment := by
  unfold exitMatch at h
  split at h
  · rename_i x hx
    rw [Option.some.injEq] at h
    exact h ▸ List.mem_of_find?_eq_some hx
  · exact List.mem_of_find?_eq_some h

theorem misroute_thins {b : BagRecord} {s : State} (hb : b ∈ s.tracker.segment) : Thins s (misroute b s) := by
  unfold misroute
  simp only
  refine Thins.trans ?_ ((handStray_calm _ _).thins.trans (departRecord_thins _ _ _))
  refine .same rfl rfl id (fun hn => places_updateBag b.slot _ s fun x hx hs => ?_) rfl
  rw [List.inj_on_of_nodup_map hn hx hb hs]
  rfl

theorem exitEdge_thins (p : Pos) (s : State) : Thins s (exitEdge p s) := by
  unfold exitEdge; split
  · exact unknownObject_thins _ s
  · rename_i b hb
    exact .ite ((settleUncertain_calm b s).thins.trans (departRecord_thins _ _ _)) (misroute_thins (exitMatch_record hb))

theorem reportPosition_thins (i : Item) (s : State) : Thins s (reportPosition i s) := by
  cases i
  · exact readerReached_thins _ s
  · exact decideBag_thins _ s
  · exact raiseHalting_thins _ s
  · exact lostReached_thins _ s
  · exact claimEnds_thins _ s
  · exact entryMissing_thins _ _ s
  · exact (fireWindow_calm _ _ s).thins
  · exact (releaseWindow_calm _ _ s).thins
  · exact (passReached_calm _ _ s).thins
  · exact (latchGate_calm _ s).thins

/-! ## The other eyes -/

theorem leadingDelivered_thins {e : Eye} (h : e ≠ .entry) (p : Pos) (s : State) : Thins s (leadingDelivered e p s) := by
  refine .ite ?_ (.refl s)
  cases e
  · exact absurd rfl h
  · exact exitEdge_thins p s
  · exact chuteEdge_thins _ s

theorem deliverLeading_thins {e : Eye} (h : e ≠ .entry) (s : State) : Thins s (deliverLeading e s) :=
  .ite (.refl s) ((updateEye_thins e _ s fun he => absurd he h).trans (leadingDelivered_thins h _ _))

theorem deliverTrailing_thins {e : Eye} (h : e ≠ .entry) (s : State) : Thins s (deliverTrailing e s) := by
  unfold deliverTrailing; split
  · exact .refl s
  · refine (updateEye_thins e _ s fun he => absurd he h).trans (.ite ?_ (.refl _))
    cases e
    · exact absurd rfl h
    · exact .refl _
    · exact .refl _

theorem eyeBlocked_thins {e : Eye} (h : e ≠ .entry) (s : State) : Thins s (eyeBlocked e s) := by
  have blocked := updateEye_thins e (fun x => { x with present := true }) s fun he => absurd he h
  unfold eyeBlocked
  refine .ite ?_ blocked
  split
  · exact blocked.trans (deliverLeading_thins h _)
  · exact .ite (blocked.trans ((deliverTrailing_thins h _).trans (deliverLeading_thins h _)))
      (blocked.trans (updateEye_thins e _ _ fun he => absurd he h))

theorem otherTrailing_thins (s : State) : Thins s (otherTrailing s) := by
  have delivered : ∀ e, e ≠ .entry → ∀ a, Thins a
      (if (eyeOf a e).trailing.any (chatterPassed a.belt.d) then deliverTrailing e a else a) :=
    fun e h a => .ite (deliverTrailing_thins h a) (.refl a)
  exact ((delivered _ (by simp) _).trans (delivered _ (by simp) _)).trans ((delivered _ (by simp) _).trans (delivered _ (by simp) _))

theorem chooseEdge_thins (s : State) : Thins s (chooseEdge s) := by
  unfold chooseEdge; split
  · exact .refl s
  · exact .ite (.beside rfl) (.beside rfl)

theorem beltRestart_thins (forward : Bool) (s : State) : Thins s (beltRestart forward s) := .ite (.beside rfl) (.refl s)

end Sys2Proof.Machine
end

section
/-! PROOFS. The order of the segment queue (R17): what thins it keeps its order; the closing of a length (R24) and an arrival (R20)
keep it in a queue near D. -/

namespace Sys2Proof.Machine

/-! ## Signed differences (R2) -/

/-- Two positions by their differences from a third, where these differ by less than 2^31. -/
theorem posDiff_from (a b c : Pos) (h1 : -(2 ^ 31) ≤ posDiff a c - posDiff b c) (h2 : posDiff a c - posDiff b c < 2 ^ 31) :
    posDiff a b = posDiff a c - posDiff b c := by
  have hab : a - b = (a - c) - (b - c) := by bv_omega
  unfold posDiff at *
  rw [hab, BitVec.toInt_sub, Int.bmod_eq_of_le_mul_two (by omega) (by omega)]

theorem posDiff_swap (a b : Pos) (h : (posDiff a b).natAbs < 2 ^ 31) : posDiff b a = -posDiff a b := by
  have := posDiff_from b a b (by simp [posDiff] at *; omega) (by simp [posDiff] at *; omega)
  rw [this]
  simp [posDiff]

theorem posDiff_self (a : Pos) : posDiff a a = 0 := by simp [posDiff]

/-- A position a length ahead of another. -/
theorem posDiff_mm (e : Pos) {l : Nat} (h : l ≤ 5000) : posDiff (e + mm l) e = l * 1000 := by
  have he : e + mm l - e = BitVec.ofNat 32 (l * 1000) := by unfold mm; bv_omega
  unfold posDiff
  rw [he, BitVec.toInt_eq_toNat_of_lt] <;> rw [BitVec.toNat_ofNat, Nat.mod_eq_of_lt (by omega)]
  · omega
  · omega

/-- A position in front of another record's entry, against that record's trailing end. -/
theorem posDiff_trailing {p e : Pos} {l : Nat} (hl : l ≤ 5000) (h : (posDiff p e).natAbs < 2 ^ 30) :
    posDiff p (e + mm l) = posDiff p e - l * 1000 := by
  have hm := posDiff_mm e hl
  rw [posDiff_from p (e + mm l) e] <;> omega

/-! ## The law of R17, whatever lies near -/

/-- R17: of two places the second lies at or past the entry position of the first and its trailing end, where that is known. -/
def Behind (x y : QueuePlace) : Prop := 0 ≤ posDiff y.entry x.entry ∧ ∀ l, x.length = some l → 0 ≤ posDiff y.entry (x.entry + mm l)

/-- A position lies near enough to a place for signed differences to order it against entry position and trailing end. -/
def NearPlace (f : Pos) (x : QueuePlace) : Prop := (posDiff f x.entry).natAbs < 2 ^ 30 ∧ ∀ l, x.length = some l → l ≤ 5000

/-- The law of R17 without what it says of an open record: the entry floor is held to a trailing end only where it lies near it. -/
structure Ordered (s : State) : Prop extends Slotted s where
  idle : acting s = false → s.tracker.segment = []
  order : (places s).Pairwise Behind
  floor : ∀ x ∈ places s, ∀ l, x.length = some l →
    ∃ f, s.tracker.floor = some f ∧ (NearPlace f x → 0 ≤ posDiff f (x.entry + mm l))

/-- The law of R17: `Ordered`, and only the last record is open, while EYE_IN is delivered blocked (R24). -/
structure Lined (s : State) : Prop extends Ordered s where
  opened : ∀ x ∈ places s, x.length = none → (places s).getLast? = some x ∧ s.belt.eyes.entry.delivered = true

/-- The entry floor lies near every place. -/
def Ranged (s : State) : Prop := ∀ x ∈ places s, ∀ f, s.tracker.floor = some f → NearPlace f x

/-- Every length is known. -/
def AllClosed (s : State) : Prop := ∀ x ∈ places s, x.length ≠ none

theorem mem_places {s : State} {x : QueuePlace} : x ∈ places s ↔ ∃ b ∈ s.tracker.segment, b.place = x := List.mem_map

theorem mem_places_of {s : State} {b : BagRecord} (h : b ∈ s.tracker.segment) : b.place ∈ places s := List.mem_map_of_mem h

theorem segment_ne_nil {s : State} {x : QueuePlace} (h : x ∈ places s) : s.tracker.segment ≠ [] :=
  fun h0 => by rw [places_nil.mpr h0] at h; cases h

theorem Slotted.places_nodup {s : State} (h : Slotted s) : (places s).Nodup :=
  .of_map QueuePlace.slot (segmentSlots_eq_places s ▸ h.slots)

theorem places_getLast? (s : State) : (places s).getLast? = s.tracker.segment.getLast?.map BagRecord.place := List.getLast?_map

/-- In a queue near D signed differences order the entry floor against every record. -/
theorem NearQueue.nearPlace {s : State} (h : NearQueue s) {x : QueuePlace} {f : Pos} (hx : x ∈ places s)
    (hf : s.tracker.floor = some f) : NearPlace f x := by
  obtain ⟨b, hb, rfl⟩ := mem_places.mp hx
  obtain ⟨he, hl⟩ := h.entries b hb
  have hd := h.floor f hf
  have h1 := posDiff_swap _ _ (lt_trans hd (by norm_num))
  have h2 := posDiff_swap _ _ (lt_trans he (by norm_num))
  refine ⟨?_, hl⟩
  show (posDiff f b.entry).natAbs < 2 ^ 30
  rw [posDiff_from f b.entry s.belt.d] <;> omega

theorem NearQueue.ranged {s : State} (h : NearQueue s) : Ranged s := fun _ hx _ hf => h.nearPlace hx hf

/-- The law as the obligation states it gives the law whatever lies near. -/
theorem OrderedQueue.lined {s : State} (h : OrderedQueue s) : Lined s where
  slots := h.slots
  empty := h.empty
  idle := h.idle
  order := List.pairwise_map.mpr h.ordered
  floor := fun x hx l hl => by
    obtain ⟨b, hb, rfl⟩ := mem_places.mp hx
    obtain ⟨f, hf, hp⟩ := h.floor b hb l hl
    exact ⟨f, hf, fun _ => hp⟩
  opened := fun x hx hl => by
    obtain ⟨b, hb, rfl⟩ := mem_places.mp hx
    obtain ⟨hlast, hd⟩ := h.opened b hb hl
    exact ⟨by rw [places_getLast?, hlast]; rfl, hd⟩

/-- In a queue near D the law whatever lies near gives the law as the obligation states it. -/
theorem Lined.orderedQueue {s : State} (h : Lined s) (hn : NearQueue s) : OrderedQueue s where
  slots := h.slots
  empty := h.empty
  idle := h.idle
  ordered := List.pairwise_map.mp h.order
  floor := fun b hb l hl => by
    obtain ⟨f, hf, hp⟩ := h.floor b.place (mem_places_of hb) l hl
    exact ⟨f, hf, hp (hn.nearPlace (mem_places_of hb) hf)⟩
  opened := fun b hb hl => by
    obtain ⟨hlast, hd⟩ := h.opened b.place (mem_places_of hb) hl
    refine ⟨?_, hd⟩
    rw [places_getLast?] at hlast
    obtain ⟨x, hx, he⟩ := Option.map_eq_some_iff.mp hlast
    rw [hx, List.inj_on_of_nodup_map h.slots (List.mem_of_getLast? hx) hb (congrArg QueuePlace.slot he)]

theorem Lined.of_empty {s : State} (hs : s.tracker.segment = []) (hf : s.tracker.floor = none) : Lined s := by
  have hp := places_nil.mpr hs
  exact ⟨⟨⟨by simp [segmentSlots, hs], fun _ => hf⟩, fun _ => hs, by rw [hp]; exact .nil, by simp [hp]⟩, by simp [hp]⟩

/-- The law reads the node state, the tracker and the delivered level of EYE_IN. -/
theorem Ordered.congr {s t : State} (h : Ordered s) (hl : t.loader = s.loader) (ht : t.tracker = s.tracker) : Ordered t := by
  have ha : acting t = acting s := by rw [acting, hl]; rfl
  have hp : places t = places s := by rw [places, ht]; rfl
  exact ⟨⟨by rw [segmentSlots, ht]; exact h.slots, by rw [ht]; exact h.empty⟩, by rw [ha, ht]; exact h.idle,
    by rw [hp]; exact h.order, by rw [hp, ht]; exact h.floor⟩

theorem Lined.congr {s t : State} (h : Lined s) (hl : t.loader = s.loader) (ht : t.tracker = s.tracker)
    (hd : t.belt.eyes.entry.delivered = s.belt.eyes.entry.delivered) : Lined t := by
  have hp : places t = places s := by rw [places, ht]; rfl
  exact ⟨h.toOrdered.congr hl ht, by rw [hp, hd]; exact h.opened⟩

/-! ## What thins a queue -/

/-- What is left of a list of distinct elements ends as the list does, where the last of it is left. -/
theorem getLast?_of_sublist {α : Type} {l r : List α} {x : α} (h : r.Sublist l) (hn : l.Nodup) (hx : x ∈ r)
    (hl : l.getLast? = some x) : r.getLast? = some x := by
  obtain ⟨init, rfl⟩ := List.getLast?_eq_some_iff.mp hl
  obtain ⟨r1, r2, rfl, h1, h2⟩ := List.sublist_append_iff.mp h
  have hx1 : x ∉ r1 := fun hc => by
    have := (List.nodup_append.mp hn).2.2 x (h1.subset hc) x (List.mem_singleton_self x)
    exact this rfl
  rcases List.sublist_singleton.mp h2 with rfl | rfl
  · simp [hx1] at hx
  · simp

section
variable {s t u : State}

theorem Thins.floor_eq (h : Thins s t) (hs : Slotted s) {x : QueuePlace} (hx : x ∈ Machine.places t) :
    t.tracker.floor = s.tracker.floor := by
  rw [h.floor hs, if_neg (segment_ne_nil hx)]

theorem Thins.ordered (h : Thins s t) (k : Ordered s) : Ordered t where
  toSlotted := h.slotted k.toSlotted
  idle := fun ha => h.empty k.toSlotted (k.idle (h.acting ▸ ha))
  order := k.order.sublist (h.places k.toSlotted)
  floor := fun x hx => by
    rw [h.floor_eq k.toSlotted hx]
    exact k.floor x ((h.places k.toSlotted).subset hx)

theorem Thins.lined (h : Thins s t) (k : Lined s) : Lined t where
  toOrdered := h.ordered k.toOrdered
  opened := fun x hx hl => by
    have hsub := h.places k.toSlotted
    obtain ⟨hlast, hd⟩ := k.opened x (hsub.subset hx) hl
    exact ⟨getLast?_of_sublist hsub k.places_nodup hx hlast, h.delivered.trans hd⟩

theorem Thins.ranged (h : Thins s t) (hs : Slotted s) (k : Ranged s) : Ranged t := fun x hx => by
  rw [h.floor_eq hs hx]
  exact k x ((h.places hs).subset hx)

/-! ## The closing of a length (R24 to R26) -/

theorem openRecord_some {b : BagRecord} (h : openRecord s = some b) :
    b.length = none ∧ ∃ pre, s.tracker.segment = pre ++ [b] := by
  unfold openRecord at h
  obtain ⟨hl, hb⟩ := Option.filter_eq_some_iff.mp h
  exact ⟨Option.isNone_iff_eq_none.mp hb, List.getLast?_eq_some_iff.mp hl⟩

/-- Where only the last record may be open and there is no open record, every length is known. -/
theorem allClosed_of_openRecord (h : openRecord s = none)
    (hl : ∀ x ∈ places s, x.length = none → (places s).getLast? = some x) : AllClosed s := by
  intro x hx hn
  have hlast := hl x hx hn
  rw [places_getLast?] at hlast
  obtain ⟨b, hb, rfl⟩ := Option.map_eq_some_iff.mp hlast
  have : openRecord s = some b := by
    unfold openRecord
    rw [hb]
    exact if_pos (Option.isNone_iff_eq_none.mpr hn)
  rw [h] at this
  cases this

theorem Ordered.lined (h : Ordered s) (k : AllClosed s) : Lined s := ⟨h, fun x hx hl => absurd hl (k x hx)⟩

/-- R26: with the open record lost no record is open. -/
theorem loseRecord_allClosed {b : BagRecord} {r : StrayReason} {p : Disposition} (h : Slotted s)
    (hl : ∀ x ∈ places s, x.length = none → (places s).getLast? = some x) (hb : (places s).getLast? = some b.place) :
    AllClosed (loseRecord b r p s) := by
  intro x hx hn
  have hx' := hl x (((loseRecord_thins b r p s).places h).subset hx) hn
  obtain rfl := Option.some.inj (hb.symm.trans hx')
  have hs : b.slot ∈ segmentSlots (loseRecord b r p s) := by
    rw [segmentSlots_eq_places]
    exact List.mem_map_of_mem (f := QueuePlace.slot) hx
  rw [loseRecord, (handStray_calm _ _).slots, (removeRecord_inner _ _).2.1] at hs
  simpa using (List.mem_filter.mp hs).2

/-- R24: the queue once the length of the open record is closed. -/
theorem closeLength_places {b : BagRecord} {pre : List BagRecord} {p : Pos} (hs : (segmentSlots s).Nodup)
    (h : s.tracker.segment = pre ++ [b]) :
    places (closeLength b p s) = pre.map BagRecord.place ++ [⟨b.slot, b.entry, some (recordedLength (cfg s) (posDiff p b.entry))⟩] := by
  have hne : ∀ x ∈ pre, x.slot ≠ b.slot := fun x hx hc => by
    rw [segmentSlots, h, List.map_append] at hs
    exact (List.nodup_append.mp hs).2.2 _ (List.mem_map_of_mem hx) b.slot (by simp) hc
  rw [closeLength, (lengthKnown_calm _ _ _).places]
  simp only [places, onTracker, updateBag, h, map_update_last _ hne, List.map_append, List.map_singleton]
  rfl

theorem closeLength_floor (b : BagRecord) (p : Pos) (s : State) : (closeLength b p s).tracker.floor =
    raiseFloor (b.entry + mm (recordedLength (cfg s) (posDiff p b.entry))) s.tracker.floor := by
  rw [closeLength, (lengthKnown_calm _ _ _).floor]
  rfl

/-- R17: the floor a closed length raises lies at or past the trailing ends ahead, where it lies near. -/
theorem raiseFloor_past {back f : Pos} {x : QueuePlace} {l : Nat} (hl : x.length = some l) (hf : NearPlace f x)
    (hp : 0 ≤ posDiff f (x.entry + mm l)) :
    ∃ g, raiseFloor back (some f) = some g ∧ (NearPlace g x → 0 ≤ posDiff g (x.entry + mm l)) := by
  simp only [raiseFloor]
  split
  · rename_i hback
    refine ⟨back, rfl, fun hg => ?_⟩
    have hlen := hf.2 l hl
    have h1 := hf.1
    have h2 := hg.1
    rw [posDiff_trailing hlen h1] at hp
    rw [posDiff_trailing hlen h2]
    rw [posDiff_from back f x.entry (by omega) (by omega)] at hback
    omega
  · exact ⟨f, rfl, fun _ => hp⟩

/-- R17: and at or past the trailing end that the length closes. -/
theorem raiseFloor_own {floor : Option Pos} {e : Pos} {l : Nat} (hf : ∀ f, floor = some f → (posDiff f e).natAbs < 2 ^ 30) :
    ∃ g, raiseFloor (e + mm l) floor = some g ∧ (l ≤ 5000 → 0 ≤ posDiff g (e + mm l)) := by
  cases floor with
  | none => exact ⟨_, rfl, fun _ => by rw [posDiff_self]⟩
  | some f =>
    simp only [raiseFloor]
    split
    · exact ⟨_, rfl, fun _ => by rw [posDiff_self]⟩
    · rename_i hback
      refine ⟨f, rfl, fun hl => ?_⟩
      have h1 := hf f rfl
      have h2 := posDiff_mm e hl
      rw [posDiff_trailing hl h1]
      rw [posDiff_from _ f e (by omega) (by omega)] at hback
      omega

theorem closeLength_lined {b : BagRecord} {pre : List BagRecord} {p : Pos} (h : Ordered s) (hr : Ranged s)
    (hl : ∀ x ∈ places s, x.length = none → (places s).getLast? = some x) (hb : s.tracker.segment = pre ++ [b]) :
    Lined (closeLength b p s) := by
  have hplaces := closeLength_places (p := p) h.slots hb
  have hfloor := closeLength_floor b p s
  generalize recordedLength (cfg s) (posDiff p b.entry) = len at hplaces hfloor
  have hold : places s = pre.map BagRecord.place ++ [b.place] := by rw [places, hb, List.map_append]; rfl
  have hlevel := closeLength_level b p s
  have hmem : b.place ∈ places s := by simp [hold]
  have hacting : acting s = true := by
    by_contra hc
    exact segment_ne_nil hmem (h.idle (Bool.not_eq_true _ ▸ hc))
  have horder := h.order
  rw [hold, List.pairwise_append] at horder
  refine Ordered.lined ⟨⟨by rw [hlevel.slots]; exact h.slots, fun h0 => ?_⟩, fun ha => ?_, ?_, fun x hx l hx' => ?_⟩ fun x hx hn => ?_
  · rw [← places_nil, hplaces] at h0
    simp at h0
  · rw [acting, hlevel.loader] at ha
    rw [acting, ha] at hacting
    cases hacting
  · rw [hplaces, List.pairwise_append]
    refine ⟨horder.1, by simp, fun x hx y hy => ?_⟩
    obtain rfl := List.mem_singleton.mp hy
    exact horder.2.2 x hx b.place (by simp)
  · rw [hfloor]
    rw [hplaces, List.mem_append, List.mem_singleton] at hx
    rcases hx with hx | rfl
    · have hx0 : x ∈ places s := by rw [hold]; exact List.mem_append_left _ hx
      obtain ⟨f, hf, hp⟩ := h.floor x hx0 l hx'
      rw [hf]
      exact raiseFloor_past hx' (hr x hx0 f hf) (hp (hr x hx0 f hf))
    · obtain rfl := Option.some.inj hx'
      obtain ⟨g, hg, hp⟩ := raiseFloor_own (l := len) fun f hf => (hr b.place hmem f hf).1
      exact ⟨g, hg, fun hn => hp (hn.2 len rfl)⟩
  · rw [hplaces, List.mem_append, List.mem_singleton] at hx
    rcases hx with hx | rfl
    · have hlast := hl x (by rw [hold]; exact List.mem_append_left _ hx) hn
      rw [hold, List.getLast?_concat, Option.some.injEq] at hlast
      subst hlast
      have hnd := h.toSlotted.places_nodup
      rw [hold] at hnd
      exact (List.nodup_append.mp hnd).2.2 _ hx _ (List.mem_singleton_self _) rfl
    · cases hn

/-- R24 to R26: a delivered trailing edge of EYE_IN leaves no record open. -/
theorem deliverTrailing_lined (h : Lined s) (hr : Ranged s) : Lined (deliverTrailing .entry s) := by
  unfold deliverTrailing
  split
  · exact h
  · rename_i p _
    generalize hu : updateEye .entry (fun x => { x with trailing := none, delivered := false }) s = u
    have hord : Ordered u := by subst hu; exact h.toOrdered.congr rfl rfl
    have hran : Ranged u := by subst hu; exact hr
    have hopen : ∀ x ∈ places u, x.length = none → (places u).getLast? = some x := by
      subst hu
      exact fun x hx hl => (h.opened x hx hl).1
    unfold trailingDelivered
    split
    · have hw := (withdraw_calm .jamPoint u).thins
      simp only [entryTrailing]
      split
      · rename_i hn
        exact (hw.ordered hord).lined (allClosed_of_openRecord hn hopen)
      · rename_i b hb
        obtain ⟨-, pre, hpre⟩ := openRecord_some hb
        split
        · exact closeLength_lined (hw.ordered hord) (hw.ranged hord.toSlotted hran) hopen hpre
        · refine ((hw.trans (loseRecord_thins b _ _ _)).ordered hord).lined
            (loseRecord_allClosed (hw.slotted hord.toSlotted) hopen ?_)
          show (places u).getLast? = _
          rw [places_getLast?, hpre, List.getLast?_concat]
          rfl
    · rename_i ha
      have h0 := hord.idle (Bool.not_eq_true _ ▸ ha)
      exact .of_empty h0 (hord.empty h0)

/-! ## An arrival (R20) -/

/-- R20: in a queue near D an arrival's entry position lies at or past every record ahead, all of them closed. -/
theorem entryPosition_behind {x : QueuePlace} (h : Ordered s) (hc : AllClosed s) (hx : x ∈ places s)
    (hd : (posDiff s.belt.d x.entry).natAbs < 2 ^ 29) (hlen : ∀ l, x.length = some l → l ≤ 5000)
    (hf : ∀ f, s.tracker.floor = some f → (posDiff s.belt.d f).natAbs < 2 ^ 29) (r : QueuePlace)
    (hr : r.entry = entryPosition s.tracker s.belt.d) : Behind x r := by
  obtain ⟨l, hl⟩ := Option.ne_none_iff_exists'.mp (hc x hx)
  obtain ⟨f, hfloor, hp⟩ := h.floor x hx l hl
  have hdf := hf f hfloor
  have hle := hlen l hl
  have hsf := posDiff_swap _ _ (lt_trans hdf (by norm_num))
  have hsx := posDiff_swap _ _ (lt_trans hd (by norm_num))
  have hfx : posDiff f x.entry = posDiff s.belt.d x.entry - posDiff s.belt.d f := by
    rw [posDiff_from f x.entry s.belt.d] <;> omega
  have hnear : (posDiff f x.entry).natAbs < 2 ^ 30 := by omega
  have hpast := hp ⟨hnear, hlen⟩
  rw [posDiff_trailing hle hnear] at hpast
  have he : r.entry = if 0 < posDiff s.belt.d f then s.belt.d else f := by
    rw [hr, entryPosition, if_neg (by simpa using segment_ne_nil hx), hfloor]
  have hahead : (posDiff r.entry x.entry).natAbs < 2 ^ 30 ∧ (l * 1000 : Int) ≤ posDiff r.entry x.entry := by
    rw [he]
    split <;> constructor <;> omega
  refine ⟨by omega, fun l' hl' => ?_⟩
  obtain rfl := Option.some.inj (hl.symm.trans hl')
  rw [posDiff_trailing hle hahead.1]
  omega

/-- R17, R20: a record joins a queue all of whose records are closed, while EYE_IN is delivered blocked; what thins the queue then
leaves the law, where it ends near D. -/
theorem joinQueue_lined {r : BagRecord} (h : Ordered s) (hc : AllClosed s) (ha : acting s = true)
    (hd : s.belt.eyes.entry.delivered = true) (hs : r.slot ∉ segmentSlots s) (hr : r.entry = entryPosition s.tracker s.belt.d)
    (ho : r.length = none) (k : Thins (joinQueue r s) t) (htd : t.belt.d = s.belt.d) (hn : NearQueue t) : Lined t := by
  have hplaces : places (joinQueue r s) = places s ++ [r.place] := by simp [places, joinQueue]
  have hslotted : Slotted (joinQueue r s) := by
    refine ⟨?_, fun h0 => by simp [joinQueue] at h0⟩
    simp only [segmentSlots, joinQueue, List.map_append, List.map_singleton]
    exact List.nodup_append.mpr ⟨h.slots, List.nodup_singleton _, fun a ha c hc hac => by
      obtain rfl := List.mem_singleton.mp hc
      exact hs (hac ▸ ha)⟩
  have hsub := k.places hslotted
  have hacting : acting t = true := k.acting.trans ha
  have hfloor : ∀ {x}, x ∈ places t → t.tracker.floor = s.tracker.floor := fun hx => k.floor_eq hslotted hx
  have hold : ∀ {x}, x ∈ places t → x.length ≠ none → x ∈ places s := fun {x} hx hl => by
    have := hsub.subset hx
    rw [hplaces, List.mem_append, List.mem_singleton] at this
    rcases this with h1 | rfl
    · exact h1
    · exact absurd ho hl
  refine ⟨⟨k.slotted hslotted, fun hf => (by rw [hacting] at hf; cases hf), ?_, fun x hx l hl => ?_⟩, fun x hx hl => ?_⟩
  · rw [hplaces] at hsub
    obtain ⟨l1, l2, he, h1, h2⟩ := List.sublist_append_iff.mp hsub
    rw [he, List.pairwise_append]
    refine ⟨h.order.sublist h1, (List.pairwise_singleton _ _).sublist h2, fun x hx y hy => ?_⟩
    obtain rfl := List.mem_singleton.mp (h2.subset hy)
    have hxt : x ∈ places t := by rw [he]; exact List.mem_append_left _ hx
    obtain ⟨b, hb, rfl⟩ := mem_places.mp hxt
    obtain ⟨hnear, hlen⟩ := hn.entries b hb
    refine entryPosition_behind h hc (h1.subset hx) (htd ▸ hnear) hlen (fun f hf => ?_) _ hr
    rw [← htd]
    exact hn.floor f ((hfloor hxt).trans hf)
  · rw [hfloor hx]
    exact h.floor x (hold hx (by rw [hl]; simp)) l hl
  · have hmem := hsub.subset hx
    rw [hplaces, List.mem_append, List.mem_singleton] at hmem
    rcases hmem with h1 | rfl
    · exact absurd hl (hc x h1)
    · exact ⟨getLast?_of_sublist hsub hslotted.places_nodup hx (by rw [hplaces, List.getLast?_concat]), k.delivered.trans hd⟩

end

end Sys2Proof.Machine
end

section
/-! PROOFS. Every step keeps the law of the segment queue, the order of the queue near D and the occupancy (R17, R39, R141). -/

namespace Sys2Proof.Machine

section
variable {s t u : State}

/-! ## The entry eye and the reports of a count -/

/-- A queue that whatever thins it leaves in the order of R17, where it ends near D. -/
def LinedNear (s : State) : Prop := ∀ t, Thins s t → t.belt.d = s.belt.d → NearQueue t → Lined t

theorem Lined.linedNear (h : Lined s) : LinedNear s := fun _ k _ _ => k.lined h

theorem LinedNear.thins (h : LinedNear s) (k : Thins s t) (hd : t.belt.d = s.belt.d) : LinedNear t :=
  fun u hu hud => h u (k.trans hu) (hud.trans hd)

theorem LinedNear.lined (h : LinedNear s) (hn : NearQueue s) : Lined s := h s (.refl s) rfl hn

theorem handOn_thins (b : BagRecord) (s : State) : Thins s (handOn b s) := by
  unfold handOn
  simp only
  refine Thins.trans (matchArrival_thins b.slot b.entry s) (Thins.trans ?_ (offerPosition_thins _ _ _ (lostReached_thins _)))
  refine Thins.trans ?_ ((putOccupancy_thins _ _).trans (countEvent_calm _ _).thins)
  exact (offerPosition_thins _ _ _ (readerReached_thins _)).trans (offerPosition_thins _ _ _ (decideBag_thins _))

/-- R20, R21: what follows the joining of a record only thins the queue. -/
theorem arrival_thins (p : Pos) (s : State) : Thins (joinQueue (newRecord s (entryPosition s.tracker p)) s) (arrival p s) :=
  (putJamPoint_thins p _).trans (handOn_thins _ _)

theorem arrival_linedNear (h : Ordered s) (hc : AllClosed s) (ha : acting s = true) (hd : s.belt.eyes.entry.delivered = true)
    (hl : s.tracker.segment.length < Config.segmentSlots) (hn : s.loader.node ≠ .loading) : LinedNear (arrival s.belt.d s) :=
  fun _ k hkd hnear => joinQueue_lined h hc ha hd (freeSlot_free s hl) rfl rfl ((arrival_thins _ _).trans k)
    (hkd.trans (arrival_lawful _ _ hn hl).d) hnear

/-- R6, R20, R22: a leading edge of EYE_IN is delivered where the delivered level is clear: with no record open. -/
theorem deliverLeading_linedNear (h : Lined s) : LinedNear (deliverLeading .entry s) := by
  unfold deliverLeading
  split
  · exact h.linedNear
  · rename_i hclear
    have hclosed : AllClosed s := fun x hx hl => hclear (h.opened x hx hl).2
    generalize hu : updateEye .entry (fun x => { x with delivered := true }) s = u
    have hord : Ordered u := by subst hu; exact h.toOrdered.congr rfl rfl
    have hall : AllClosed u := by subst hu; exact hclosed
    have hd : s.belt.d = u.belt.d := by subst hu; rfl
    have hdel : u.belt.eyes.entry.delivered = true := by subst hu; rfl
    unfold leadingDelivered
    split
    · rename_i ha
      show LinedNear (entryLeading s.belt.d u)
      rw [hd]
      unfold entryLeading
      split
      · exact arrival_linedNear hord hall ha hdel (by assumption) fun hn => by simp [acting, hn] at ha
      · exact ((overrunArrival_thins _ u).lined (hord.lined hall)).linedNear
    · exact (hord.lined hall).linedNear

theorem leadingDelivered_trailing (p : Pos) (h : s.belt.eyes.entry.trailing = none) :
    (leadingDelivered .entry p s).belt.eyes.entry.trailing = none := by
  unfold leadingDelivered
  split
  · show (entryLeading p s).belt.eyes.entry.trailing = none
    unfold entryLeading
    split
    · exact (arrival_thins p s).trailing h
    · exact (overrunArrival_thins p s).trailing h
  · exact h

theorem deliverLeading_trailing (h : s.belt.eyes.entry.trailing = none) :
    (deliverLeading .entry s).belt.eyes.entry.trailing = none := by
  unfold deliverLeading
  split
  · exact h
  · exact leadingDelivered_trailing _ h

theorem deliverDue_thins {x : Due} (h : s.belt.eyes.entry.trailing = none) : Thins s (deliverDue x s) := by
  cases x with
  | position r => exact (withdraw_calm r.item s).thins.trans (reportPosition_thins _ _)
  | trailing =>
    have : deliverTrailing .entry s = s := by
      unfold deliverTrailing
      rw [show (eyeOf s .entry).trailing = none from h]
    show Thins s (deliverTrailing .entry s)
    rw [this]
    exact .refl s

/-- R4: with no trailing edge of EYE_IN pending, reports only thin the queue. -/
theorem reportAll_thins (n : Nat) (h : s.belt.eyes.entry.trailing = none) : Thins s (reportAll n s) := by
  induction n generalizing s with
  | zero => exact .refl s
  | succ n ih =>
    have next : ∀ x u, u.belt.eyes.entry.trailing = none → Thins u (reportAll n (deliverDue x u)) := fun x u hu =>
      have hx := deliverDue_thins (x := x) hu
      hx.trans (ih (hx.trailing hu))
    unfold reportAll
    split
    · exact .refl s
    · exact next _ s h
    · exact (next _ (spendChoice s) h).after rfl

/-- R4: reports keep the order; the pending trailing edge of EYE_IN is delivered once. -/
theorem reportAll_lined (n : Nat) (h : Lined s) (hr : Ranged s) : Lined (reportAll n s) := by
  induction n generalizing s with
  | zero => exact h
  | succ n ih =>
    have next : ∀ x u, Lined u → Ranged u → Lined (reportAll n (deliverDue x u)) := fun x u hu hru => by
      cases x with
      | position r =>
        have hx : Thins u (deliverDue (.position r) u) := (withdraw_calm r.item u).thins.trans (reportPosition_thins _ _)
        exact ih (hx.lined hu) (hx.ranged hu.toSlotted hru)
      | trailing => exact (reportAll_thins n (deliverTrailing_eyes u).2).lined (deliverTrailing_lined hu hru)
    unfold reportAll
    split
    · exact h
    · exact next _ s h hr
    · exact next _ (spendChoice s) (h.congr rfl rfl rfl) hr

/-- R1: a sample of the encoder lines. -/
theorem encoderSample_lined (a b : Bool) (h : Lined s) (hr : Ranged s) : Lined (encoderSample a b s) := by
  unfold encoderSample
  simp only
  split
  · exact h.congr rfl rfl rfl
  · split
    · rename_i forward _ _
      have hs : Thins s (chooseEdge (otherTrailing (beltRestart forward (onDrive restartQuiet
          (onBeltUnit (moveBelt (cfg s) forward) { s with lines := { s.lines with encA := a, encB := b } }))))) := by
        refine Thins.trans (Thins.after (onDrive_thins restartQuiet _) ?_)
          ((beltRestart_thins _ _).trans ((otherTrailing_thins _).trans (chooseEdge_thins _)))
        cases forward <;> rfl
      exact reportAll_lined _ (hs.lined h) (hs.ranged h.toSlotted hr)
    · exact h.congr rfl rfl rfl

/-- R6, R7: EYE_IN becomes blocked: the pending trailing edge is delivered first, if it has passed the filter, and is pending no
more where a record joins. -/
theorem eyeBlocked_lined (h : Lined s) (hr : Ranged s) :
    Lined (eyeBlocked .entry s) ∧ Ranged (eyeBlocked .entry s) ∨
      LinedNear (eyeBlocked .entry s) ∧ (eyeBlocked .entry s).belt.eyes.entry.trailing = none := by
  have blocked : Thins s (updateEye .entry (fun x => { x with present := true }) s) :=
    updateEye_thins .entry _ s fun _ _ => ⟨rfl, id⟩
  have hl := blocked.lined h
  have hr' := blocked.ranged h.toSlotted hr
  unfold eyeBlocked
  simp only
  split
  · split
    · rename_i hn
      exact .inr ⟨deliverLeading_linedNear hl, deliverLeading_trailing hn⟩
    · split
      · exact .inr ⟨deliverLeading_linedNear (deliverTrailing_lined hl hr'), deliverLeading_trailing (deliverTrailing_eyes _).2⟩
      · have cleared : Thins _ (updateEye .entry (fun x => { x with trailing := none })
            (updateEye .entry (fun x => { x with present := true }) s)) :=
          updateEye_thins .entry (fun x => { x with trailing := none }) _ fun _ _ => ⟨rfl, fun _ => rfl⟩
        exact .inl ⟨cleared.lined hl, cleared.ranged hl.toSlotted hr'⟩
  · exact .inl ⟨hl, hr'⟩

/-- R6, R37, R134: a leading edge, and the reports that a count held back for it. -/
theorem leadingEdge_linedNear (e : Eye) (h : Lined s) (hr : Ranged s) : LinedNear (leadingEdge e s) := by
  generalize hu : (if (eyeOf s e).present then s else eyeBlocked e s) = u
  have key : Lined u ∧ Ranged u ∨ LinedNear u ∧ u.belt.eyes.entry.trailing = none := by
    subst hu
    split
    · exact .inl ⟨h, hr⟩
    · by_cases he : e = .entry
      · subst he
        exact eyeBlocked_lined h hr
      · have ht := eyeBlocked_thins he s
        exact .inl ⟨ht.lined h, ht.ranged h.toSlotted hr⟩
  have hle : leadingEdge e s = if s.belt.awaited.isSome then reportHeldBack u else u := by subst hu; rfl
  rw [hle]
  split
  · have hb : Thins u (onBeltUnit (fun b => { b with awaited := none }) u) := .beside rfl
    rcases key with ⟨k1, k2⟩ | ⟨k1, k2⟩
    · exact (reportAll_lined _ (hb.lined k1) (hb.ranged k1.toSlotted k2)).linedNear
    · exact k1.thins (hb.trans (reportAll_thins _ (hb.trailing k2))) (reportHeldBack_lawful u).d
  · exact key.elim (fun k => k.1.linedNear) And.left

/-- R7: an eye becomes clear: a trailing edge may come up. -/
theorem trailingEdge_lined (e : Eye) (h : Lined s) : Lined (trailingEdge e s) := by
  have seen : ∀ (f : EyeState → EyeState), (∀ x, (f x).delivered = x.delivered) → ∀ s, Lined s → Lined (updateEye e f s) :=
    fun f hf s hs => hs.congr rfl rfl (by cases e; exacts [hf _, rfl, rfl])
  have cleared := seen (fun x => { x with present := false }) (fun _ => rfl) s h
  unfold trailingEdge eyeCleared
  split
  · simp only
    split
    · exact seen (fun x => { x with trailing := some s.belt.d }) (fun _ => rfl) _ cleared
    · exact cleared
  · exact h

/-- R9: JAM and STALL leave the set, and EYE_IN is brought into agreement. -/
theorem jamCleared_linedNear (h : Lined s) : LinedNear (jamCleared s) := by
  have followed : Thins s (followHold (onDrive (clearJamStall (cfg s).rRun) s)) := (followHold_calm _).thins.after rfl
  have hl := followed.lined h
  unfold jamCleared
  split
  · simp only [resyncEntry]
    split
    · split
      · exact ((putJamPoint_thins _ _).lined hl).linedNear
      · exact deliverLeading_linedNear hl
    · split
      · exact Lined.linedNear (hl.congr rfl rfl rfl)
      · exact hl.linedNear
  · exact h.linedNear

/-! ## Start-up -/

theorem endLoading_lined (n : NodeState) (h : Lined s) (hs : s.loader.node = .loading) : Lined (endLoading n s) := by
  have h0 := h.idle (by simp [acting, hs])
  exact .of_empty h0 (h.empty h0)

theorem enterConfigFault_lined (h : Lined s) (hs : s.loader.node = .loading) : Lined (enterConfigFault s) :=
  (Thins.iteThen (.refl _) ((offer_calm _ _ _).trans (offer_calm _ _ _)).thins).lined (endLoading_lined .configFault h hs)

theorem enterJoining_lined (c : JunctionConfig) (h : Lined s) (hs : s.loader.node = .loading) : Lined (enterJoining c s) := by
  have forced : Thins (endLoading .joining s) (putInForce c (endLoading .joining s)) := .same rfl rfl id (fun _ => rfl) rfl
  have gated := forced.trans ((recomputeReach_calm _).trans (refreshGates_calm _)).thins
  have jam : ∀ u, Thins u (jamPointAtJoining u) := fun u => .ite (putJamPoint_thins _ u) (.refl u)
  have joined : Thins (endLoading .joining s) (enterJoining c s) := gated.trans ((jam _).trans ((offer_calm _ _ _).thins.trans
    (onLoader_thins (fun l => { l with listen := some Config.listenTime }) _ rfl)))
  exact joined.lined (endLoading_lined .joining h hs)

/-! ## The laws of the slots and of the occupancy, and every command -/

/-- The laws of the slots and of the occupancy are kept (R17, R39, R141). -/
structure Counts (s t : State) : Prop where
  segment : SegmentLaw s.tracker → SegmentLaw t.tracker
  occupancy : OccupancyLaw s → OccupancyLaw t

theorem Counts.refl (s : State) : Counts s s := ⟨id, id⟩

theorem Counts.trans (h : Counts s t) (k : Counts t u) : Counts s u := ⟨k.segment ∘ h.segment, k.occupancy ∘ h.occupancy⟩

theorem Lawful.counts (h : Lawful s t) : Counts s t := ⟨h.segment, h.occupancy⟩

theorem OccupancyLaw.congr (h : OccupancyLaw s) (ht : t.tracker = s.tracker) (he : t.handoff.expected = s.handoff.expected)
    (ho : t.flow.occupancy = s.flow.occupancy) (hs : SourceLaw t) : OccupancyLaw t :=
  ⟨ht ▸ h.segment, by rw [PairLaw, he]; exact h.pairs, hs, by rw [ht, he, ho]; exact h.occupancy⟩

/-- A change beside the tracker, the expected list, the occupancy and the configuration in force. -/
theorem Counts.beside (h : (t.tracker, t.handoff, t.flow.occupancy, t.loader.config) =
    (s.tracker, s.handoff, s.flow.occupancy, s.loader.config)) : Counts s t := by
  simp only [Prod.mk.injEq] at h
  obtain ⟨ht, hh, ho, hc⟩ := h
  refine ⟨by rw [ht]; exact id, fun k => k.congr ht (by rw [hh]) ho ?_⟩
  rw [SourceLaw, cfg, hc]
  exact k.sources

theorem Counts.after (h : Counts t u) (k : (t.tracker, t.handoff, t.flow.occupancy, t.loader.config) =
    (s.tracker, s.handoff, s.flow.occupancy, s.loader.config)) : Counts s u := (beside k).trans h

/-- A command that thins the queue and keeps its laws. -/
structure Orderly (s t : State) : Prop extends Thins s t, Counts s t

namespace Orderly

theorem refl (s : State) : Orderly s s := ⟨.refl s, .refl s⟩

theorem trans (h : Orderly s t) (k : Orderly t u) : Orderly s u := ⟨h.toThins.trans k.toThins, h.toCounts.trans k.toCounts⟩

theorem ite {p : Prop} [Decidable p] (ht : Orderly s t) (hu : Orderly s u) : Orderly s (if p then t else u) := by
  split
  · exact ht
  · exact hu

end Orderly

theorem Lawful.orderly (h : Lawful s t) (k : Thins s t) : Orderly s t := ⟨k, h.counts⟩

theorem Calm.orderly (h : Calm s t) : Orderly s t := h.lawful.orderly h.thins

theorem Level.orderly (h : Level s t) (k : Thins s t) : Orderly s t := h.lawful.orderly k

theorem onReader_orderly (f : ReaderLink → ReaderLink) (s : State) : Orderly s (onReader f s) :=
  (onReader_level f s).orderly (onReader_thins f s)

theorem onBus_orderly (f : Bus → Bus) (s : State) : Orderly s (onBus f s) := ⟨onBus_thins f s, .beside rfl⟩

theorem onDrive_orderly (f : Drive → Drive) (s : State) : Orderly s (onDrive f s) := ⟨onDrive_thins f s, .beside rfl⟩

/-- What every command keeps of the segment queue. -/
structure KeepsQueue (s t : State) : Prop extends Counts s t where
  order : Lined s → Ranged s → LinedNear t

theorem Orderly.keepsQueue (h : Orderly s t) : KeepsQueue s t := ⟨h.toCounts, fun k _ => (h.toThins.lined k).linedNear⟩

/-- What the end of an event adds. -/
theorem KeepsQueue.calm (h : KeepsQueue s t) (k : Calm t u) : KeepsQueue s u :=
  ⟨h.toCounts.trans k.orderly.toCounts, fun hl hr => (h.order hl hr).thins k.thins k.d⟩

/-! ## Outlets and frames -/

theorem routeChanged_thins (s : State) : Thins s (routeChanged s) := (routeChanged_calm s).thins

theorem updatePeerRows_thins (st : Byte) (f : RouteRow → RouteRow) (s : State) : Thins s (updatePeerRows st f s) :=
  .foldl (fun a _ => .ite (updateRow_thins _ _ a) (.refl a)) _ s

theorem putClosed_thins (o : Outlet) (c : Bool) (s : State) : Thins s (putClosed o c s) :=
  .ite ((updateRow_thins _ _ s).trans (routeChanged_thins _)) (.refl s)

theorem peerHeard_orderly (st : Byte) (s : State) : Orderly s (peerHeard st s) :=
  (peerHeard_lawful st s).orderly
    (.ite (((updatePeer_calm _ _ s).thins.trans (updatePeerRows_thins _ _ _)).trans (routeChanged_thins _)) (.refl s))

theorem pathTaken_orderly (src : Byte) (r : DestSet) (s : State) : Orderly s (pathTaken src r s) :=
  (pathTaken_lawful src r s).orderly
    (.ite (.ite ((updatePeerRows_thins _ _ s).trans (routeChanged_thins _)) (.refl s)) (.refl s))

theorem holdTaken_orderly (src q : Byte) (s : State) : Orderly s (holdTaken src q s) :=
  (holdTaken_lawful src q s).orderly (.ite ((updatePeerRows_thins _ _ s).trans (refreshGates_calm _).thins) (.refl s))

theorem holdLapses_orderly (o : Outlet) (s : State) : Orderly s (holdLapses o s) :=
  (holdLapses_lawful o s).orderly (.ite ((updateRow_thins _ _ s).trans (refreshGate_calm _ _).thins) (.refl s))

theorem answerTaken_orderly (p : AnswerPayload) (s : State) : Orderly s (answerTaken p s) := by
  refine (answerTaken_lawful p s).orderly ?_
  unfold answerTaken
  refine .ite ?_ (.refl s)
  split
  · split
    · exact answerFound_thins _ _ _ s
    · exact .refl s
  · exact .ite (failQuery_calm _ s).thins (.refl s)

theorem updateTaken_orderly (p : UpdatePayload) (s : State) : Orderly s (updateTaken p s) := by
  refine (updateTaken_lawful p s).orderly ?_
  unfold updateTaken
  refine .ite ?_ (.refl s)
  split
  · exact applyUpdate_thins _ _ _ s
  · exact .refl s

theorem epochTaken_orderly (e : Byte) (s : State) : Orderly s (epochTaken e s) := by
  have epoch : Counts s { s with cache := { s.cache with epoch := e } } := .beside rfl
  exact .ite ⟨newEpoch_thins e s, epoch.trans (newEpoch_level e s).lawful.counts⟩ (.refl s)

theorem destCloseTaken_orderly (x : DestSet) (action : Byte) (s : State) : Orderly s (destCloseTaken x action s) := by
  have late : ∀ l, Orderly s (putLate l s) := fun l => by
    have written : Orderly s { s with routes := { s.routes with late := l } } := ⟨.beside rfl, .beside rfl⟩
    exact .ite (.refl s) (written.trans (redecideAll_calm _).orderly)
  exact .ite (.ite (late _) (.ite (late _) (.refl s))) (.refl s)

theorem writeClosed_orderly (k : Diverter) (closed : Bool) (s : State) : Orderly s (writeClosed k closed s) := by
  have line : Orderly s { s with lines := { s.lines with full := s.lines.full.set k closed } } := ⟨.beside rfl, .beside rfl⟩
  have runs : ∀ l r, Orderly s { s with lines := l, flow := { s.flow with runs := r } } := fun _ _ => ⟨.beside rfl, .beside rfl⟩
  exact .ite ((runs _ _).trans ((putClosed_lawful _ _ _).orderly (putClosed_thins _ _ _))) line

/-- R184: a frame that bears this station's number. -/
theorem ownNumberSeen_orderly (s : State) : Orderly s (ownNumberSeen s) := by
  have seen : Orderly s (onLoader (fun l => { l with duplicates := l.duplicates + 1 }) s) := ⟨onLoader_thins _ s rfl, .beside rfl⟩
  unfold ownNumberSeen
  simp only
  split
  · rename_i hn
    refine seen.trans ⟨.same ?_ rfl id (fun _ => rfl) rfl, .beside rfl⟩
    simp [enterDuplicate, onBus, onLoader, acting, hn]
  · exact .ite seen (seen.trans (offer_calm _ _ _).orderly)
  all_goals exact seen

theorem deliverFrame_orderly (h : Header) {owner : State → State} (s : State) (ho : ∀ t, Orderly t (owner t)) :
    Orderly s (deliverFrame h owner s) :=
  .ite (.refl s) (.ite (onBus_orderly _ s) (.ite (ownNumberSeen_orderly s) (.ite (.refl s)
    (((onBus_orderly _ s).trans (peerHeard_orderly _ _)).trans (ho _)))))

theorem frameEnded_orderly (f : RawFrame) (s : State) : Orderly s (frameEnded f s) := by
  unfold frameEnded
  refine .ite (.refl s) ?_
  split
  · exact onBus_orderly _ s
  · exact (onBus_orderly _ s).trans (countEvent_calm _ _).orderly
  · exact onBus_orderly _ s
  all_goals exact .refl s

theorem abandonFrame_orderly (q : Queued) (s : State) : Orderly s (abandonFrame q s) :=
  (onBus_orderly _ s).trans ((countEvent_calm _ _).trans ((oweReport_calm _ _).trans
    ((drainReports_calm _ _).trans (deliverPending_calm _)))).orderly

theorem jamEnds_orderly (s : State) : Orderly s (jamEnds s) := by
  unfold jamEnds; split
  · exact .ite (onBus_orderly _ s) (abandonFrame_orderly _ s)
  · exact .refl s

theorem frameLeaves_orderly (s : State) : Orderly s (frameLeaves s) := by
  unfold frameLeaves; split
  · exact (onBus_orderly _ s).trans (deliverPending_calm _).orderly
  · exact .refl s

/-! ## The drive and the reader link -/

theorem markUncertain_thins (k : Diverter) (slot : Nat) (s : State) : Thins s (markUncertain k slot s) := by
  unfold markUncertain; split
  · exact .refl s
  · exact updateBag_thins _ _ s fun _ => by split <;> rfl

theorem estopJoins_orderly (s : State) : Orderly s (estopJoins s) := by
  refine (estopJoins_lawful s).orderly (.ite (.refl s) (Thins.after (s := s) (.foldl (fun a k => ?_) _ _) rfl))
  exact .foldl (fun b _ => .ite (.foldl (fun c slot => markUncertain_thins k slot c) _ b) (.refl b)) _ a

theorem estopLeaves_orderly (s : State) : Orderly s (estopLeaves s) := .ite ⟨.beside rfl, .beside rfl⟩ (.refl s)

theorem speedWindow_orderly (s : State) : Orderly s (speedWindow s) := by
  refine (speedWindow_lawful s).orderly (Thins.after (s := s) ((recomputeFires_calm _).trans (recomputeStops_calm _)).thins ?_)
  simp only [onDrive, onBeltUnit, endWindow]
  split <;> rfl

theorem stallFires_orderly (s : State) : Orderly s (stallFires s) :=
  (stallFires_lawful s).orderly (.ite ((raiseHalting_thins .stall s).trans (onDrive_thins _ _)) (.refl s))

theorem readReplyTaken_orderly (w : Bool) (n : Byte) (l : List Nat) (s : State) : Orderly s (readReplyTaken w n l s) := by
  unfold readReplyTaken readReplied
  refine .ite ?_ (.refl s)
  split
  · exact .ite ((readAnswered_level _ _ s).orderly (readAnswered_thins _ _ s)) (onReader_orderly _ s)
  · exact onReader_orderly _ s

theorem pollReplyTaken_orderly (w : Bool) (n : Byte) (s : State) : Orderly s (pollReplyTaken w n s) := by
  unfold pollReplyTaken pollReplied
  refine .ite ?_ (.refl s)
  split
  · exact .ite (onReader_orderly _ s) (onReader_orderly _ s)
  · exact onReader_orderly _ s

theorem readTimesOut_orderly (s : State) : Orderly s (readTimesOut s) := by
  unfold readTimesOut; split
  · exact (readMissed_level _ s).orderly (readMissed_thins _ s)
  · exact .refl s

theorem pollTimesOut_orderly (s : State) : Orderly s (pollTimesOut s) := by
  unfold pollTimesOut; split
  · exact ((onReader_orderly _ s).trans ((checkDown_level _).orderly (checkDown_thins _))).trans (onReader_orderly _ _)
  · exact .refl s

/-! ## The commands that do more than thin the queue -/

theorem encoderSample_keepsQueue (a b : Bool) (s : State) : KeepsQueue s (encoderSample a b s) := by
  refine ⟨?_, fun h hr => (encoderSample_lined a b h hr).linedNear⟩
  have lines : Counts s { s with lines := { s.lines with encA := a, encB := b } } := .beside rfl
  unfold encoderSample
  simp only
  split
  · exact lines
  · rename_i forward _
    split
    · refine lines.trans ((beltCount_lawful forward _).counts.after ?_)
      cases forward <;> rfl
    · exact lines

theorem leadingEdge_keepsQueue (e : Eye) (s : State) : KeepsQueue s (leadingEdge e s) :=
  ⟨(leadingEdge_lawful e s).counts, leadingEdge_linedNear e⟩

theorem trailingEdge_keepsQueue (e : Eye) (s : State) : KeepsQueue s (trailingEdge e s) := by
  have counts : Lawful s (trailingEdge e s) := .ite (eyeCleared_lawful e s) (.refl s)
  exact ⟨counts.counts, fun h _ => (trailingEdge_lined e h).linedNear⟩

theorem jamclr_keepsQueue (s : State) : KeepsQueue s (jamCleared (putJamclrLine s)) :=
  ⟨(jamCleared_lawful (putJamclrLine s)).counts.after rfl, fun h _ => jamCleared_linedNear (h.congr rfl rfl rfl)⟩

theorem enterConfigFault_keepsQueue (hs : s.loader.node = .loading) : KeepsQueue s (enterConfigFault s) :=
  ⟨(enterConfigFault_lawful s).counts.after rfl, fun h _ => (enterConfigFault_lined h hs).linedNear⟩

theorem KeepsQueue.afterLoader (f : Loader → Loader) (hn : (f s.loader).node = s.loader.node)
    (hc : (f s.loader).config = s.loader.config) (h : KeepsQueue (onLoader f s) t) : KeepsQueue s t := by
  have hf := onLoader_thins f s hn
  have counts : Counts s (onLoader f s) := .beside (by simp [hc])
  exact ⟨counts.trans h.toCounts, fun hl hr => h.order (hf.lined hl) (hf.ranged hl.toSlotted hr)⟩

theorem addressNack_keepsQueue (s : State) : KeepsQueue s (addressNack s) := by
  unfold addressNack
  split
  · rename_i hr
    have hs : s.loader.node = .loading := by simpa using (Bool.and_eq_true_iff.mp hr).1
    simp only
    split
    · exact Orderly.keepsQueue ⟨onLoader_thins _ s rfl, .beside rfl⟩
    · exact .afterLoader _ rfl rfl (enterConfigFault_keepsQueue (by exact hs))
  · exact (Orderly.refl s).keepsQueue

/-- R182, check 4: an image that passes gives every source a lead-in and a tolerance in range. -/
theorem sourceLaw_of_imagePasses {station : Byte} {img : List Byte} (h : imagePasses station img = true) :
    ∀ x ∈ (readConfig img).sources, x.leadIn ≤ 30000 ∧ 20 ≤ x.tolerance ∧ x.tolerance ≤ 5000 := by
  have hf : fieldsInRange img = true := by
    simp only [imagePasses, Bool.and_eq_true] at h
    obtain ⟨⟨⟨⟨⟨⟨⟨-, hf⟩, -⟩, -⟩, -⟩, -⟩, -⟩, -⟩ := h
    exact hf
  intro x hx
  obtain ⟨i, hi, rfl⟩ := List.mem_map.mp hx
  have hi' := List.all_eq_true.mp (Bool.and_eq_true_iff.mp hf).2 i hi
  simp only [Bool.and_eq_true, within, decide_eq_true_eq] at hi'
  obtain ⟨⟨⟨-, h1⟩, h2, h3⟩, -⟩ := hi'
  exact ⟨h1, h2, h3⟩

theorem readComplete_keepsQueue (bytes : List Byte) (s : State) : KeepsQueue s (readComplete bytes s) := by
  unfold readComplete
  split
  · rename_i hr
    have hs : s.loader.node = .loading := by simpa using (Bool.and_eq_true_iff.mp hr).1
    simp only
    refine .afterLoader (fun l => { l with image := some (bytesRead bytes) }) rfl rfl ?_
    split
    · rename_i hp
      refine ⟨?_, fun h _ => (enterJoining_lined _ h (by exact hs)).linedNear⟩
      obtain ⟨u, hu, he⟩ := enterJoining_lawful (readConfig (bytesRead bytes))
        (onLoader (fun l => { l with image := some (bytesRead bytes) }) s)
      rw [he]
      refine Counts.trans ⟨hu.segment, fun h => hu.occupancy (h.congr rfl rfl rfl (sourceLaw_of_imagePasses hp))⟩ (.beside rfl)
    · exact enterConfigFault_keepsQueue (by exact hs)
  · exact (Orderly.refl s).keepsQueue

/-- R180: a part leaves reset with an empty queue. -/
theorem resetPart_keepsQueue (r : ResetLines) (s : State) : KeepsQueue s (resetPart r s) := by
  have hlaw : SegmentLaw (leaveReset r s).tracker := ⟨List.nodup_nil, Nat.zero_le _, by simp [leaveReset]⟩
  have h0 : KeepsQueue s (leaveReset r s) :=
    ⟨⟨fun _ => hlaw, fun _ => ⟨hlaw, List.nodup_nil, nofun, rfl⟩⟩,
      fun _ _ => Lined.linedNear (.of_empty rfl rfl)⟩
  unfold resetPart
  simp only
  split
  · exact h0
  · have hf := enterConfigFault_keepsQueue (s := leaveReset r s) rfl
    exact ⟨h0.toCounts.trans hf.toCounts, fun _ _ => hf.order (.of_empty rfl rfl) nofun⟩

theorem listenEnds_orderly (s : State) : Orderly s (listenEnds s) := by
  unfold listenEnds
  split
  · rename_i h
    have running : Orderly s (onLoader (fun l => { l with node := .running, listen := none }) s) :=
      ⟨.same (by simp [acting, h.1]) rfl id (fun _ => rfl) rfl, .beside rfl⟩
    refine running.trans ((enterRunning_lawful s).orderly ?_)
    refine Thins.trans (Calm.thins (Calm.setRefresh ?_ _)) (onDrive_thins _ _)
    exact (toSources_calm _ _).iteThen (toSources_calm _ _)
  · exact .refl s

/-! ## Every command, every step -/

theorem effect_keepsQueue (c : Instr) (s : State) : KeepsQueue s (effect c s) := by
  have lines : ∀ l : Lines, Orderly s { s with lines := l } := fun _ => ⟨.beside rfl, .beside rfl⟩
  cases c
  case reset r => exact resetPart_keepsQueue r s
  case configAddressNack => exact addressNack_keepsQueue s
  case configReadComplete bytes => exact readComplete_keepsQueue bytes s
  case encoderCount a b => exact encoderSample_keepsQueue a b s
  case jamclrActivation => exact jamclr_keepsQueue s
  case eyeLeadingEdge e => exact leadingEdge_keepsQueue e s
  case eyeTrailingEdge e => exact trailingEdge_keepsQueue e s
  all_goals refine Orderly.keepsQueue ?_
  case resetNAsserted => exact ⟨.beside rfl, .beside rfl⟩
  case configReaddress => exact .ite ⟨onLoader_thins _ s rfl, .beside rfl⟩ (.refl s)
  case listenTimeout => exact listenEnds_orderly s
  case speedWindowEnd => exact speedWindow_orderly s
  case stallDetected => exact stallFires_orderly s
  case rampStep => exact onDrive_orderly _ s
  case haltQuietTimeout => exact .ite (onDrive_orderly _ s) (.refl s)
  case estopAsserted => exact (lines _).trans (estopJoins_orderly _)
  case estopDeasserted => exact (lines _).trans (estopLeaves_orderly _)
  case chuteFullClose k => exact writeClosed_orderly k true s
  case chuteFullReopen k => exact writeClosed_orderly k false s
  case readReply w n l => exact readReplyTaken_orderly w n l s
  case pollReply w n => exact pollReplyTaken_orderly w n s
  case readTimeout => exact readTimesOut_orderly s
  case pollTimeout => exact pollTimesOut_orderly s
  case idleTimeout => exact .ite (onReader_orderly _ s) (.refl s)
  case queryDeadline p => exact (deadlinePasses_calm p s).orderly
  case epochWalkStep => exact (walkStep_level s).orderly (walkStep_thins s)
  case confirmTimeout slot => exact (confirmExpires_lawful slot s).orderly (confirmExpires_thins slot s)
  case answerWaitTimeout p id => exact (attemptUnanswered_calm p id s).orderly
  case retryDelayTimeout p id => exact (retryDelayOut_calm p id s).orderly
  case holdExpiry o => exact holdLapses_orderly o s
  case holdRefreshTimeout => exact .ite ((toSources_calm _ s).setRefresh _).orderly (.refl s)
  case watchLapse => exact ⟨.beside rfl, .beside rfl⟩
  case transmitStart => exact onBus_orderly _ s
  case collision => exact onBus_orderly _ s
  case jamComplete => exact jamEnds_orderly s
  case backoffExpiry => exact onBus_orderly _ s
  case frameSent => exact frameLeaves_orderly s
  case handoffReceived h p => exact deliverFrame_orderly h s fun t => (handoffTaken_lawful _ _ t).orderly (handoffTaken_thins _ _ t)
  case acceptReceived h id => exact deliverFrame_orderly h s fun t => .ite (acceptTaken_calm _ _ t).orderly (.refl t)
  case retryReceived h id => exact deliverFrame_orderly h s fun t => .ite (attemptUnanswered_calm _ _ t).orderly (.refl t)
  case pathReceived h r => exact deliverFrame_orderly h s (pathTaken_orderly _ _)
  case holdReceived h q => exact deliverFrame_orderly h s (holdTaken_orderly _ _)
  case answerReceived h p => exact deliverFrame_orderly h s (answerTaken_orderly _)
  case updateReceived h p => exact deliverFrame_orderly h s (updateTaken_orderly _)
  case epochReceived h e => exact deliverFrame_orderly h s (epochTaken_orderly _)
  case destCloseReceived h x action => exact deliverFrame_orderly h s (destCloseTaken_orderly _ _)
  case missingReceived h p r => exact deliverFrame_orderly h s fun t => (missingTaken_calm _ _ t).orderly
  case foundReceived h p => exact deliverFrame_orderly h s fun t => (foundTaken_calm _ t).orderly
  case statusReqReceived h i p => exact deliverFrame_orderly h s fun t => (statusRequested_calm _ _ _ t).orderly
  case counterClearReceived h => exact deliverFrame_orderly h s fun t => (countersCleared_calm t).orderly
  case statusReplyReceived h i p data => exact .ite (onBus_orderly _ s) (deliverFrame_orderly h s .refl)
  case ownNumberFrame d k p => exact .ite (.refl s) (ownNumberSeen_orderly s)
  case frameDiscarded f => exact frameEnded_orderly f s
  all_goals exact deliverFrame_orderly _ s .refl

theorem exec_keepsQueue {c : Instr} (h : exec c s = .next t) : KeepsQueue s t := by
  rcases exec_cases h with ⟨-, -, rfl⟩ | ⟨-, rfl⟩ | ⟨-, -, rfl⟩
  · exact (effect_keepsQueue c s).calm (settle_calm _)
  · exact Orderly.keepsQueue ⟨.beside rfl, .beside rfl⟩
  · exact (Orderly.refl _).keepsQueue

/-- Section 3.2: the time base runs confirm timers down, which no law of the queue reads. -/
theorem tick_keepsQueue (s : State) : KeepsQueue s (tick s) := by
  have place : ∀ b, (runDownConfirm s.drive.state b).place = b.place := fun b => by unfold runDownConfirm; split <;> rfl
  have hplaces : places (tick s) = places s := by
    show (s.tracker.segment.map (runDownConfirm s.drive.state)).map BagRecord.place = _
    rw [List.map_map]
    exact List.map_congr_left fun b _ => place b
  have hlength : (tick s).tracker.segment.length = s.tracker.segment.length := List.length_map _
  have hslots : segmentSlots (tick s) = segmentSlots s := by rw [segmentSlots_eq_places, hplaces, ← segmentSlots_eq_places]
  have hsegment : SegmentLaw s.tracker → SegmentLaw (tick s).tracker := fun h => h.congr hslots rfl rfl rfl
  refine Orderly.keepsQueue ⟨.same rfl rfl id (fun _ => hplaces) rfl, hsegment, fun h => ⟨hsegment h.segment, h.pairs, h.sources, ?_⟩⟩
  rw [hlength]
  exact h.occupancy

theorem idle_keepsQueue (s : State) : KeepsQueue s (idle s) := by
  unfold idle
  split
  · exact (Orderly.refl s).keepsQueue
  · split
    · exact tick_keepsQueue s
    all_goals exact Orderly.keepsQueue ⟨.beside rfl, .beside rfl⟩

theorem step_keepsQueue (h : step s = .next t) : KeepsQueue s t := by
  rcases step_cases h with ⟨-, rfl⟩ | ⟨c, rest, -, hx⟩
  · exact idle_keepsQueue s
  · have hk := exec_keepsQueue hx
    exact ⟨⟨hk.segment, fun ho => hk.occupancy (ho.congr rfl rfl rfl ho.sources)⟩, fun hl hr => hk.order (hl.congr rfl rfl rfl) hr⟩

end

/-- Settles O9: every command keeps the laws of the queue; it thins the queue, closes the last length or lets one record join. -/
theorem everyStepKeepsSegmentLaw : Obligations.EveryStepKeepsSegmentLaw :=
  ⟨fun _ _ hs h => (step_keepsQueue h).segment hs,
   fun _ _ ho hn h hn' => (((step_keepsQueue h).order ho.lined hn.ranged).lined hn').orderedQueue hn',
   fun _ _ ho h => (step_keepsQueue h).occupancy ho⟩

end Sys2Proof.Machine
end

section
/-! PROOFS. The delivered leading edge of EYE_IN (R20 to R22, R27, R131): an arrival with no announcement, an overrun, and the
claim end. -/

namespace Sys2Proof.Machine

/-! ## The edge as its command delivers it -/

/-- An eye once its leading edge has been delivered. -/
def eyeSeen (e : Eye) (s : State) : State := updateEye e (fun x => { x with present := true, delivered := true }) s

theorem eyeSeen_entry {s : State} (he : s.belt.eyes.entry = ⟨false, false, none⟩) :
    (eyeSeen .entry s).belt.eyes = { s.belt.eyes with entry := ⟨true, true, none⟩ } := by
  simp [eyeSeen, updateEye, onBeltUnit, Eyes.update, he]

theorem leadingEdge_delivered {e : Eye} {s : State} (h : Ready s) (hf : followsEye s e = true)
    (he : eyeOf s e = ⟨false, false, none⟩) : leadingEdge e s = leadingDelivered e s.belt.d (eyeSeen e s) := by
  rw [leadingEdge_ready e h, if_neg (by simp [he])]
  simp only [eyeBlocked, hf, he, if_true, deliverLeading, eyeOf_updateEye, updateEye_updateEye, Bool.false_eq_true, if_false]
  rfl

theorem exec_leadingEdge {e : Eye} {s : State} (h : Ready s) (hf : followsEye s e = true)
    (he : eyeOf s e = ⟨false, false, none⟩) :
    exec (.eyeLeadingEdge e) s = .next (settle (leadingDelivered e s.belt.d (eyeSeen e s))) := by
  rw [exec_ready (by simp) (by simp) h.1]
  exact congrArg (fun u => Host.Outcome.next (settle u)) (leadingEdge_delivered h hf he)

/-- R19: an eye is followed wherever the blocks act, EYE_IN only without JAM and STALL. -/
theorem followsEye_acting {e : Eye} {s : State} (ha : acting s = true) (he : e = .entry → jammed s = false) :
    followsEye s e = true := by
  have hl : s.loader.node ≠ .loading := fun hn => by simp [acting, hn] at ha
  by_cases h : e = .entry
  · simp [followsEye, hl, h, he h]
  · simp [followsEye, hl, h]

/-! ## The register (R3) -/

/-- The register once an owner has offered a position that D has not reached. -/
def registerWith (i : Item) (p : Pos) (l : List Registration) : List Registration :=
  l.filter (fun r => decide (r.item ≠ i)) ++ [⟨i, p⟩]

theorem mem_registerWith {i : Item} {p : Pos} {l : List Registration} {r : Registration} :
    r ∈ registerWith i p l ↔ (r ∈ l ∧ r.item ≠ i) ∨ r = ⟨i, p⟩ := by simp [registerWith]

/-- R3: an offered position that D has not reached is registered. -/
theorem offerPosition_ahead {i : Item} {p : Pos} {report : State → State} {s : State} (h : reached s.belt.d p = false) :
    offerPosition i p report s = { s with belt := { s.belt with register := registerWith i p s.belt.register } } := by
  rw [offerPosition, if_neg (by simp [h])]
  rfl

/-! ## The entry position and the slot (R17, R20) -/

theorem entryPosition_free {t : Tracker} {p : Pos} (h : t.segment = [] ∨ t.floor = none) : entryPosition t p = p := by
  rcases h with h | h <;> simp [entryPosition, h]

theorem entryPosition_floor {t : Tracker} {p f : Pos} (h : t.segment ≠ []) (hf : t.floor = some f) :
    entryPosition t p = if 0 < posDiff p f then p else f := by
  rw [entryPosition, if_neg (by simpa using h), hf]

/-- R17: the slot of a new record is the lowest free one. -/
theorem freeSlot_lowest (s : State) (h : s.tracker.segment.length < Config.segmentSlots) :
    freeSlot s < 32 ∧ ∀ i < freeSlot s, i ∈ segmentSlots s := by
  have hfree := freeSlot_free s h
  unfold freeSlot at hfree ⊢
  rcases hf : (List.range Config.segmentSlots).find? (fun i => !(segmentSlots s).contains i) with _ | j
  · rw [hf] at hfree
    have := List.find?_eq_none.mp hf 0 (by simp [Config.segmentSlots])
    exact absurd (by simpa using this) hfree
  · have hj : j < 32 := List.mem_range.mp (List.mem_of_find?_eq_some hf)
    refine ⟨hj, fun i hi => ?_⟩
    obtain ⟨-, k, hk, hkj, hbefore⟩ := List.find?_eq_some_iff_getElem.mp hf
    have hki : k = j := by simpa using hkj
    have hi' : i < j := hi
    have := hbefore i (by omega)
    simpa using this

/-! ## An arrival with no announcement -/

/-- R131: the register once a record is left unannounced: the claim end of its slot is held, with Kc 0 none. -/
def claimRegister (slot : Nat) (e : Pos) (s : State) : List Registration :=
  if (cfg s).claimDistance = 0 then s.belt.register.filter (fun r => decide (r.item ≠ .claimEnd slot))
  else registerWith (.claimEnd slot) (e + mm (cfg s).claimDistance) s.belt.register

/-- R131: a record left unannounced is CLAIMABLE up to its claim end; with Kc 0 it is not, and no claim end is held. -/
theorem leaveUnannounced_last {s : State} {pre : List BagRecord} {b : BagRecord} {e : Pos} (h : s.tracker.segment = pre ++ [b])
    (hs : ∀ x ∈ pre, x.slot ≠ b.slot)
    (hr : (cfg s).claimDistance ≠ 0 → reached s.belt.d (e + mm (cfg s).claimDistance) = false) :
    leaveUnannounced b.slot e s = { s with
      tracker := { s.tracker with
        segment := pre ++ [{ b with flags := { b.flags with claimable := decide ((cfg s).claimDistance ≠ 0) } }] }
      belt := { s.belt with register := claimRegister b.slot e s } } := by
  have marked : ∀ (u : State) (c : BagRecord) (f : BagRecord → BagRecord), u.tracker.segment = pre ++ [c] →
      c.slot = b.slot → updateBag b.slot f u = { u with tracker := { u.tracker with segment := pre ++ [f c] } } := fun u c f hu hc => by
    rw [updateBag, hu, ← hc, map_update_last f (by rw [hc]; exact hs)]
  unfold leaveUnannounced
  rw [marked s b _ h rfl]
  by_cases hc : (cfg s).claimDistance = 0
  · simp only [cfg] at hc
    simp only [cfg, hc, claimEnds, withdraw, if_true]
    rw [marked _ { b with flags := { b.flags with claimable := true } } _ rfl rfl]
    simp [claimRegister, cfg, hc]
  · have hr := hr hc
    simp only [cfg] at hc hr
    simp only [cfg, hc, if_false]
    rw [offerPosition_ahead (by exact hr)]
    simp [claimRegister, cfg, hc]

/-- R21: the register with the reader and the decision position of a record left unannounced. -/
def placeRegister (b : BagRecord) (s : State) : List Registration :=
  registerWith (.decisionPosition b.slot) (b.entry + mm (cfg s).decisionPosition)
    (registerWith (.readerPosition b.slot) (b.entry + mm (cfg s).readerPosition) (claimRegister b.slot b.entry s))

/-- R21: the register once a record with no announcement has been handed on, D having reached none of its positions. -/
def handedRegister (b : BagRecord) (s : State) : List Registration :=
  registerWith (.lostPoint b.slot) (b.entry + mm ((cfg s).exitPosition + (cfg s).exitTolerance)) (placeRegister b s)

/-- R131: the last record of the queue left unannounced, with the register as given. -/
def leftUnannounced (b : BagRecord) (pre : List BagRecord) (register : List Registration) (s : State) : State := { s with
  tracker := { s.tracker with
    segment := pre ++ [{ b with flags := { b.flags with claimable := decide ((cfg s).claimDistance ≠ 0) } }] }
  belt := { s.belt with register := register } }

theorem matchArrival_unannounced {s : State} (slot : Nat) (e : Pos) (h : s.handoff.expected = []) :
    matchArrival slot e s = leaveUnannounced slot e s := by simp [matchArrival, matchFor, h]

/-- R141: the occupancy rises, and the Flow Controller and the event counters are told, with room for their frames. -/
theorem occupancyRise_countEvent (e : CounterEvent) {s : State} (hroom : Room ((cfg s).sources.length + 2) s) :
    ∃ bus exc demand value refresh, (s.bus.due = [] → bus.due = []) ∧
      countEvent e (occupancyRise s) = { s with bus := bus, exc := exc, flow := { s.flow with
        occupancy := s.flow.occupancy + 1, demand := demand, holdValue := value, refresh := refresh } } := by
  let w : State := { s with flow := { s.flow with
    occupancy := s.flow.occupancy + 1, demand := demandAt (cfg s) (s.flow.occupancy + 1) s.flow.demand } }
  have sends : Sends w (countEvent e (followHold w)) := (followHold_sends w).trans (countEvent_sends e _)
  have owed : (countEvent e (followHold w)).owed = w.owed := ((followHold_fits w).trans (countEvent_fits e _)).owed hroom
  obtain ⟨⟨bus, owed', exc, value, refresh, hw⟩, hdue⟩ := sends
  have ho : owed' = s.owed := by rw [hw] at owed; exact owed
  refine ⟨bus, exc, w.flow.demand, value, refresh, fun h => by rw [hw] at hdue; exact hdue h, ?_⟩
  show countEvent e (followHold w) = _
  rw [hw, ho]

/-- R21, R131: the new record, the last of the queue, is handed on where nothing is expected and D has reached none of its
positions. -/
theorem handOn_unannounced {s : State} {pre : List BagRecord} {b : BagRecord} (h : s.tracker.segment = pre ++ [b])
    (hs : ∀ x ∈ pre, x.slot ≠ b.slot) (hx : s.handoff.expected = []) (hroom : Room ((cfg s).sources.length + 2) s)
    (hc : (cfg s).claimDistance ≠ 0 → reached s.belt.d (b.entry + mm (cfg s).claimDistance) = false)
    (hrd : reached s.belt.d (b.entry + mm (cfg s).readerPosition) = false)
    (hdc : reached s.belt.d (b.entry + mm (cfg s).decisionPosition) = false)
    (hl : reached s.belt.d (b.entry + mm ((cfg s).exitPosition + (cfg s).exitTolerance)) = false) :
    ∃ bus exc demand value refresh, handOn b s = { leftUnannounced b pre (handedRegister b s) s with
      flow := { s.flow with occupancy := s.flow.occupancy + 1, demand := demand, holdValue := value, refresh := refresh }
      bus := bus
      exc := exc } := by
  unfold handOn
  simp only
  rw [matchArrival_unannounced _ _ hx, leaveUnannounced_last h hs hc,
    offerPosition_ahead (i := .readerPosition b.slot) (by exact hrd),
    offerPosition_ahead (i := .decisionPosition b.slot) (by exact hdc)]
  obtain ⟨bus, exc, demand, value, refresh, -, hw⟩ := occupancyRise_countEvent .entries
    (s := leftUnannounced b pre (placeRegister b s) s) hroom
  refine ⟨bus, exc, demand, value, refresh, ?_⟩
  rw [leftUnannounced, placeRegister] at hw
  rw [hw, offerPosition_ahead (by exact hl)]
  rfl

/-- R17, R7: the queue with the new record at its end, and the jam point of the edge. -/
def joinedAhead (b : BagRecord) (s : State) : State := { joinQueue b s with
  belt := { s.belt with register := registerWith .jamPoint (s.belt.d + mm (cfg s).lJam) s.belt.register } }

/-- R20, R21, R131: an arrival with no announcement, D having reached none of its positions. -/
theorem arrival_unannounced {s : State} {b : BagRecord} (hb : newRecord s (entryPosition s.tracker s.belt.d) = b)
    (hn : s.tracker.segment.length < Config.segmentSlots) (hx : s.handoff.expected = [])
    (hroom : Room ((cfg s).sources.length + 2) s) (hj : reached s.belt.d (s.belt.d + mm (cfg s).lJam) = false)
    (hc : (cfg s).claimDistance ≠ 0 → reached s.belt.d (b.entry + mm (cfg s).claimDistance) = false)
    (hrd : reached s.belt.d (b.entry + mm (cfg s).readerPosition) = false)
    (hdc : reached s.belt.d (b.entry + mm (cfg s).decisionPosition) = false)
    (hl : reached s.belt.d (b.entry + mm ((cfg s).exitPosition + (cfg s).exitTolerance)) = false) :
    ∃ bus exc demand value refresh, arrival s.belt.d s =
      { leftUnannounced b s.tracker.segment (handedRegister b (joinedAhead b s)) (joinedAhead b s) with
        flow := { s.flow with occupancy := s.flow.occupancy + 1, demand := demand, holdValue := value, refresh := refresh }
        bus := bus
        exc := exc } := by
  have fresh : ∀ x ∈ s.tracker.segment, x.slot ≠ b.slot := fun x hm he =>
    freeSlot_free s hn (List.mem_map.mpr ⟨x, hm, by rw [he, ← hb]; rfl⟩)
  have jam : putJamPoint s.belt.d (joinQueue b s) = joinedAhead b s := offerPosition_ahead (by exact hj)
  unfold arrival
  simp only [hb]
  rw [jam]
  exact handOn_unannounced (s := joinedAhead b s) (by rfl) fresh hx hroom hc hrd hdc hl

/-! ## The register of an arrival -/

theorem mem_claimRegister {slot : Nat} {e : Pos} {s : State} {r : Registration} (h : r ∈ s.belt.register)
    (hi : r.item ≠ .claimEnd slot) : r ∈ claimRegister slot e s := by
  unfold claimRegister
  split
  · exact List.mem_filter.mpr ⟨h, by simpa using hi⟩
  · exact mem_registerWith.mpr (.inl ⟨h, hi⟩)

theorem claimRegister_claimed {slot : Nat} {e : Pos} {s : State} (h : (cfg s).claimDistance ≠ 0) :
    ⟨.claimEnd slot, e + mm (cfg s).claimDistance⟩ ∈ claimRegister slot e s := by
  rw [claimRegister, if_neg h]
  exact mem_registerWith.mpr (.inr rfl)

theorem claimRegister_unclaimed {slot : Nat} {e : Pos} {s : State} {r : Registration} (h : (cfg s).claimDistance = 0)
    (hr : r ∈ claimRegister slot e s) : r.item ≠ .claimEnd slot := by
  rw [claimRegister, if_pos h] at hr
  simpa using (List.mem_filter.mp hr).2

/-- R21: handing on registers the three positions of the record and leaves the other positions held. -/
theorem mem_handedRegister {b : BagRecord} {s : State} {r : Registration} :
    r ∈ handedRegister b s ↔
      r = ⟨.lostPoint b.slot, b.entry + mm ((cfg s).exitPosition + (cfg s).exitTolerance)⟩ ∨
      r = ⟨.decisionPosition b.slot, b.entry + mm (cfg s).decisionPosition⟩ ∨
      r = ⟨.readerPosition b.slot, b.entry + mm (cfg s).readerPosition⟩ ∨
      r ∈ claimRegister b.slot b.entry s ∧ r.item ≠ .lostPoint b.slot ∧ r.item ≠ .decisionPosition b.slot ∧
        r.item ≠ .readerPosition b.slot := by
  simp only [handedRegister, placeRegister, mem_registerWith]
  constructor
  · rintro (⟨⟨⟨hm, h1⟩ | rfl, h2⟩ | rfl, h3⟩ | rfl)
    · exact .inr (.inr (.inr ⟨hm, h3, h2, h1⟩))
    · exact .inr (.inr (.inl rfl))
    · exact .inr (.inl rfl)
    · exact .inl rfl
  · rintro (rfl | rfl | rfl | ⟨hm, h3, h2, h1⟩)
    · exact .inr rfl
    · exact .inl ⟨.inr rfl, by simp⟩
    · exact .inl ⟨.inl ⟨.inr rfl, by simp⟩, by simp⟩
    · exact .inl ⟨.inl ⟨.inl ⟨hm, h1⟩, h2⟩, h3⟩

/-! ## What an offered frame changes -/

/-- An operation that changes the transmit queue and the reports owed alone. -/
def Offers (s t : State) : Prop := ∃ bus owed, t = { s with bus := bus, owed := owed }

namespace Offers

variable {s t u : State}

theorem refl (s : State) : Offers s s := ⟨_, _, rfl⟩

theorem trans (h : Offers s t) (k : Offers t u) : Offers s u := by
  obtain ⟨_, _, rfl⟩ := h
  obtain ⟨_, _, rfl⟩ := k
  exact ⟨_, _, rfl⟩

theorem ite {p : Prop} [Decidable p] (ht : Offers s t) (hu : Offers s u) : Offers s (if p then t else u) := by
  split
  · exact ht
  · exact hu

end Offers

theorem oweReport_offers (q : Queued) (s : State) : Offers s (oweReport q s) := by
  unfold oweReport
  split
  · exact .refl s
  · exact ⟨_, _, rfl⟩

theorem displaceFrame_offers (c : Nat) (s : State) : Offers s (displaceFrame c s) := by
  unfold displaceFrame
  have dropped : Offers s { s with bus := { s.bus with
      waiting := dropYoungest c s.bus.waiting, queueDrop := s.bus.queueDrop + 1 } } := ⟨_, _, rfl⟩
  simp only
  split
  · exact dropped
  · exact dropped.trans (oweReport_offers _ _)

theorem refuseFrame_offers (q : Queued) (s : State) : Offers s (refuseFrame q s) := by
  unfold refuseFrame
  have counted : Offers s { s with bus := { s.bus with queueDrop := s.bus.queueDrop + 1 } } := ⟨_, _, rfl⟩
  simp only
  split
  · exact counted
  · exact .ite (counted.trans ⟨_, _, rfl⟩) (counted.trans ⟨_, _, rfl⟩)

theorem offerFrame_offers (q : Queued) (s : State) : Offers s (offerFrame q s) :=
  have accepted : ∀ w, Offers w (acceptFrame q w) := fun _ => ⟨_, _, rfl⟩
  have replaced : Offers s (replaceFrame q s) := ⟨_, _, rfl⟩
  .ite (.refl s) (.ite replaced (.ite (accepted s)
    (.ite ((displaceFrame_offers _ s).trans (accepted _)) (refuseFrame_offers q s))))

theorem broadcast_offers (p : Payload) (s : State) : Offers s (broadcast p s) := .ite (offerFrame_offers _ s) (.refl s)

theorem alertFreeze_offers (n : Byte) (x y : EventCounter) (s : State) : Offers s (alertFreeze n x y s) :=
  .ite (broadcast_offers _ s) (.refl s)

/-- R160, R161: an event counted changes the two event counters, and its ALERT frames go to the transmit queue. -/
theorem countEvent_counts (e : CounterEvent) (s : State) :
    ∃ bus owed one two, countEvent e s =
      { s with bus := bus, owed := owed, exc := { s.exc with counter1 := one, counter2 := two } } := by
  unfold countEvent
  split
  · obtain ⟨bus, owed, h⟩ := (alertFreeze_offers 1 s.exc.counter1 (countOne e true s.exc.counter1)
      { s with exc := { s.exc with
          counter1 := countOne e true s.exc.counter1, counter2 := countOne e s.exc.counter1.frozen s.exc.counter2 } }).trans
      (alertFreeze_offers 2 s.exc.counter2 (countOne e s.exc.counter1.frozen s.exc.counter2) _)
    exact ⟨bus, owed, _, _, h⟩
  · exact ⟨_, _, _, _, rfl⟩

/-- R152: a stray record handed over heads the exception list; with room for its frames nothing is owed. -/
theorem handStray_made (i : StrayInfo) {s : State} (ha : acting s = true) (hroom : Room 3 s) :
    ∃ bus one two, (s.bus.due = [] → bus.due = []) ∧ handStray i s = { s with
      bus := bus
      exc := { (enterStray (stampStray i s) s).exc with counter1 := one, counter2 := two } } := by
  have due := (handStray_sends i s).due
  have owed : (handStray i s).owed = s.owed := by
    have entered : Fits 0 s (enterStray (stampStray i s) s) := .beside rfl rfl
    have all := (entered.trans (countEvent_fits .strays _)).trans (broadcast_fits (.stray (strayPayload (stampStray i s))) _)
    rw [handStray, if_pos ha]
    exact all.owed hroom
  obtain ⟨_, _, one, two, hc⟩ := countEvent_counts .strays (enterStray (stampStray i s) s)
  obtain ⟨bus, left, hb⟩ := broadcast_offers (.stray (strayPayload (stampStray i s)))
    (countEvent .strays (enterStray (stampStray i s) s))
  have all : handStray i s = _ := (if_pos ha).trans hb
  rw [hc] at all
  rw [all] at owed due
  have : left = s.owed := owed
  subst this
  exact ⟨bus, one, two, due, all⟩

/-! ## An overrun (R22) -/

/-- R22: the stray record of an overrun. -/
def overrunStray : StrayInfo :=
  { reason := .overrun, disposition := .unknownObject, plate := none, destination := none, related := none, slot := none }

/-- R22: an edge at a full queue is counted, makes a stray record and sets the jam point. -/
theorem overrunArrival_made {s : State} (ha : acting s = true) (hroom : Room 3 s)
    (hj : reached s.belt.d (s.belt.d + mm (cfg s).lJam) = false) :
    ∃ bus one two, overrunArrival s.belt.d s = { s with
      tracker := { s.tracker with overrun := s.tracker.overrun + 1 }
      belt := { s.belt with register := registerWith .jamPoint (s.belt.d + mm (cfg s).lJam) s.belt.register }
      bus := bus
      exc := { (enterStray (stampStray overrunStray s) s).exc with counter1 := one, counter2 := two } } := by
  obtain ⟨bus, one, two, -, h⟩ := handStray_made overrunStray
    (s := onTracker (fun t => { t with overrun := t.overrun + 1 }) s) ha hroom
  refine ⟨bus, one, two, ?_⟩
  change putJamPoint s.belt.d (handStray overrunStray _) = _
  rw [h, putJamPoint, offerPosition_ahead (by exact hj)]
  rfl

/-! ## The claim end (R131) -/

theorem claimEnd_reached {a b forward : Bool} {slot : Nat} {p : Pos} {s : State} (h : CountComes a b forward s)
    (ht : ∀ e, (eyeOf s e).trailing = none) (hr : ReachesOnly (.claimEnd slot) p forward s) :
    exec (.encoderCount a b) s = .next (drivePins (claimEnds slot (withdraw (.claimEnd slot) (countTaken a b forward s)))) := by
  rw [exec_count_only h ht hr (fun e => by cases e <;> rfl)]
  exact congrArg Host.Outcome.next (settle_of_none h.ready.2.1)

/-! ## O28 -/

/-- R20, R21, R131: the record of an unannounced edge. -/
theorem exec_arrival {s : State} {b : BagRecord} (h : Ready s) (ha : acting s = true) (hjam : jammed s = false)
    (he : s.belt.eyes.entry = ⟨false, false, none⟩) (hb : newRecord s (entryPosition s.tracker s.belt.d) = b)
    (hn : s.tracker.segment.length < Config.segmentSlots) (hx : s.handoff.expected = [])
    (hroom : Room ((cfg s).sources.length + 2) s) (hj : reached s.belt.d (s.belt.d + mm (cfg s).lJam) = false)
    (hc : (cfg s).claimDistance ≠ 0 → reached s.belt.d (b.entry + mm (cfg s).claimDistance) = false)
    (hrd : reached s.belt.d (b.entry + mm (cfg s).readerPosition) = false)
    (hdc : reached s.belt.d (b.entry + mm (cfg s).decisionPosition) = false)
    (hl : reached s.belt.d (b.entry + mm ((cfg s).exitPosition + (cfg s).exitTolerance)) = false) :
    ∃ bus exc demand value refresh, exec (.eyeLeadingEdge .entry) s = .next (drivePins
      { leftUnannounced b s.tracker.segment (handedRegister b (joinedAhead b s)) (joinedAhead b (eyeSeen .entry s)) with
        flow := { s.flow with occupancy := s.flow.occupancy + 1, demand := demand, holdValue := value, refresh := refresh }
        bus := bus
        exc := exc }) := by
  obtain ⟨bus, exc, demand, value, refresh, arrived⟩ :=
    arrival_unannounced (s := eyeSeen .entry s) hb hn hx hroom hj hc hrd hdc hl
  refine ⟨bus, exc, demand, value, refresh, ?_⟩
  rw [exec_leadingEdge (e := .entry) h (followsEye_acting ha fun _ => hjam) he, leadingDelivered, if_pos (by exact ha)]
  change Host.Outcome.next (settle (entryLeading (eyeSeen .entry s).belt.d (eyeSeen .entry s))) = _
  rw [entryLeading, if_pos (by exact hn), arrived]
  exact congrArg Host.Outcome.next (settle_of_none h.2.1)

theorem exec_overrun {s : State} (h : Ready s) (ha : acting s = true) (hjam : jammed s = false)
    (he : s.belt.eyes.entry = ⟨false, false, none⟩) (hn : Config.segmentSlots ≤ s.tracker.segment.length)
    (hroom : Room 3 s) (hj : reached s.belt.d (s.belt.d + mm (cfg s).lJam) = false) :
    ∃ bus one two, exec (.eyeLeadingEdge .entry) s = .next (drivePins { eyeSeen .entry s with
      tracker := { s.tracker with overrun := s.tracker.overrun + 1 }
      belt := { (eyeSeen .entry s).belt with
        register := registerWith .jamPoint (s.belt.d + mm (cfg s).lJam) s.belt.register }
      bus := bus
      exc := { (enterStray (stampStray overrunStray s) s).exc with counter1 := one, counter2 := two } }) := by
  obtain ⟨bus, one, two, overrun⟩ := overrunArrival_made (s := eyeSeen .entry s) ha hroom hj
  refine ⟨bus, one, two, ?_⟩
  rw [exec_leadingEdge (e := .entry) h (followsEye_acting ha fun _ => hjam) he, leadingDelivered, if_pos (by exact ha)]
  change Host.Outcome.next (settle (entryLeading (eyeSeen .entry s).belt.d (eyeSeen .entry s))) = _
  rw [entryLeading, if_neg (by exact not_lt.2 hn), overrun]
  exact congrArg Host.Outcome.next (settle_of_none h.2.1)

/-- Settles O28, from the edge delivered by its command: `handOn` registers each position that lies ahead, and the claim end of an
unannounced record is registered or, with Kc 0, cleared in the event. -/
theorem arrivalMakesARecordOrAnOverrun : Obligations.ArrivalMakesARecordOrAnOverrun := by
  refine ⟨fun a b forward slot p s h ht hr => ?_, fun s h ha hjam he hj => ⟨entryPosition_free, fun f hs hf =>
    entryPosition_floor hs hf, fun hn => ?_, fun hn hx hroom hrd hdc hl hc => ?_, fun hn hroom => ?_⟩⟩
  · refine ⟨_, claimEnd_reached h ht hr, ⟨rfl, rfl, rfl, rfl, rfl, rfl, rfl, rfl⟩, ?_, rfl, rfl, rfl, rfl, rfl, rfl⟩
    simp [registerWithout, claimEnds, withdraw, countTaken]
  · exact ⟨(freeSlot_lowest s hn).1, freeSlot_free s hn, (freeSlot_lowest s hn).2⟩
  · obtain ⟨bus, exc, demand, value, refresh, ht⟩ := exec_arrival h ha hjam he rfl hn hx hroom hj hc hrd hdc hl
    refine ⟨_, ht, rfl, ?_, ?_, ?_, eyeSeen_entry he, rfl, ⟨rfl, rfl, rfl, rfl, rfl, rfl, rfl, rfl⟩,
      rfl, rfl, rfl, rfl, rfl, rfl, rfl⟩
    · have jam : (⟨.jamPoint, s.belt.d + mm (cfg s).lJam⟩ : Registration) ∈
          (joinedAhead (newRecord s (entryPosition s.tracker s.belt.d)) s).belt.register :=
        mem_registerWith.mpr (.inr rfl)
      simp only [List.forall_mem_cons, List.not_mem_nil, false_imp_iff, implies_true, and_true]
      exact ⟨mem_handedRegister.mpr (.inr (.inr (.inr ⟨mem_claimRegister jam (by simp), by simp⟩))),
        mem_handedRegister.mpr (.inr (.inr (.inl rfl))), mem_handedRegister.mpr (.inr (.inl rfl)),
        mem_handedRegister.mpr (.inl rfl)⟩
    · exact fun hk => mem_handedRegister.mpr (.inr (.inr (.inr ⟨claimRegister_claimed hk, by simp⟩)))
    · refine fun hk => List.any_eq_false.mpr fun r hr => ?_
      rcases mem_handedRegister.mp hr with rfl | rfl | rfl | ⟨hm, -⟩
      · simp
      · simp
      · simp
      · exact fun hd => claimRegister_unclaimed (s := joinedAhead (newRecord s (entryPosition s.tracker s.belt.d)) s) hk hm
          (of_decide_eq_true hd)
  · obtain ⟨bus, one, two, ht⟩ := exec_overrun h ha hjam he hn hroom hj
    exact ⟨_, ht, rfl, rfl, rfl, mem_registerWith.mpr (.inr rfl), ⟨rfl, rfl, rfl, rfl, rfl, rfl, rfl, rfl⟩,
      rfl, rfl, rfl, rfl, rfl, rfl, rfl, rfl⟩

end Sys2Proof.Machine
end

section
/-! PROOFS. What a removal leaves unchanged (R28), and what it may offer to the transmit queue: the HOLD frames of the occupancy
(R142) and at most one ALERT frame for each event counter, since a counter freezes once (R160, R161). -/

namespace Sys2Proof.Machine

/-! ## The ALERT frames still to come -/

/-- R160: the event counters that have not frozen. -/
def openCounters (x : ExceptionUnit) : Nat := (if x.counter1.frozen then 0 else 1) + (if x.counter2.frozen then 0 else 1)

theorem openCounters_le (x : ExceptionUnit) : openCounters x ≤ 2 := by unfold openCounters; split_ifs <;> omega

/-- An operation that offers at most k frames and an ALERT frame for each counter that it freezes: with room for them no report is
owed, and the room left is by as much less. -/
def Pays (k : Nat) (s t : State) : Prop := ∀ n, Room (k + openCounters s.exc + n) s →
  t.owed = s.owed ∧ Room (openCounters t.exc + n) t

namespace Pays

variable {s t u : State} {j k : Nat}

theorem refl (s : State) : Pays 0 s s := fun n h => ⟨rfl, by simpa using h⟩

theorem trans (h : Pays j s t) (g : Pays k t u) : Pays (j + k) s u := fun n r => by
  obtain ⟨h1, h2⟩ := h (k + n) (le_trans (by omega) r)
  obtain ⟨g1, g2⟩ := g n (le_trans (by omega) h2)
  exact ⟨g1.trans h1, g2⟩

theorem mono (h : Pays j s t) (hk : j ≤ k) : Pays k s t := fun n r => h n (le_trans (by omega) r)

theorem ite {p : Prop} [Decidable p] (ht : Pays k s t) (hu : Pays k s u) : Pays k s (if p then t else u) := by
  split
  · exact ht
  · exact hu

/-- A change beside the transmit queue, the reports owed and the event counters. -/
theorem beside (hb : t.bus = s.bus) (ho : t.owed = s.owed) (hx : openCounters t.exc = openCounters s.exc) : Pays 0 s t :=
  fun n r => ⟨ho, by rw [Room, hb, hx]; simpa [Room] using r⟩

theorem of_fits (h : Fits k s t) (hx : openCounters t.exc = openCounters s.exc) : Pays k s t := fun n r => by
  rw [hx]
  exact h _ (le_trans (by omega) r)

theorem owed (h : Pays k s t) (r : Room (k + 2) s) : t.owed = s.owed :=
  (h 0 (le_trans (by have := openCounters_le s.exc; omega) r)).1

/-- With room for n frames more, that much is left. -/
theorem room (h : Pays k s t) {n : Nat} (r : Room (k + 2 + n) s) : Room n t :=
  le_trans (by omega) (h n (le_trans (by have := openCounters_le s.exc; omega) r)).2

end Pays

theorem Offers.exc {s t : State} (h : Offers s t) : t.exc = s.exc := by obtain ⟨_, _, rfl⟩ := h; rfl

theorem offerFrame_pays (q : Queued) (s : State) : Pays 1 s (offerFrame q s) :=
  .of_fits (offerFrame_fits q s) (by rw [(offerFrame_offers q s).exc])

theorem broadcast_pays (p : Payload) (s : State) : Pays 1 s (broadcast p s) :=
  .of_fits (broadcast_fits p s) (by rw [(broadcast_offers p s).exc])

theorem countOne_frozen {e : CounterEvent} {chain : Bool} {c : EventCounter} (h : c.frozen = true) :
    (countOne e chain c).frozen = true := by simp [countOne, h]

/-- R161: an ALERT frame is offered by the event that freezes a counter. -/
theorem alertFreeze_fits_frozen (n : Byte) (before after : EventCounter) (s : State) :
    Fits (if after.frozen = true ∧ before.frozen = false then 1 else 0) s (alertFreeze n before after s) := by
  unfold alertFreeze
  split_ifs
  · exact broadcast_fits _ s
  · exact .refl s

/-- R160: a counter that freezes now will not freeze again. -/
theorem freezes_le {before after : EventCounter} (h : before.frozen = true → after.frozen = true) :
    (if after.frozen = true ∧ before.frozen = false then 1 else 0) + (if after.frozen then 0 else 1) ≤
      if before.frozen then 0 else 1 := by
  cases hb : before.frozen with
  | false => cases after.frozen <;> simp
  | true => simp [h hb]

theorem countEvent_pays (e : CounterEvent) (s : State) : Pays 0 s (countEvent e s) := by
  unfold countEvent
  split
  · intro n r
    let one := countOne e true s.exc.counter1
    let two := countOne e s.exc.counter1.frozen s.exc.counter2
    let w : State := { s with exc := { s.exc with counter1 := one, counter2 := two } }
    have fits := (alertFreeze_fits_frozen 1 s.exc.counter1 one w).trans (alertFreeze_fits_frozen 2 s.exc.counter2 two _)
    have exc := ((alertFreeze_offers 1 s.exc.counter1 one w).trans (alertFreeze_offers 2 s.exc.counter2 two _)).exc
    have fewer : (if one.frozen = true ∧ s.exc.counter1.frozen = false then 1 else 0) +
        (if two.frozen = true ∧ s.exc.counter2.frozen = false then 1 else 0) + openCounters w.exc ≤ openCounters s.exc := by
      have h1 := freezes_le (before := s.exc.counter1) (after := one) countOne_frozen
      have h2 := freezes_le (before := s.exc.counter2) (after := two) countOne_frozen
      show _ + ((if one.frozen then 0 else 1) + (if two.frozen then 0 else 1)) ≤ _
      unfold openCounters
      omega
    simp only
    rw [exc]
    exact fits (openCounters w.exc + n) (le_trans (by show queueLength s.bus + _ ≤ _; omega) r)
  · exact .refl s

/-! ## What is out of sight of a removal -/

/-- The time, the Loader, the route table, the handoffs, the history and the exception list. -/
structure Outlook where
  time : Nat
  loader : Loader
  routes : Routes
  handoff : Handoff
  history : List Departure
  strays : List StrayRecord
  nextSeq : BitVec 16

def outlook (s : State) : Outlook :=
  ⟨s.time, s.loader, s.routes, s.handoff, s.tracker.history, s.exc.strays, s.exc.nextSeq⟩

/-- An operation out of sight of a departure: it leaves what `Outlook` shows, and offers no frame but ALERT. -/
structure Remote (s t : State) : Prop where
  outlook : Machine.outlook t = Machine.outlook s
  pays : Pays 0 s t

namespace Remote

variable {s t u : State}

theorem refl (s : State) : Remote s s := ⟨rfl, .refl s⟩

theorem trans (h : Remote s t) (k : Remote t u) : Remote s u := ⟨k.outlook.trans h.outlook, h.pays.trans k.pays⟩

theorem ite {p : Prop} [Decidable p] (ht : Remote s t) (hu : Remote s u) : Remote s (if p then t else u) := by
  split
  · exact ht
  · exact hu

theorem iteElse {p : Prop} [Decidable p] (h : Remote s t) (k : Remote t u) : Remote s (if p then t else u) := .ite h (h.trans k)

theorem iteThen {p : Prop} [Decidable p] (h : Remote s t) (k : Remote t u) : Remote s (if p then u else t) := .ite (h.trans k) h

theorem foldl {α : Type} {f : State → α → State} (h : ∀ a x, Remote a (f a x)) (l : List α) (s : State) :
    Remote s (l.foldl f s) := by
  induction l generalizing s with
  | nil => exact .refl s
  | cons x l ih => exact (h s x).trans (ih _)

/-- A change beside what `Outlook` shows, the transmit queue, the reports owed and the event counters. -/
theorem beside (h : (Machine.outlook t, t.bus, t.owed, t.exc) = (Machine.outlook s, s.bus, s.owed, s.exc)) : Remote s t := by
  obtain ⟨ho, hb, hw, hx⟩ := by simpa only [Prod.mk.injEq] using h
  exact ⟨ho, .beside hb hw (by rw [hx])⟩

/-- A remote operation after such a change. -/
theorem after (h : Remote t u) (k : (Machine.outlook t, t.bus, t.owed, t.exc) = (Machine.outlook s, s.bus, s.owed, s.exc)) :
    Remote s u := (beside k).trans h

end Remote

theorem countEvent_remote (e : CounterEvent) (s : State) : Remote s (countEvent e s) := by
  refine ⟨?_, countEvent_pays e s⟩
  obtain ⟨_, _, _, _, h⟩ := countEvent_counts e s
  rw [h]
  rfl

theorem withdraw_remote (i : Item) (s : State) : Remote s (withdraw i s) := .beside (by rfl)

theorem offerPosition_remote (i : Item) (p : Pos) {report : State → State} (s : State) (h : ∀ t, Remote t (report t)) :
    Remote s (offerPosition i p report s) :=
  .ite ((withdraw_remote i s).trans (h _)) ((withdraw_remote i s).trans (.beside (by rfl)))

/-! ## The gates (R145 to R150) -/

theorem putReason_remote (x : StopReason) (b : Bool) (s : State) : Remote s (putReason x b s) := .beside (by rfl)

theorem putGate_remote (o : Outlet) (g : Option Gate) (s : State) : Remote s (putGate o g s) := .beside (by rfl)

theorem syncStops_remote (s : State) : Remote s (syncStops s) := by
  unfold syncStops
  simp only
  exact .trans (.ite (putReason_remote _ _ s) (.refl s)) (.trans (.ite (putReason_remote _ _ _) (.refl _))
    (.trans (.ite (.refl _) (putReason_remote _ _ _)) (.ite (.refl _) (putReason_remote _ _ _))))

theorem passOverrun_remote (o : Outlet) (slot : Nat) (s : State) : Remote s (passOverrun o slot s) :=
  (countEvent_remote _ _).after (by rfl)

theorem takeUp_remote (o : Outlet) (g : Gate) (l : List BagRecord) (s : State) : Remote s (takeUp o g l s) := by
  induction l generalizing s with
  | nil => exact (withdraw_remote _ s).trans (putGate_remote _ _ _)
  | cons b rest ih =>
    unfold takeUp
    split
    · split
      · exact ih s
      · exact .ite (.refl s) (.ite ((passOverrun_remote o b.slot s).trans (ih _)) (.beside (by rfl)))
    · exact ih s

theorem determineStop_remote (o : Outlet) (s : State) : Remote s (determineStop o s) := by
  unfold determineStop; split
  · exact .refl s
  · exact (takeUp_remote _ _ _ s).trans (syncStops_remote _)

theorem latchGate_remote (o : Outlet) (s : State) : Remote s (latchGate o s) := by
  unfold latchGate; split
  · exact .refl s
  · exact .ite ((putGate_remote _ _ s).trans (syncStops_remote _)) (.refl s)

theorem recomputeStop_remote (o : Outlet) (s : State) : Remote s (recomputeStop o s) := by
  unfold recomputeStop
  repeat' split
  any_goals exact .refl s
  exact (putGate_remote _ _ s).trans (offerPosition_remote _ _ _ (latchGate_remote o))

theorem fireMoved_remote (k : Diverter) (w : Nat) (s : State) : Remote s (fireMoved k w s) := by
  unfold fireMoved
  simp only
  repeat' split
  any_goals exact .refl s
  exact recomputeStop_remote _ s

theorem stoppersGone_remote (l : List Nat) (o : Outlet) (s : State) : Remote s (stoppersGone l o s) := by
  unfold stoppersGone; split
  · exact .refl s
  · exact .ite (determineStop_remote _ s) (.refl s)

/-! ## The diverter windows (R99 to R111) -/

theorem updateWindow_remote (k : Diverter) (n : Nat) (f : Window → Window) (s : State) : Remote s (updateWindow k n f s) :=
  .beside (by rfl)

theorem dropWindow_remote (k : Diverter) (n : Nat) (s : State) : Remote s (dropWindow k n s) := by
  have withdrawn := (withdraw_remote (.releasePoint k n) s).trans (withdraw_remote (.firePoint k n) _)
  have put (w : DiverterWindows) (t : State) : Remote t (putWindows k w t) := .beside (by rfl)
  exact .ite (withdrawn.trans (put _ _)) (.ite (withdrawn.trans (put _ _)) withdrawn)

theorem bagFires_remote (k : Diverter) (slot : Nat) (s : State) : Remote s (bagFires k slot s) := by
  have passes (t : State) : Remote t (passReached k slot t) := by
    unfold passReached; split
    · exact .refl t
    · exact .beside (by rfl)
  unfold bagFires; split
  · exact (offerPosition_remote _ _ _ passes).after (by rfl)
  · exact .refl s

theorem fireWindow_remote (k : Diverter) (n : Nat) (s : State) : Remote s (fireWindow k n s) := by
  unfold fireWindow; split
  · exact .refl s
  · exact .ite (.refl s) ((updateWindow_remote _ _ _ s).trans
      (Remote.trans (.foldl (fun a slot => bagFires_remote k slot a) _ _) (stoppersGone_remote _ _ _)))

theorem setFire_remote (k : Diverter) (n : Nat) (s : State) : Remote s (setFire k n s) := by
  unfold setFire; split
  · split
    · exact (updateWindow_remote _ _ _ s).trans
        ((offerPosition_remote _ _ _ (fireWindow_remote k n)).trans (fireMoved_remote _ _ _))
    · exact .refl s
  · exact .refl s

theorem setRelease_remote (k : Diverter) (n : Nat) (s : State) : Remote s (setRelease k n s) := by
  unfold setRelease; split
  · simp only
    split
    · exact (updateWindow_remote _ _ _ s).trans (withdraw_remote _ _)
    · exact (updateWindow_remote _ _ _ s).trans (offerPosition_remote _ _ _ (dropWindow_remote k n))
  · exact .refl s

theorem withdrawBag_remote (k : Diverter) (slot : Nat) (s : State) : Remote s (withdrawBag k slot s) := by
  unfold withdrawBag; split
  · exact .refl s
  · exact .ite (.refl s) (.ite (dropWindow_remote _ _ s)
      (((updateWindow_remote _ _ _ s).iteElse (setFire_remote _ _ _)).iteElse (setRelease_remote _ _ _)))

theorem bagLeft_remote (slot : Nat) (s : State) : Remote s (bagLeft slot s) := by
  refine .foldl (fun a k => ?_) _ s
  split
  · exact .refl a
  · exact .ite ((updateWindow_remote _ _ _ a).iteThen (dropWindow_remote _ _ _)) (withdrawBag_remote _ _ a)

/-! ## The removal (R28) -/

theorem withdrawRecord_remote (slot : Nat) (s : State) : Remote s (withdrawRecord slot s) := by
  have jam : Remote s (if (openRecord s).any (fun b => decide (b.slot = slot)) then withdraw .jamPoint s else s) :=
    .ite (withdraw_remote _ s) (.refl s)
  exact (jam.trans (.beside (by rfl))).trans (.foldl (fun a k => withdraw_remote _ a) _ _)

theorem withoutRecord_remote (slot : Nat) (s : State) : Remote s (withoutRecord slot s) :=
  (withdrawRecord_remote slot s).trans ((bagLeft_remote slot _).after (by rfl))

theorem toSources_offers (p : Payload) (s : State) : Offers s (toSources p s) := by
  unfold toSources
  generalize (cfg s).sources = l
  induction l generalizing s with
  | nil => exact .refl s
  | cons x l ih => exact (offerFrame_offers _ s).trans (ih _)

theorem followHold_outlook (s : State) : outlook (followHold s) = outlook s ∧ (followHold s).exc = s.exc := by
  unfold followHold
  simp only
  split
  · exact ⟨rfl, rfl⟩
  · split
    · obtain ⟨_, _, h⟩ := toSources_offers (.hold (byteOf (wantedHold s)))
        { s with flow := { s.flow with holdValue := wantedHold s } }
      rw [h]
      exact ⟨rfl, rfl⟩
    · exact ⟨rfl, rfl⟩

theorem occupancyFall_pays (s : State) : Pays (cfg s).sources.length s (occupancyFall s) := by
  unfold occupancyFall putOccupancy
  let w : State := { s with flow := { s.flow with
    occupancy := s.flow.occupancy - 1, demand := demandAt (cfg s) (s.flow.occupancy - 1) s.flow.demand } }
  exact .of_fits (followHold_fits w) (by rw [(followHold_outlook _).2])

theorem outlook_cfg {s t : State} (h : outlook t = outlook s) : cfg t = cfg s :=
  congrArg (fun x => x.loader.config.getD .absent) h

theorem outlook_peerOf {s t : State} (h : outlook t = outlook s) (o : Outlet) : peerOf t o = peerOf s o := by
  have hr : t.routes = s.routes := congrArg Outlook.routes h
  rw [peerOf, peerOf, row, row, hr]

/-- R28, R142: a removal leaves what `Outlook` shows, and offers the HOLD frames of the occupancy. -/
theorem removeRecord_outlook (slot : Nat) (s : State) :
    outlook (removeRecord slot s) = outlook s ∧ Pays (cfg s).sources.length s (removeRecord slot s) := by
  have without := withoutRecord_remote slot s
  have fall := occupancyFall_pays (withoutRecord slot s)
  rw [outlook_cfg without.outlook] at fall
  have left : ∀ t, Remote t (stopperLeft slot t) := fun t => .foldl (fun a o => stoppersGone_remote _ o a) _ t
  rw [removeRecord_eq]
  exact ⟨(left _).outlook.trans ((followHold_outlook _).1.trans without.outlook),
    ((without.pays.trans fall).trans (left _).pays).mono (by omega)⟩

end Sys2Proof.Machine
end

section
/-! PROOFS. A departure (R29, R30, R119): the history, the handoff it opens, and the handoff that a full history ends. -/

namespace Sys2Proof.Machine

/-! ## What a departing record sends on (R119, R179) -/

theorem flagsByte_number (f : BagFlags) : flagsByte f = BitVec.ofNat 8 (flagsNumber f) := by
  obtain ⟨duplicate, mismatch, ambiguous, stray, atRisk, uncertain, overrideLate, claimable⟩ := f
  revert duplicate mismatch ambiguous stray atRisk uncertain overrideLate
  dsimp only [flagsByte, flagsNumber, bit]
  decide

theorem handoffPayload_leavingRecord (id : Byte) (b : BagRecord) : handoffPayload id (leavingRecord b) = handoffOf id b := by
  have part (p : Option ManifestPart) : (p.map rawManifest).getD noManifestBytes = (match p with
      | some p => ⟨BitVec.ofNat 8 p.ship, BitVec.ofNat 16 p.cabin, BitVec.ofNat 8 p.destination, classCode p.cls, p.revision⟩
      | none => ⟨0, 0, 0, 0, 0⟩) := by cases p <;> rfl
  have present (p : Option ManifestPart) : bit p.isSome 0 = if p.isSome then 1 else 0 := by cases p <;> rfl
  have length (a n : Option Nat) : (a.orElse (fun _ => n)).getD 0 = (match a with
      | some l => l
      | none => n.getD 0) := by cases a <;> rfl
  have reason (r : Option StrayReason) : reasonByte r = (match r with
      | some r => reasonCode r
      | none => 0) := by cases r <;> rfl
  simp only [handoffPayload, handoffOf, leavingRecord, part, present, length, reason, flagsByte_number, byteOf] <;> rfl

/-! ## The frame of a handoff -/

/-- R167: with room a frame that replaces none is accepted. -/
theorem offerFrame_waits {q : Queued} {s : State} (hn : s.loader.node ≠ .duplicate)
    (hq : ∀ x, replaces q.dest q.payload x = false) (hroom : Room 1 s) : Waits q.dest q.payload (offerFrame q s) := by
  have room : queueLength s.bus < Config.transmitQueue := hroom
  rw [offerFrame, if_neg hn, if_neg (by simp [hq]), if_pos room]
  exact ⟨q, List.mem_append_right _ (List.mem_singleton.mpr rfl), rfl, rfl⟩

theorem handoff_replaces (dest : Byte) (p : HandoffPayload) (x : Queued) : replaces dest (.handoff p) x = false := by
  simp [replaces]

/-- R119: the attempt of the handoff at the head of the history, where no other is open under its id to its peer. -/
theorem makeAttempt_opened {peer id : Byte} {d : Departure} {rest : List Departure} {g : Outgoing} {s : State}
    (h : s.tracker.history = d :: rest) (hd : awaits peer id d = true) (hg : d.outgoing = some g)
    (hr : ∀ x ∈ rest, awaits peer id x = false) :
    makeAttempt peer id s = offerFrame ⟨peer, .handoff g.payload, d.attempts + 1⟩ { s with tracker := { s.tracker with
      history := { d with attempts := d.attempts + 1, outgoing := some ⟨g.payload, .answer Config.answerWait⟩ } :: rest } } := by
  have others (f : Departure → Departure) : rest.map (fun x => if awaits peer id x then f x else x) = rest :=
    (List.map_congr_left fun x hx => by simp [hr x hx]).trans (List.map_id _)
  have found : openDeparture peer id s = some d := by simp [openDeparture, h, hd]
  simp only [makeAttempt, found, hg, updateDeparture, h, List.map_cons, hd, if_true, others]

theorem makeAttempt_pays (peer id : Byte) (s : State) : Pays 1 s (makeAttempt peer id s) := by
  unfold makeAttempt
  split
  · exact (Pays.refl s).mono (by omega)
  · split
    · exact (Pays.refl s).mono (by omega)
    · exact ((Pays.beside (by rfl) (by rfl) (by rfl)).trans (offerFrame_pays _ _)).mono (by omega)

theorem makeAttempt_exc (peer id : Byte) (s : State) : (makeAttempt peer id s).exc = s.exc := by
  unfold makeAttempt
  split
  · rfl
  · split
    · rfl
    · exact (offerFrame_offers _ _).exc

/-! ## The history (R29, R30) -/

/-- R30: an entry written now ends no open handoff: the history is not full, or the oldest departure awaits no answer. -/
def EndsNone (l : List Departure) : Prop := l.length < 32 ∨ ∀ old, l.getLast? = some old → old.state ≠ .awaitingAccept

/-- The history without its oldest departure, the ring being full. -/
def cutHistory (s : State) : State := { s with tracker := { s.tracker with history := s.tracker.history.take 31 } }

/-- A departure at the head of the history. -/
def atHead (d : Departure) (s : State) : State := { s with tracker := { s.tracker with history := d :: s.tracker.history } }

theorem writeHistory_full {d old : Departure} {s : State} (hl : 32 ≤ s.tracker.history.length)
    (ho : s.tracker.history.getLast? = some old) : writeHistory d s =
      atHead d (if old.state = .awaitingAccept then countGiveUp old.peer (cutHistory s) else cutHistory s) := by
  have full : ¬ s.tracker.history.length < Config.historySize := not_lt.2 hl
  rw [writeHistory, if_neg full, ho]
  rfl

theorem writeHistory_endsNone {d : Departure} {s : State} (h : EndsNone s.tracker.history) :
    writeHistory d s = atHead d (cutHistory s) := by
  by_cases hl : s.tracker.history.length < Config.historySize
  · rw [writeHistory, if_pos hl, cutHistory, List.take_of_length_le (Nat.le_of_lt_succ hl)]
    rfl
  · have full : s.tracker.history ≠ [] := fun hn => hl (by rw [hn]; decide)
    obtain ⟨old, ho⟩ := Option.isSome_iff_exists.mp (List.getLast?_isSome.mpr full)
    rw [writeHistory_full (not_lt.1 hl) ho, if_neg (h.resolve_left hl old ho)]

/-- The entry of a departure through an outlet that is no PEER. -/
def departureOf (o : Outlet) (v : Leaving) (s : State) : Departure :=
  { plate := v.plate, outlet := o, destination := v.destination, time := seconds s, peer := 0, id := none, state := .none,
    attempts := 0, outgoing := none }

/-- The entry of a departure that opens a handoff to a peer, with a number of attempts made. -/
def openedTo (peer : Byte) (n : Nat) (o : Outlet) (v : Leaving) (s : State) : Departure :=
  { departureOf o v s with peer := peer, id := some s.handoff.nextId, state := .awaitingAccept, attempts := n,
                           outgoing := some ⟨handoffPayload s.handoff.nextId v, .answer 50⟩ }

/-- R119: the next handoff id has been taken. -/
def idTaken (s : State) : State := { s with handoff := { s.handoff with nextId := s.handoff.nextId + 1 } }

theorem enterHistory_none {o : Outlet} {v : Leaving} {s : State} (h : peerOf s o = none) :
    enterHistory o v s = writeHistory (departureOf o v s) s := by rw [enterHistory, h]; rfl

theorem enterHistory_peer {o : Outlet} {v : Leaving} {s : State} {peer : Byte} (h : peerOf s o = some peer) :
    enterHistory o v s = makeAttempt peer s.handoff.nextId (writeHistory (openedTo peer 0 o v s) (idTaken s)) := by
  rw [enterHistory, h]; rfl

/-- R119: a departure through a PEER outlet makes attempt 1 at once. -/
theorem enterHistory_opened {o : Outlet} {v : Leaving} {s w : State} {peer : Byte} (h : peerOf s o = some peer)
    (ho : openDeparture peer s.handoff.nextId s = none) (hw : writeHistory (openedTo peer 0 o v s) (idTaken s) = w)
    (hl : w.tracker.history = openedTo peer 0 o v s :: s.tracker.history.take 31) :
    enterHistory o v s = offerFrame ⟨peer, .handoff (handoffPayload s.handoff.nextId v), 1⟩ { w with tracker := { w.tracker with
      history := openedTo peer 1 o v s :: s.tracker.history.take 31 } } := by
  have others : ∀ x ∈ s.tracker.history.take 31, awaits peer s.handoff.nextId x = false := fun x hx => by
    simpa using List.find?_eq_none.mp ho x (List.mem_of_mem_take hx)
  rw [enterHistory_peer h, hw, makeAttempt_opened hl (by simp [awaits, openedTo]) rfl others]
  rfl

/-- R119: the entry as attempt 1 leaves it, and its HANDOFF frame. -/
theorem enterHistory_sent {o : Outlet} {v : Leaving} {s w : State} {peer : Byte} (h : peerOf s o = some peer)
    (ho : openDeparture peer s.handoff.nextId s = none) (hw : writeHistory (openedTo peer 0 o v s) (idTaken s) = w)
    (hl : w.tracker.history = openedTo peer 0 o v s :: s.tracker.history.take 31) :
    Offers { w with tracker := { w.tracker with history := openedTo peer 1 o v s :: s.tracker.history.take 31 } }
        (enterHistory o v s) ∧
      Pays 1 w (enterHistory o v s) ∧
      (w.loader.node ≠ .duplicate → Room 1 w →
        Waits peer (.handoff (handoffPayload s.handoff.nextId v)) (enterHistory o v s)) := by
  rw [enterHistory_opened h ho hw hl]
  exact ⟨offerFrame_offers _ _, ((Pays.beside (by rfl) (by rfl) (by rfl)).trans (offerFrame_pays _ _)).mono (by omega),
    fun hn hroom => offerFrame_waits hn (handoff_replaces _ _) hroom⟩

/-- The entry heads the history, whatever became of the oldest one. -/
theorem writeHistory_head (d : Departure) (s : State) : (writeHistory d s).tracker.history.head? = some d := by
  unfold writeHistory
  simp only
  split
  · rfl
  · split <;> rfl

/-- R29: the entry that heads the history after a departure. -/
theorem enterHistory_head (o : Outlet) (v : Leaving) (s : State) :
    (enterHistory o v s).tracker.history.head?.map Departure.fixed = some
      { departureOf o v s with peer := (peerOf s o).getD 0, id := (peerOf s o).map (fun _ => s.handoff.nextId) } := by
  rcases h : peerOf s o with _ | peer
  · rw [enterHistory_none h, writeHistory_head]
    rfl
  · have attempted := (makeAttempt_calm peer s.handoff.nextId (writeHistory (openedTo peer 0 o v s) (idTaken s))).steady
    have fixed := congrArg (fun x => x.tracker.history.head?) attempted
    simp only [steady, List.head?_map] at fixed
    rw [enterHistory_peer h, fixed, writeHistory_head]
    rfl

theorem enterHistory_pays {o : Outlet} {v : Leaving} {s : State} (h : EndsNone s.tracker.history) :
    Pays 1 s (enterHistory o v s) ∧ (enterHistory o v s).exc = s.exc := by
  rcases hp : peerOf s o with _ | peer
  · rw [enterHistory_none hp, writeHistory_endsNone h]
    exact ⟨(Pays.beside (by rfl) (by rfl) (by rfl)).mono (by omega), rfl⟩
  · rw [enterHistory_peer hp, writeHistory_endsNone (s := idTaken s) h]
    exact ⟨((Pays.beside (by rfl) (by rfl) (by rfl)).trans (makeAttempt_pays _ _ _)).mono (by omega), makeAttempt_exc _ _ _⟩

/-! ## A handoff that a full history ends (R30, R122) -/

theorem peerGaveUp_few {station : Byte} {s : State} (h : ∀ q ∈ s.handoff.peers, q.giveUps < 2) :
    peerGaveUp station s = updatePeer station (fun q => { q with giveUps := q.giveUps + 1 }) s := by
  have counted : updatePeer station (fun q => { q with giveUps := min Config.giveUpLimit (q.giveUps + 1) }) s =
      updatePeer station (fun q => { q with giveUps := q.giveUps + 1 }) s := by
    have : ∀ q ∈ s.handoff.peers,
        (if q.station = station then { q with giveUps := min Config.giveUpLimit (q.giveUps + 1) } else q) =
        if q.station = station then { q with giveUps := q.giveUps + 1 } else q := fun q hq => by
      rw [Nat.min_eq_right (by have := h q hq; show _ ≤ 3; omega)]
    simp only [updatePeer, List.map_congr_left this]
  unfold peerGaveUp
  rw [counted]
  refine if_neg (Bool.eq_false_iff.mp (List.any_eq_false.mpr fun q hq => ?_))
  obtain ⟨x, hx, rfl⟩ := List.mem_map.mp hq
  have few : (if x.station = station then { x with giveUps := x.giveUps + 1 } else x).giveUps ≠ Config.giveUpLimit := by
    have : x.giveUps < 2 := h x hx
    show _ ≠ 3
    split_ifs
    · exact fun h => by have : x.giveUps + 1 = 3 := h; omega
    · omega
  simp [few]

/-- R30, R122: the oldest open handoff gives up, its peer still short of three give-ups. -/
theorem writeHistory_gaveUp {d old : Departure} {s : State} (hl : 32 ≤ s.tracker.history.length)
    (ho : s.tracker.history.getLast? = some old) (hs : old.state = .awaitingAccept) (h : ∀ q ∈ s.handoff.peers, q.giveUps < 2) :
    ∃ bus owed one two, writeHistory d s = { s with
      tracker := { s.tracker with history := d :: s.tracker.history.take 31 }
      handoff := { s.handoff with
        giveUps := s.handoff.giveUps + 1
        peers := s.handoff.peers.map (fun q => if q.station = old.peer then { q with giveUps := q.giveUps + 1 } else q) }
      bus := bus, owed := owed, exc := { s.exc with counter1 := one, counter2 := two } } ∧ Pays 0 s (writeHistory d s) := by
  let u : State := { cutHistory s with handoff := { s.handoff with giveUps := s.handoff.giveUps + 1 } }
  obtain ⟨bus, owed, one, two, hc⟩ := countEvent_counts .handoffGiveUps u
  have pays := countEvent_pays .handoffGiveUps u
  have few : ∀ q ∈ (countEvent .handoffGiveUps u).handoff.peers, q.giveUps < 2 := by rw [hc]; exact h
  have given : countGiveUp old.peer (cutHistory s) =
      updatePeer old.peer (fun q => { q with giveUps := q.giveUps + 1 }) (countEvent .handoffGiveUps u) :=
    peerGaveUp_few few
  rw [writeHistory_full hl ho, if_pos hs, given]
  refine ⟨bus, owed, one, two, by rw [hc]; rfl, ?_⟩
  exact (Pays.beside (s := s) (t := u) (by rfl) (by rfl) (by rfl)).trans (pays.trans (.beside (by rfl) (by rfl) (by rfl)))

/-- The give-up total and the peers once a history has taken an entry. -/
def givenUp (l : List Departure) (h : Handoff) (total : BitVec 32) (peers : List PeerState) : Prop :=
  (EndsNone l → total = h.giveUps ∧ peers = h.peers) ∧
  ∀ old, 32 ≤ l.length → l.getLast? = some old → old.state = .awaitingAccept → total = h.giveUps + 1 ∧
    peers = h.peers.map (fun q => if q.station = old.peer then { q with giveUps := q.giveUps + 1 } else q)

/-- R30: an entry written in the history, every peer short of two give-ups. -/
theorem writeHistory_written (d : Departure) {s : State} (h : ∀ q ∈ s.handoff.peers, q.giveUps < 2) :
    ∃ bus owed one two total peers, givenUp s.tracker.history s.handoff total peers ∧ Pays 0 s (writeHistory d s) ∧
      writeHistory d s = { s with
        tracker := { s.tracker with history := d :: s.tracker.history.take 31 }
        handoff := { s.handoff with giveUps := total, peers := peers }
        bus := bus, owed := owed, exc := { s.exc with counter1 := one, counter2 := two } } := by
  by_cases he : EndsNone s.tracker.history
  · have none_ends : ∀ old, 32 ≤ s.tracker.history.length → s.tracker.history.getLast? = some old →
        old.state ≠ .awaitingAccept := fun old hl ho => he.resolve_left (not_lt.2 hl) old ho
    refine ⟨s.bus, s.owed, s.exc.counter1, s.exc.counter2, s.handoff.giveUps, s.handoff.peers,
      ⟨fun _ => ⟨rfl, rfl⟩, fun old hl ho ha => absurd ha (none_ends old hl ho)⟩, ?_, ?_⟩
    · rw [writeHistory_endsNone he]
      exact .beside (by rfl) (by rfl) (by rfl)
    · rw [writeHistory_endsNone he]
      rfl
  · obtain ⟨hl, old, ho, ha⟩ : 32 ≤ s.tracker.history.length ∧
        ∃ old, s.tracker.history.getLast? = some old ∧ old.state = .awaitingAccept := by
      simpa [EndsNone] using he
    obtain ⟨bus, owed, one, two, written, pays⟩ := writeHistory_gaveUp (d := d) hl ho ha h
    refine ⟨bus, owed, one, two, _, _, ⟨fun hn => absurd hn he, fun x _ hx _ => ⟨rfl, ?_⟩⟩, pays, written⟩
    rw [Option.some.inj (hx.symm.trans ho)]

end Sys2Proof.Machine
end

section
/-! PROOFS. The outlet eyes (R31 to R38): which record an edge accounts for, the departure of a record due, and an unknown
object. -/

namespace Sys2Proof.Machine

/-! ## The record an edge accounts for (R31, R33) -/

theorem find?_eq_some_iff_firstOf {α : Type} {test : α → Bool} {p : α → Prop} {l : List α} {b : α}
    (h : ∀ x, test x = true ↔ p x) :
    l.find? test = some b ↔ FirstOf p l b := by
  rw [List.find?_eq_some_iff_append, FirstOf]
  constructor
  · rintro ⟨hb, pre, post, hl, hpre⟩
    exact ⟨pre, post, hl, (h b).mp hb, fun y hy hp => by simpa [(h y).mpr hp] using hpre y hy⟩
  · rintro ⟨pre, post, hl, hb, hpre⟩
    exact ⟨(h b).mpr hb, pre, post, hl, fun y hy => by simpa using fun ht => hpre y hy ((h y).mp ht)⟩

theorem confirmable_iff (k : Diverter) (b : BagRecord) (s : State) : confirmable s k = some b ↔ FirstOf (fun y =>
    y.tracking = .diverting ∧ y.chosen = some (outletOfDiverter k) ∧ y.confirm ≠ none) s.tracker.segment b :=
  find?_eq_some_iff_firstOf fun x => by simp [Option.isSome_iff_ne_none, and_assoc]

theorem inExitWindow_iff (c : JunctionConfig) (p : Pos) (y : BagRecord) : inExitWindow c p y = true ↔
    (c.exitPosition * 1000 : Int) - c.exitTolerance * 1000 ≤ posDiff p y.entry ∧
      posDiff p y.entry ≤ (c.exitPosition : Int) * 1000 + c.exitTolerance * 1000 := by
  rw [inExitWindow, decide_eq_true_iff, Int.sub_mul, Int.add_mul]

theorem firstTier_iff (y : BagRecord) : firstTier y = true ↔
    y.tracking = .onBelt ∨ y.tracking = .decided ∨ y.tracking = .releasedUnconfirmed := by
  unfold firstTier
  cases y.tracking <;> simp

theorem exitMatch_iff (p : Pos) (b : BagRecord) (s : State) : exitMatch s p = some b ↔
    FirstOf (fun y => firstTier y = true ∧ inExitWindow (cfg s) p y = true) s.tracker.segment b ∨
    ((∀ y ∈ s.tracker.segment, ¬ (firstTier y = true ∧ inExitWindow (cfg s) p y = true)) ∧
      FirstOf (fun y => y.tracking = .diverting ∧ inExitWindow (cfg s) p y = true) s.tracker.segment b) := by
  have first (x : BagRecord) : s.tracker.segment.find? (fun b => firstTier b && inExitWindow (cfg s) p b) = some x ↔
      FirstOf (fun y => firstTier y = true ∧ inExitWindow (cfg s) p y = true) s.tracker.segment x :=
    find?_eq_some_iff_firstOf fun x => by simp
  have second : s.tracker.segment.find? (fun b => decide (b.tracking = .diverting) && inExitWindow (cfg s) p b) = some b ↔
      FirstOf (fun y => y.tracking = .diverting ∧ inExitWindow (cfg s) p y = true) s.tracker.segment b :=
    find?_eq_some_iff_firstOf fun x => by simp
  rw [exitMatch]
  rcases hf : s.tracker.segment.find? (fun b => firstTier b && inExitWindow (cfg s) p b) with _ | x
  · have absent : ∀ y ∈ s.tracker.segment, ¬ (firstTier y = true ∧ inExitWindow (cfg s) p y = true) := fun y hy => by
      simpa using List.find?_eq_none.mp hf y hy
    have notFirst : ¬ FirstOf (fun y => firstTier y = true ∧ inExitWindow (cfg s) p y = true) s.tracker.segment b :=
      fun hb => by rw [(first b).mpr hb] at hf; cases hf
    exact second.trans ⟨fun hb => .inr ⟨absent, hb⟩, fun hb => (hb.resolve_left notFirst).2⟩
  · have present : ¬ ∀ y ∈ s.tracker.segment, ¬ (firstTier y = true ∧ inExitWindow (cfg s) p y = true) := fun hn =>
      hn x (List.mem_of_find?_eq_some hf) (by simpa using List.find?_some hf)
    rw [← first b, hf]
    exact ⟨.inl, fun hb => hb.resolve_right fun hr => present hr.1⟩

/-! ## A stray record handed over (R152) -/

theorem handStray_strays (i : StrayInfo) {s : State} (ha : acting s = true) : MadeStray i s (handStray i s) := by
  obtain ⟨_, _, _, _, hc⟩ := countEvent_counts .strays (enterStray (stampStray i s) s)
  have sent := (broadcast_offers (.stray (strayPayload (stampStray i s)))
    (countEvent .strays (enterStray (stampStray i s) s))).exc
  have exc : (handStray i s).exc = (countEvent .strays (enterStray (stampStray i s) s)).exc := by
    rw [handStray, if_pos ha]; exact sent
  rw [hc] at exc
  constructor <;> rw [exc] <;> rfl

theorem handStray_pays (i : StrayInfo) (s : State) : Pays 1 s (handStray i s) :=
  have entered (r : StrayRecord) : Pays 0 s (enterStray r s) := .beside (by rfl) (by rfl) (by rfl)
  .ite (((entered _).trans (countEvent_pays _ _)).trans (broadcast_pays _ _)) ((Pays.refl s).mono (by omega))

/-! ## A record settled before it departs (R35, R38) -/

/-- R35: a misrouted record, with the reason of its stray record. -/
def misroutedAs (b : BagRecord) : BagRecord :=
  { b with flags := { b.flags with stray := true }, reason := some (if b.flags.uncertain then .uncertain else .misrouted) }

/-- A record b is settled, to depart as g: misrouted it makes a stray record (R35), else only where it carries UNCERTAIN (R38). -/
structure Settled (misrouted : Prop) (b g : BagRecord) (s t : State) : Prop where
  level : Level s t
  routes : t.routes = s.routes
  handoff : t.handoff = s.handoff
  history : t.tracker.history = s.tracker.history
  pays : Pays 1 s t
  same : g.slot = b.slot ∧ g.plate = b.plate ∧ g.part = b.part
  strays : misrouted → (∀ id, handoffOf id g = handoffOf id (misroutedAs b)) ∧
    MadeStray (bagStray b (if b.flags.uncertain then .uncertain else .misrouted) (misrouteDisposition s b)) s t
  straight : ¬ misrouted → g = b ∧ (b.flags.uncertain = true → MadeStray (bagStray b .uncertain .uncertain) s t) ∧
    (b.flags.uncertain = false → t.exc.strays = s.exc.strays)

theorem settleUncertain_settled {misrouted : Prop} {b : BagRecord} {s : State} (ha : acting s = true) (hm : ¬ misrouted) :
    Settled misrouted b b s (settleUncertain b s) := by
  obtain ⟨⟨_, _, _, _, _, sent⟩, -⟩ : Sends s (settleUncertain b s) := .ite (handStray_sends _ s) (.refl s)
  exact {
    level := (settleUncertain_calm b s).level
    routes := by rw [sent]
    handoff := by rw [sent]
    history := by rw [sent]
    pays := .ite (handStray_pays _ s) ((Pays.refl s).mono (by omega))
    same := ⟨rfl, rfl, rfl⟩
    strays := fun h => absurd h hm
    straight := fun _ => ⟨rfl, fun hu => by rw [settleUncertain, if_pos hu]; exact handStray_strays _ ha,
      fun hu => by rw [settleUncertain, if_neg (by simp [hu])]⟩ }

/-- R35, R36: the record an EYE_X0 edge matches departs, settled. -/
theorem exitEdge_due {p : Pos} {b : BagRecord} {s : State} (ha : acting s = true) (h : exitMatch s p = some b) :
    ∃ g t, exitEdge p s = departRecord .o0 g t ∧ Settled (¬ (b.tracking = .decided ∧ b.chosen = some .o0)) b g s t := by
  rw [exitEdge, h]
  by_cases hd : b.tracking = .decided ∧ b.chosen = some .o0
  · exact ⟨b, _, if_pos hd, settleUncertain_settled ha (not_not.mpr hd)⟩
  · let g : BagRecord := { misroutedAs b with confirm := none }
    let i := bagStray b (if b.flags.uncertain then .uncertain else .misrouted) (misrouteDisposition s b)
    obtain ⟨⟨_, _, _, _, _, sent⟩, -⟩ := handStray_sends i (updateBag b.slot (fun _ => g) s)
    refine ⟨g, handStray i (updateBag b.slot (fun _ => g) s), if_neg hd, ?_⟩
    exact {
      level := (updateBag_level b.slot (fun _ => g) s (by exact fun x hx => hx.symm)).trans (handStray_calm i _).level
      routes := by rw [sent]; rfl
      handoff := by rw [sent]; rfl
      history := by rw [sent]; rfl
      pays := ((Pays.beside (by rfl) (by rfl) (by rfl)).trans (handStray_pays i _)).mono (by omega)
      same := ⟨rfl, rfl, rfl⟩
      strays := fun _ => ⟨fun _ => rfl, handStray_strays i (s := updateBag b.slot (fun _ => g) s) ha⟩
      straight := fun h => absurd hd h }

/-- R31: the record a CFMk edge confirms departs, settled. -/
theorem chuteEdge_due {k : Diverter} {b : BagRecord} {s : State} (ha : acting s = true) (h : confirmable s k = some b) :
    ∃ t, chuteEdge k s = departRecord (outletOfDiverter k) b t ∧ Settled False b b s t := by
  rw [chuteEdge, h]
  let diverted : BagRecord → BagRecord := fun b => { b with tracking := .diverted, confirm := none }
  have settled := settleUncertain_settled (b := b) (s := updateBag b.slot diverted s) ha not_false
  exact ⟨_, rfl, {
    level := (updateBag_level b.slot diverted s fun _ _ => rfl).trans settled.level
    routes := settled.routes
    handoff := settled.handoff
    history := settled.history
    pays := ((Pays.beside (by rfl) (by rfl) (by rfl)).trans settled.pays).mono (by omega)
    same := settled.same
    strays := False.elim
    straight := settled.straight }⟩

/-! ## The departure (R29, R119) -/

/-- R28, R29: the state of the tracker and of the blocks as the departure enters the history. -/
def removedFor (b : BagRecord) (s : State) : State :=
  removeRecord b.slot (onTracker (fun t => { t with departed := t.departed + 1 }) s)

theorem removedFor_outlook (b : BagRecord) (s : State) :
    outlook (removedFor b s) = outlook s ∧ Pays (cfg s).sources.length s (removedFor b s) := by
  obtain ⟨same, pays⟩ := removeRecord_outlook b.slot (onTracker (fun t => { t with departed := t.departed + 1 }) s)
  exact ⟨same, ((Pays.beside (by rfl) (by rfl) (by rfl)).trans pays).mono (by simp [cfg, onTracker])⟩

theorem departRecord_departs (o : Outlet) (b : BagRecord) (s : State) : Departs o b s (departRecord o b s) := by
  obtain ⟨inner, slots, entered, departed, lost⟩ :=
    removeRecord_inner b.slot (onTracker (fun t => { t with departed := t.departed + 1 }) s)
  have entry := enterHistory_level o (leavingRecord b) (removedFor b s)
  have same := (removedFor_outlook b s).1
  have head := enterHistory_head o (leavingRecord b) (removedFor b s)
  have hid : (removedFor b s).handoff = s.handoff := congrArg Outlook.handoff same
  have htime : (removedFor b s).time = s.time := congrArg Outlook.time same
  rw [outlook_peerOf same, hid, departureOf, seconds, htime] at head
  exact {
    keeps := Inner.keeps (((onTracker_inner _ s rfl).trans inner).trans entry.toInner)
    departed := entry.departed.trans departed
    entered := entry.entered.trans entered
    lost := entry.lost.trans lost
    slots := entry.slots.trans slots
    history := head }

theorem Keeps.trans {s t u : State} (h : Keeps s t) (k : Keeps t u) : Keeps s u :=
  ⟨k.time.trans h.time, k.inReset.trans h.inReset, k.pending.trans h.pending, k.lines.trans h.lines, k.loader.trans h.loader,
   k.d.trans h.d, k.late.trans h.late, k.epoch.trans h.epoch⟩

theorem Departs.settled {misrouted : Prop} {o : Outlet} {b g : BagRecord} {s t u : State} (h : Departs o g t u)
    (k : Settled misrouted b g s t) : Departs o b s u := by
  obtain ⟨hslot, hplate, hpart⟩ := k.same
  have keeps := k.level.toInner.keeps
  have head := h.history
  have peer : peerOf t o = peerOf s o := by rw [peerOf, peerOf, row, row, k.routes]
  rw [peer, k.handoff, keeps.time, hplate, hpart] at head
  exact {
    keeps := keeps.trans h.keeps
    departed := by rw [h.departed, k.level.departed]
    entered := by rw [h.entered, k.level.entered]
    lost := by rw [h.lost, k.level.lost]
    slots := by rw [h.slots, k.level.slots, hslot]
    history := head }

theorem Departs.calm {o : Outlet} {b : BagRecord} {s t u : State} (h : Departs o b s t) (k : Calm t u) : Departs o b s u where
  keeps := h.keeps.trans k.inner.keeps
  departed := k.departed.trans h.departed
  entered := k.entered.trans h.entered
  lost := k.lost.trans h.lost
  slots := k.slots.trans h.slots
  history := by
    have fixed := congrArg (fun x => x.tracker.history.head?) k.steady
    simp only [steady, List.head?_map] at fixed
    rw [fixed, h.history]

/-- R29: with the history not full, or its oldest handoff ended, a departure offers its HANDOFF frame alone, and makes no stray
record. -/
theorem departRecord_pays {o : Outlet} {b : BagRecord} {s : State} (h : EndsNone s.tracker.history) :
    Pays ((cfg s).sources.length + 1) s (departRecord o b s) ∧ (departRecord o b s).exc.strays = s.exc.strays ∧
      (departRecord o b s).exc.nextSeq = s.exc.nextSeq := by
  obtain ⟨same, pays⟩ := removedFor_outlook b s
  have hh : (removedFor b s).tracker.history = s.tracker.history := congrArg Outlook.history same
  obtain ⟨entered, exc⟩ := enterHistory_pays (o := o) (v := leavingRecord b) (hh ▸ h)
  refine ⟨pays.trans entered, ?_, ?_⟩
  · exact (congrArg ExceptionUnit.strays exc).trans (congrArg Outlook.strays same)
  · exact (congrArg ExceptionUnit.nextSeq exc).trans (congrArg Outlook.nextSeq same)

theorem departRecord_none {o : Outlet} {b : BagRecord} {s : State} (h : EndsNone s.tracker.history) (hp : peerOf s o = none) :
    (departRecord o b s).tracker.history = departureOf o (leavingRecord b) s :: s.tracker.history.take 31 ∧
      (departRecord o b s).handoff.nextId = s.handoff.nextId := by
  have same := (removedFor_outlook b s).1
  have hh : (removedFor b s).tracker.history = s.tracker.history := congrArg Outlook.history same
  have ht : (removedFor b s).time = s.time := congrArg Outlook.time same
  have written : departRecord o b s = _ := (enterHistory_none (v := leavingRecord b) ((outlook_peerOf same o).trans hp)).trans
    (writeHistory_endsNone (hh ▸ h))
  rw [written]
  refine ⟨?_, congrArg (fun x => x.handoff.nextId) same⟩
  simp only [atHead, cutHistory, hh, departureOf, seconds, ht]

/-- R119: a departure through a PEER outlet opens a handoff: attempt 1 is made, its HANDOFF frame waits. -/
theorem departRecord_peer {o : Outlet} {b : BagRecord} {s : State} {peer : Byte} (h : EndsNone s.tracker.history)
    (hp : peerOf s o = some peer) (ho : openDeparture peer s.handoff.nextId s = none) :
    (departRecord o b s).tracker.history = openedTo peer 1 o (leavingRecord b) s :: s.tracker.history.take 31 ∧
      (departRecord o b s).handoff.nextId = s.handoff.nextId + 1 ∧
      (s.loader.node ≠ .duplicate → Room 1 (removedFor b s) →
        Waits peer (.handoff (handoffOf s.handoff.nextId b)) (departRecord o b s)) := by
  have same := (removedFor_outlook b s).1
  generalize hw : removedFor b s = w at same
  have hh : w.tracker.history = s.tracker.history := congrArg Outlook.history same
  have ht : w.time = s.time := congrArg Outlook.time same
  have hn : w.handoff = s.handoff := congrArg Outlook.handoff same
  have hl : w.loader = s.loader := congrArg Outlook.loader same
  obtain ⟨⟨_, _, sent⟩, -, waits⟩ := enterHistory_sent (v := leavingRecord b) ((outlook_peerOf same o).trans hp)
    (by rw [hn, openDeparture, hh]; exact ho) (writeHistory_endsNone (s := idTaken w) (hh ▸ h)) (by rfl)
  have departs : departRecord o b s = enterHistory o (leavingRecord b) w := congrArg (enterHistory o (leavingRecord b)) hw
  refine ⟨?_, ?_, fun hd room => ?_⟩
  · rw [departs, sent]
    simp only [openedTo, departureOf, seconds, hh, ht, hn]
  · rw [departs, sent]
    exact congrArg (fun x => x.nextId + 1) hn
  · rw [departs, ← handoffPayload_leavingRecord, ← hn]
    exact waits (by exact hl ▸ hd) room

/-! ## An unknown object (R32, R36) -/

/-- R32: the stray record of an unknown object. -/
def unknownStray (peer : Option Byte) : StrayInfo :=
  { reason := .unknownAtOutlet, disposition := .unknownObject, plate := none, destination := none, related := peer, slot := none }

def unknownCounted (s : State) : State := onTracker (fun t => { t with unknown := t.unknown + 1 }) s

theorem unknownObject_none {o : Outlet} {s : State} (h : peerOf s o = none) :
    unknownObject o s = handStray (unknownStray none) (unknownCounted s) := by
  rw [unknownObject, h]; rfl

theorem unknownObject_peer {o : Outlet} {s : State} {peer : Byte} (h : peerOf s o = some peer) :
    unknownObject o s = enterHistory o leavingUnknown (handStray (unknownStray (some peer)) (unknownCounted s)) := by
  rw [unknownObject, h]; rfl

/-- R32, R119: an unknown object at a PEER outlet heads the history, and its HANDOFF frame waits. -/
theorem unknownObject_sent {o : Outlet} {s : State} {peer : Byte} (ha : acting s = true) (hp : peerOf s o = some peer)
    (ho : openDeparture peer s.handoff.nextId s = none) (hd : s.loader.node ≠ .duplicate) (hroom : Room 4 s)
    (few : ∀ q ∈ s.handoff.peers, q.giveUps < 2) :
    ∃ bus exc total peers, givenUp s.tracker.history s.handoff total peers ∧
      MadeStray (unknownStray (some peer)) s { s with exc := exc } ∧
      Waits peer (.handoff (handoffPayload s.handoff.nextId leavingUnknown)) { s with bus := bus } ∧
      ∃ value refresh, unknownObject o s = { s with
        tracker := { s.tracker with
          unknown := s.tracker.unknown + 1
          history := openedTo peer 1 o leavingUnknown s :: s.tracker.history.take 31 }
        handoff := { s.handoff with nextId := s.handoff.nextId + 1, giveUps := total, peers := peers }
        flow := { s.flow with holdValue := value, refresh := refresh }
        bus := bus, exc := exc } := by
  have made := handStray_strays (unknownStray (some peer)) (s := unknownCounted s) ha
  have pays : Pays 1 s (handStray (unknownStray (some peer)) (unknownCounted s)) :=
    ((Pays.beside (by rfl) (by rfl) (by rfl)).trans (handStray_pays _ _)).mono (by omega)
  obtain ⟨⟨bus, owed, exc, value, refresh, strayed⟩, -⟩ := handStray_sends (unknownStray (some peer)) (unknownCounted s)
  generalize hu : handStray (unknownStray (some peer)) (unknownCounted s) = u at made pays strayed
  obtain ⟨bus, owed, one, two, total, peers, gave, written, hw⟩ :=
    writeHistory_written (openedTo peer 0 o leavingUnknown u) (s := idTaken u) (by rw [strayed]; exact few)
  have all : Pays 1 s (writeHistory (openedTo peer 0 o leavingUnknown u) (idTaken u)) :=
    (pays.trans ((Pays.beside (by rfl) (by rfl) (by rfl)).trans written)).mono (by omega)
  obtain ⟨⟨sent, left, entered⟩, attempt, waits⟩ := enterHistory_sent (v := leavingUnknown) (s := u)
    (by rw [strayed]; exact hp) (by rw [strayed]; exact ho) rfl (by rw [hw]; rfl)
  have none_owed := (all.trans attempt).owed hroom
  have frame := waits (by rw [hw, strayed]; exact hd) (all.room hroom)
  rw [unknownObject_peer hp, hu]
  rw [entered] at none_owed frame ⊢
  rw [hw]
  have : left = s.owed := none_owed
  subst this
  refine ⟨sent, { u.exc with counter1 := one, counter2 := two }, total, peers, ?_, ⟨?_, ?_⟩, ?_, value, refresh, ?_⟩
  · rw [strayed] at gave; exact gave
  · exact made.1
  · exact made.2
  · rw [strayed] at frame; exact frame
  · rw [strayed]; rfl

end Sys2Proof.Machine
end

section
/-! PROOFS. O31: an outlet eye's edge as its command delivers it (R29 to R38, R119). -/

namespace Sys2Proof.Machine

/-- R31, R33: an edge of an eye at an outlet, and the record due there. -/
def EdgeAt (e : Eye) (o : Outlet) (due : Option BagRecord) (s : State) : Prop :=
  (e = .exit ∧ o = .o0 ∧ due = exitMatch s s.belt.d) ∨ ∃ k, e = .confirm k ∧ o = outletOfDiverter k ∧ due = confirmable s k

/-- R35: the record is not the one DECIDED for outlet 0. -/
abbrev Misrouted (e : Eye) (b : BagRecord) : Prop := e = .exit ∧ ¬ (b.tracking = .decided ∧ b.chosen = some .o0)

section
variable {e : Eye} {o : Outlet} {due : Option BagRecord} {s : State}

theorem exec_outletEdge (h : Ready s) (ha : acting s = true) (he : eyeOf s e = ⟨false, false, none⟩) (k : EdgeAt e o due s) :
    exec (.eyeLeadingEdge e) s = .next (settle (leadingDelivered e s.belt.d (eyeSeen e s))) := by
  refine exec_leadingEdge h (followsEye_acting ha fun hn => ?_) he
  rcases k with ⟨rfl, -, -⟩ | ⟨k, rfl, -, -⟩ <;> cases hn

theorem Settled.congr {p q : Prop} {b g : BagRecord} {t u : State} (h : Settled p b g t u) (hpq : p ↔ q) : Settled q b g t u :=
  propext hpq ▸ h

/-- R29, R31, R33: the record due departs, settled. -/
theorem outletEdge_due {b : BagRecord} (ha : acting s = true) (k : EdgeAt e o due s) (hb : due = some b) :
    ∃ g u, leadingDelivered e s.belt.d (eyeSeen e s) = departRecord o g u ∧ Settled (Misrouted e b) b g (eyeSeen e s) u := by
  have acts : acting (eyeSeen e s) = true := ha
  rw [leadingDelivered.eq_def, if_pos acts]
  rcases k with ⟨rfl, rfl, rfl⟩ | ⟨k, rfl, rfl, rfl⟩
  · obtain ⟨g, u, departs, settled⟩ := exitEdge_due acts hb
    exact ⟨g, u, departs, settled.congr (by simp [Misrouted])⟩
  · obtain ⟨u, departs, settled⟩ := chuteEdge_due acts hb
    exact ⟨b, u, departs, settled.congr (by simp [Misrouted])⟩

/-- R32, R36: with no record due the object is unknown. -/
theorem outletEdge_unknown (ha : acting s = true) (k : EdgeAt e o due s) (hb : due = none) :
    leadingDelivered e s.belt.d (eyeSeen e s) = unknownObject o (eyeSeen e s) := by
  have acts : acting (eyeSeen e s) = true := ha
  rw [leadingDelivered.eq_def, if_pos acts]
  rcases k with ⟨rfl, rfl, rfl⟩ | ⟨k, rfl, rfl, rfl⟩
  · have none_due : exitMatch (eyeSeen .exit s) s.belt.d = none := hb
    simp only [exitEdge, none_due]
  · have none_due : confirmable (eyeSeen (.confirm k) s) k = none := hb
    simp only [chuteEdge, none_due]

end

/-! ## The history and the frame of a record due -/

/-- R119: the record as it departs, its stray marks made where it is misrouted. -/
theorem Settled.payload {misrouted : Prop} [Decidable misrouted] {b g : BagRecord} {s t : State} (h : Settled misrouted b g s t)
    (id : Byte) : handoffOf id g = handoffOf id (if misrouted then misroutedAs b else b) := by
  split_ifs with hm
  · exact (h.strays hm).1 id
  · rw [(h.straight hm).1]

/-- R29, R35, R38, R119: a record due departs and leaves no report to deliver, with room for its frames. -/
structure Sent (misrouted : Prop) [Decidable misrouted] (o : Outlet) (b : BagRecord) (s t : State) : Prop where
  owed : t.owed = s.owed
  strays : misrouted → MadeStray (bagStray b (if b.flags.uncertain then .uncertain else .misrouted) (misrouteDisposition s b)) s t
  uncertain : ¬ misrouted → b.flags.uncertain = true → MadeStray (bagStray b .uncertain .uncertain) s t
  unmarked : ¬ misrouted → b.flags.uncertain = false → t.exc.strays = s.exc.strays
  plain : peerOf s o = none →
    t.tracker.history = departureOf o (leavingRecord b) s :: s.tracker.history.take 31 ∧ t.handoff.nextId = s.handoff.nextId
  peer : ∀ peer, peerOf s o = some peer → openDeparture peer s.handoff.nextId s = none →
    let payload := handoffOf s.handoff.nextId (if misrouted then misroutedAs b else b)
    t.tracker.history = { departureOf o (leavingRecord b) s with
        peer := peer, id := some s.handoff.nextId, state := .awaitingAccept, attempts := 1,
        outgoing := some ⟨payload, .answer 50⟩ } :: s.tracker.history.take 31 ∧
      t.handoff.nextId = s.handoff.nextId + 1 ∧ (s.loader.node ≠ .duplicate → Waits peer (.handoff payload) t)

theorem MadeStray.beside {i : StrayInfo} {s t u : State} (h : MadeStray i s t)
    (k : u.exc.strays = t.exc.strays ∧ u.exc.nextSeq = t.exc.nextSeq) : MadeStray i s u :=
  ⟨k.1.trans h.1, k.2.trans h.2⟩

theorem Settled.departureOf {misrouted : Prop} {o : Outlet} {b g : BagRecord} {s t : State} (h : Settled misrouted b g s t) :
    departureOf o (leavingRecord g) t = Machine.departureOf o (leavingRecord b) s := by
  obtain ⟨-, hplate, hpart⟩ := h.same
  have destination : bagDestination g = bagDestination b := by rw [bagDestination, hpart, bagDestination]
  have time : seconds t = seconds s := by rw [seconds, h.level.time, seconds]
  simp only [Machine.departureOf, leavingRecord, hplate, destination, time]

theorem Settled.sent {misrouted : Prop} [Decidable misrouted] {o : Outlet} {b g : BagRecord} {s u : State}
    (h : Settled misrouted b g s u) (hroom : Room ((cfg s).sources.length + 4) s) (he : EndsNone s.tracker.history) :
    Sent misrouted o b s (departRecord o g u) := by
  have ends : EndsNone u.tracker.history := by rw [h.history]; exact he
  have hcfg : cfg u = cfg s := by rw [cfg, cfg, h.level.loader]
  have hpeer : peerOf u o = peerOf s o := by rw [peerOf, peerOf, row, row, h.routes]
  obtain ⟨pays, same⟩ := departRecord_pays (o := o) (b := g) ends
  have removed := h.pays.trans (removedFor_outlook g u).2
  rw [hcfg] at pays removed
  exact {
    owed := (h.pays.trans pays).owed (le_trans (by omega) hroom)
    strays := fun hm => (h.strays hm).2.beside same
    uncertain := fun hm hu => ((h.straight hm).2.1 hu).beside same
    unmarked := fun hm hu => same.1.trans ((h.straight hm).2.2 hu)
    plain := fun hp => by
      obtain ⟨history, id⟩ := departRecord_none (b := g) ends (hpeer.trans hp)
      rw [h.departureOf, h.history] at history
      rw [h.handoff] at id
      exact ⟨history, id⟩
    peer := fun peer hp hopen => by
      obtain ⟨history, id, waits⟩ := departRecord_peer (b := g) ends (hpeer.trans hp)
        (by rw [h.handoff, openDeparture, h.history]; exact hopen)
      rw [h.handoff, h.payload] at waits
      rw [openedTo, h.departureOf, h.history, h.handoff, handoffPayload_leavingRecord, h.payload] at history
      rw [h.handoff] at id
      exact ⟨history, id, fun hd => waits (by rw [h.level.loader]; exact hd) (removed.room (le_trans (by omega) hroom))⟩ }

/-- A departure from the eye's edge on is one from the state before it. -/
theorem Departs.seen {e : Eye} {o : Outlet} {b : BagRecord} {s t : State} (h : Departs o b (eyeSeen e s) t) :
    Departs o b s t where
  keeps := (updateEye_level _ _ s).toInner.keeps.trans h.keeps
  departed := h.departed
  entered := h.entered
  lost := h.lost
  slots := h.slots
  history := h.history

/-- Settles O31: the record an edge accounts for is the first of its list to pass the test; it departs once settled, and its
frames have room since an event counter freezes once. -/
theorem outletEyesAccountForObjects : Obligations.OutletEyesAccountForObjects := by
  refine ⟨confirmable_iff, fun p b s => ?_, fun e o due s hr ha he k => ?_⟩
  · simp only [exitMatch_iff, firstTier_iff, inExitWindow_iff]
  · refine ⟨_, exec_outletEdge hr ha he k, fun b hb => ?_, fun b hb hroom few full => ?_, fun hb hp => ?_,
      fun peer hb hp hopen hd hroom few => ?_⟩
    · obtain ⟨g, u, departs, settled⟩ := outletEdge_due ha k hb
      rw [departs]
      exact ((departRecord_departs o g u).settled settled).seen.calm (settle_calm _)
    · obtain ⟨g, u, departs, settled⟩ := outletEdge_due ha k hb
      have sent := settled.sent (o := o) (by exact hroom) full
      rw [departs, settle_of_none (sent.owed.trans hr.2.1)]
      exact ⟨sent.strays, sent.uncertain, sent.unmarked, sent.plain, sent.peer⟩
    · rw [outletEdge_unknown ha k hb, unknownObject_none (by exact hp)]
      exact ((handStray_calm _ _).trans (settle_calm _)).steady
    · rw [outletEdge_unknown ha k hb]
      obtain ⟨bus, exc, total, peers, gave, made, waits, value, refresh, sent⟩ :=
        unknownObject_sent (s := eyeSeen e s) ha hp hopen hd hroom few
      rw [settle_of_none (by rw [sent]; exact hr.2.1), sent]
      refine ⟨rfl, rfl, rfl, rfl, waits, made, fun hn => ⟨?_, (gave.1 (.inl hn)).1⟩,
        fun hf old ho => ⟨rfl, fun hs => ?_, fun hs => ?_⟩⟩
      · exact congrArg (_ :: ·) (List.take_of_length_le (Nat.le_of_lt_succ hn))
      · exact gave.1 (.inr fun x hx => Option.some.inj (ho.symm.trans hx) ▸ hs)
      · exact gave.2 old hf ho hs

end Sys2Proof.Machine
end

section
/-! PROOFS. The duplicate check (R51, R129): it sets DUPLICATE and nothing else, and of each pair on the record made later. -/

namespace Sys2Proof.Machine

/-! ## A record looked up after a change -/

theorem findBag_updateBag (slot : Nat) (f : BagRecord → BagRecord) (s : State) (j : Nat)
    (h : ∀ b, (f b).slot = b.slot) :
    findBag (updateBag slot f s) j = (findBag s j).map (fun b => if b.slot = slot then f b else b) := by
  have slots : (fun b : BagRecord => decide (b.slot = j)) ∘ (fun b => if b.slot = slot then f b else b) =
      fun b => decide (b.slot = j) := by
    funext b
    simp only [Function.comp]
    split
    · rw [h b]
    · rfl
  rw [findBag, updateBag_tracker, List.find?_map, slots]
  rfl

theorem findBag_updateBag_self {slot : Nat} {f : BagRecord → BagRecord} {s : State} {b : BagRecord}
    (hb : findBag s slot = some b) (h : ∀ b, (f b).slot = b.slot := by exact fun _ => rfl) :
    findBag (updateBag slot f s) slot = some (f b) := by
  rw [findBag_updateBag slot f s slot h, hb, Option.map_some, if_pos (findBag_slot hb).1]

theorem findBag_updateBag_other {slot j : Nat} {f : BagRecord → BagRecord} {s : State} (hj : j ≠ slot)
    (h : ∀ b, (f b).slot = b.slot := by exact fun _ => rfl) : findBag (updateBag slot f s) j = findBag s j := by
  rw [findBag_updateBag slot f s j h]
  rcases hb : findBag s j with _ | b
  · rfl
  · rw [Option.map_some, if_neg fun hs => hj ((findBag_slot hb).1.symm.trans hs)]

theorem findEntry_updateEntry (source id : Byte) (f : ExpectedEntry → ExpectedEntry) (s : State) (a b : Byte)
    (h : ∀ e, (f e).source = e.source ∧ (f e).id = e.id) :
    findEntry (updateEntry source id f s) a b =
      (findEntry s a b).map (fun e => if e.source = source ∧ e.id = id then f e else e) := by
  have pairs : (fun e : ExpectedEntry => decide (e.source = a ∧ e.id = b)) ∘
      (fun e => if e.source = source ∧ e.id = id then f e else e) = fun e => decide (e.source = a ∧ e.id = b) := by
    funext e
    simp only [Function.comp]
    split
    · rw [(h e).1, (h e).2]
    · rfl
  rw [findEntry, updateEntry_handoff, List.find?_map, pairs]
  rfl

/-- The record of a slot, where the slots are distinct. -/
theorem findBag_of_mem {s : State} {b : BagRecord} (hn : (segmentSlots s).Nodup) (hb : b ∈ s.tracker.segment) :
    findBag s b.slot = some b := by
  obtain ⟨x, hx⟩ : ∃ x, findBag s b.slot = some x :=
    Option.isSome_iff_exists.mp (List.find?_isSome.mpr ⟨b, hb, by simp⟩)
  rw [hx, findBag_unique hn hx hb rfl]

/-- The entry of a pair, where the pairs are distinct. -/
theorem findEntry_of_mem {s : State} {e : ExpectedEntry} (hn : PairLaw s.handoff) (he : e ∈ s.handoff.expected) :
    findEntry s e.source e.id = some e := by
  obtain ⟨x, hx⟩ : ∃ x, findEntry s e.source e.id = some x :=
    Option.isSome_iff_exists.mp (List.find?_isSome.mpr ⟨e, he, by simp⟩)
  obtain ⟨hm, hs, hi⟩ := findEntry_mem hx
  rw [hx, List.inj_on_of_nodup_map hn he hm (by rw [hs, hi])]

/-! ## What sets DUPLICATE -/

/-- A record with DUPLICATE set where `d` says so. -/
def BagRecord.marked (d : Bool) (b : BagRecord) : BagRecord :=
  { b with flags := { b.flags with duplicate := b.flags.duplicate || d } }

/-- An expected entry with DUPLICATE set where `d` says so. -/
def ExpectedEntry.marked (d : Bool) (e : ExpectedEntry) : ExpectedEntry :=
  { e with flags := { e.flags with duplicate := e.flags.duplicate || d } }

theorem BagRecord.marked_false (b : BagRecord) : b.marked false = b := by simp [BagRecord.marked]

theorem BagRecord.marked_marked (c d : Bool) (b : BagRecord) : (b.marked c).marked d = b.marked (c || d) := by
  simp [BagRecord.marked, Bool.or_assoc]

theorem ExpectedEntry.marked_false (e : ExpectedEntry) : e.marked false = e := by simp [ExpectedEntry.marked]

theorem ExpectedEntry.marked_marked (c d : Bool) (e : ExpectedEntry) : (e.marked c).marked d = e.marked (c || d) := by
  simp [ExpectedEntry.marked, Bool.or_assoc]

/-- An operation that sets DUPLICATE on some live records and changes nothing else. -/
structure Marks (s t : State) : Prop where
  rest : ∃ segment expected, t = { s with
    tracker := { s.tracker with segment := segment }, handoff := { s.handoff with expected := expected } }
  bags : ∀ j, ∃ d, findBag t j = (findBag s j).map (BagRecord.marked d)
  entries : ∀ a b, ∃ d, findEntry t a b = (findEntry s a b).map (ExpectedEntry.marked d)

namespace Marks

variable {s t u : State}

theorem refl (s : State) : Marks s s :=
  ⟨⟨_, _, rfl⟩, fun _ => ⟨false, by simp [funext BagRecord.marked_false]⟩,
    fun _ _ => ⟨false, by simp [funext ExpectedEntry.marked_false]⟩⟩

theorem trans (h : Marks s t) (k : Marks t u) : Marks s u := by
  refine ⟨?_, fun j => ?_, fun a b => ?_⟩
  · obtain ⟨_, _, rfl⟩ := h.rest
    obtain ⟨_, _, rfl⟩ := k.rest
    exact ⟨_, _, rfl⟩
  · obtain ⟨c, hc⟩ := h.bags j
    obtain ⟨d, hd⟩ := k.bags j
    exact ⟨c || d, by rw [hd, hc, Option.map_map]; simp [Function.comp_def, BagRecord.marked_marked]⟩
  · obtain ⟨c, hc⟩ := h.entries a b
    obtain ⟨d, hd⟩ := k.entries a b
    exact ⟨c || d, by rw [hd, hc, Option.map_map]; simp [Function.comp_def, ExpectedEntry.marked_marked]⟩

theorem foldl {α : Type} {f : State → α → State} (h : ∀ a x, Marks a (f a x)) (l : List α) (s : State) :
    Marks s (l.foldl f s) := by
  induction l generalizing s with
  | nil => exact .refl s
  | cons x l ih => exact (h s x).trans (ih _)

/-- DUPLICATE is no part of what the duplicate check reads of a live record. -/
theorem viewLive (h : Marks s t) (l : Live) : viewLive t l = viewLive s l := by
  cases l with
  | bag slot =>
    obtain ⟨d, hd⟩ := h.bags slot
    rw [Machine.viewLive, hd, Option.map_map]
    rfl
  | entry source id =>
    obtain ⟨d, hd⟩ := h.entries source id
    rw [Machine.viewLive, hd, Option.map_map]
    rfl

/-- The record of a slot, with DUPLICATE set or as it was. -/
theorem bag (h : Marks s t) {slot : Nat} {b : BagRecord} (hb : findBag s slot = some b) :
    ∃ d, findBag t slot = some (b.marked d) := by
  obtain ⟨d, hd⟩ := h.bags slot
  exact ⟨d, by rw [hd, hb]; rfl⟩

end Marks

theorem markDuplicate_marks (l : Live) (s : State) : Marks s (markDuplicate l s) := by
  cases l with
  | bag slot =>
    refine ⟨⟨_, _, rfl⟩, fun j => ⟨decide (j = slot), ?_⟩, (Marks.refl s).entries⟩
    rw [markDuplicate, findBag_updateBag (h := fun _ => by rfl)]
    refine Option.map_congr fun b hb => ?_
    obtain ⟨rfl, -⟩ := findBag_slot hb
    split_ifs with hs <;> simp [BagRecord.marked, withDuplicate, hs]
  | entry source id =>
    refine ⟨⟨_, _, rfl⟩, (Marks.refl s).bags, fun a b => ⟨decide (a = source ∧ b = id), ?_⟩⟩
    rw [markDuplicate, findEntry_updateEntry (h := fun _ => by exact ⟨rfl, rfl⟩)]
    refine Option.map_congr fun e he => ?_
    obtain ⟨-, rfl, rfl⟩ := findEntry_mem he
    split_ifs with hp <;> simp [ExpectedEntry.marked, withDuplicate, hp]

/-- A live record stands and carries DUPLICATE. -/
def Marked (l : Live) (s : State) : Prop :=
  match l with
  | .bag slot => ∃ b, findBag s slot = some b ∧ b.flags.duplicate = true
  | .entry source id => ∃ e, findEntry s source id = some e ∧ e.flags.duplicate = true

/-- DUPLICATE stays once set. -/
theorem Marks.keep {l : Live} {s t : State} (h : Marks s t) (hl : Marked l s) : Marked l t := by
  cases l with
  | bag slot =>
    obtain ⟨b, hb, hd⟩ := hl
    obtain ⟨d, ht⟩ := h.bag hb
    exact ⟨_, ht, by simp [BagRecord.marked, hd]⟩
  | entry source id =>
    obtain ⟨e, he, hd⟩ := hl
    obtain ⟨d, ht⟩ := h.entries source id
    exact ⟨e.marked d, by rw [ht, he]; rfl, by simp [ExpectedEntry.marked, hd]⟩

theorem markDuplicate_marked {l : Live} {s : State} {v : LiveView} (h : viewLive s l = some v) : Marked l (markDuplicate l s) := by
  cases l with
  | bag slot =>
    obtain ⟨b, hb, -⟩ := Option.map_eq_some_iff.mp h
    exact ⟨_, findBag_updateBag_self hb, rfl⟩
  | entry source id =>
    obtain ⟨e, he, -⟩ := Option.map_eq_some_iff.mp h
    refine ⟨{ e with flags := withDuplicate e.flags }, ?_, rfl⟩
    rw [markDuplicate, findEntry_updateEntry (h := fun _ => by exact ⟨rfl, rfl⟩), he, Option.map_some, if_pos (findEntry_mem he).2]

/-! ## The check -/

/-- R51, R129: one live record compared with the one that has gained a plate. -/
def comparePair (self : Live) (v : LiveView) (acc : State) (l : Live) : State :=
  match viewLive acc l with
  | none => acc
  | some w => if w.plate = v.plate then markDuplicate (if v.created < w.created then l else self) acc else acc

theorem duplicateCheck_eq {self : Live} {v : LiveView} {s : State} (h : viewLive s self = some v) (hp : v.plate ≠ 0) :
    duplicateCheck self s = ((liveRecords s).filter (fun l => decide (l ≠ self))).foldl (comparePair self v) s := by
  simp only [duplicateCheck, h, if_neg hp]
  rfl

theorem comparePair_marks (self : Live) (v : LiveView) (acc : State) (l : Live) : Marks acc (comparePair self v acc l) := by
  unfold comparePair
  split
  · exact .refl acc
  · split
    · exact markDuplicate_marks _ acc
    · exact .refl acc

theorem duplicateCheck_marks (self : Live) (s : State) : Marks s (duplicateCheck self s) := by
  rcases h : viewLive s self with _ | v
  · simpa only [duplicateCheck, h] using Marks.refl s
  · by_cases hp : v.plate = 0
    · simpa only [duplicateCheck, h, if_pos hp] using Marks.refl s
    · rw [duplicateCheck_eq h hp]
      exact .foldl (comparePair_marks self v) _ s

/-- R51, R129: of a pair of live records with the plate gained, the one created later carries DUPLICATE. -/
theorem duplicateCheck_marked {self l : Live} {v w : LiveView} {s : State} (h : viewLive s self = some v) (hp : v.plate ≠ 0)
    (hl : l ∈ liveRecords s) (hne : l ≠ self) (hw : viewLive s l = some w) (hplate : w.plate = v.plate) :
    Marked (if v.created < w.created then l else self) (duplicateCheck self s) := by
  rw [duplicateCheck_eq h hp]
  have others : l ∈ (liveRecords s).filter (fun l => decide (l ≠ self)) := List.mem_filter.mpr ⟨hl, decide_eq_true hne⟩
  obtain ⟨pre, post, hsplit⟩ := List.append_of_mem others
  rw [hsplit, List.foldl_append, List.foldl_cons]
  have before := Marks.foldl (comparePair_marks self v) pre s
  refine (Marks.foldl (comparePair_marks self v) post _).keep ?_
  simp only [comparePair, before.viewLive l, hw, if_pos hplate]
  split
  · exact markDuplicate_marked ((before.viewLive l).trans hw)
  · exact markDuplicate_marked ((before.viewLive self).trans h)

/-- A plate that no other live record holds marks none. -/
theorem duplicateCheck_alone {self : Live} {v : LiveView} {s : State} (h : viewLive s self = some v)
    (ho : ∀ l ∈ liveRecords s, l ≠ self → ∀ w, viewLive s l = some w → w.plate ≠ v.plate) : duplicateCheck self s = s := by
  by_cases hp : v.plate = 0
  · simp only [duplicateCheck, h, if_pos hp]
  rw [duplicateCheck_eq h hp]
  have fixed : ∀ l ∈ (liveRecords s).filter (fun l => decide (l ≠ self)), comparePair self v s l = s := fun l hl => by
    obtain ⟨hm, hne⟩ := List.mem_filter.mp hl
    unfold comparePair
    split
    · rfl
    · exact if_neg (ho l hm (of_decide_eq_true hne) _ (by assumption))
  exact List.foldlRecOn (motive := (· = s)) _ _ rfl fun b hb l hl => by rw [hb, fixed l hl]

end Sys2Proof.Machine
end

section
/-! PROOFS. A read result delivered (R49): whatever it is, it leaves the Reader Link and the Belt Distance Unit as they are, and
owes its owner no report but that of a QUERY frame; delivered to a decided record it owes none. -/

namespace Sys2Proof.Machine

/-! ## Frames that leave the transmit queue without a report (R168, R176) -/

theorem unsentReport_none {q : Queued} (h : 6 ≤ queuedClass q) : unsentReport q = none := by
  obtain ⟨dest, p, tag⟩ := q
  cases p
  case hold => simp [queuedClass, payloadClass] at h
  case handoff => simp [queuedClass, payloadClass] at h
  case path => simp [queuedClass, payloadClass] at h
  case query => simp [queuedClass, payloadClass] at h
  all_goals rfl

theorem youngest_class {c : Nat} {w : List Queued} {q : Queued} (h : youngest c w = some q) : queuedClass q = c := by
  simpa using List.find?_some h

/-- R168, R176: the frames of the classes below QUERY are displaced without a report. -/
theorem displaceFrame_owed {c : Nat} (hc : 6 ≤ c) (s : State) : (displaceFrame c s).owed = s.owed := by
  unfold displaceFrame
  simp only
  split
  · rfl
  · rename_i q hq
    simp only [oweReport, unsentReport_none (hc.trans_eq (youngest_class hq).symm)]

/-- R168, R177: an offered QUERY, or a frame of a lower class, can leave a report of its own and no other. -/
theorem offerFrame_owed {q : Queued} (hq : 5 ≤ queuedClass q) (s : State) : (offerFrame q s).owed = s.owed ∨
    ∃ r, unsentReport q = some r ∧ (offerFrame q s).owed = s.owed ++ [r] := by
  unfold offerFrame
  split_ifs with hd hr hl hc
  · exact .inl rfl
  · exact .inl rfl
  · exact .inl rfl
  · exact .inl (displaceFrame_owed (by omega) s)
  · unfold refuseFrame
    simp only
    split
    · exact .inl rfl
    · rename_i r h
      split
      · exact .inl rfl
      · exact .inr ⟨r, h, rfl⟩

theorem broadcast_owed {p : Payload} (hp : 6 ≤ payloadClass p) (s : State) : (broadcast p s).owed = s.owed := by
  unfold broadcast
  split
  · have none : unsentReport ⟨127, p, 0⟩ = none := unsentReport_none hp
    refine (offerFrame_owed (q := ⟨127, p, 0⟩) (by exact le_trans (by decide) hp) s).resolve_right ?_
    rintro ⟨r, hr, -⟩
    rw [none] at hr
    cases hr
  · rfl

theorem alertFreeze_owed (n : Byte) (x y : EventCounter) (s : State) : (alertFreeze n x y s).owed = s.owed := by
  unfold alertFreeze
  split
  · exact broadcast_owed (by exact show 6 ≤ 8 by decide) s
  · rfl

theorem countEvent_owed (e : CounterEvent) (s : State) : (countEvent e s).owed = s.owed := by
  unfold countEvent
  split
  · exact (alertFreeze_owed _ _ _ _).trans (alertFreeze_owed _ _ _ _)
  · rfl

theorem handStray_owed (i : StrayInfo) (s : State) : (handStray i s).owed = s.owed := by
  unfold handStray
  split
  · exact (broadcast_owed (by exact show 6 ≤ 7 by decide) _).trans (countEvent_owed _ _)
  · rfl

theorem watchCheck_owed (p : Nat) (pl : Place) (o : Option Outlet) (s : State) : (watchCheck p pl o s).owed = s.owed := by
  unfold watchCheck
  split
  · rfl
  · split
    · exact broadcast_owed (by exact show 6 ≤ 6 by decide) s
    · rfl

/-- R152, R156: a plate checked against the watch list makes no stray record. -/
theorem watchCheck_strays (p : Nat) (pl : Place) (o : Option Outlet) (s : State) :
    (watchCheck p pl o s).exc.strays = s.exc.strays ∧ (watchCheck p pl o s).exc.nextSeq = s.exc.nextSeq := by
  unfold watchCheck
  split
  · exact ⟨rfl, rfl⟩
  · rename_i w _
    split
    · have sent : (sendFound p (.present pl o) w.reporter s).exc = s.exc := (broadcast_offers _ s).exc
      have strays := congrArg ExceptionUnit.strays sent
      have seq := congrArg ExceptionUnit.nextSeq sent
      exact ⟨strays, seq⟩
    · exact ⟨rfl, rfl⟩

/-! ## What is told of a read result (R49, step 4) -/

/-- The read result stands in the record's slot. -/
def heldIn (slot : Nat) (r : ReadResult) (s : State) : State := updateBag slot (fun b => { b with held := some r }) s

/-- R49, step 4: the plates read are checked against the watch list, and a NO_READ is counted. -/
def tellRead (slot : Nat) (r : ReadResult) (s : State) : State :=
  if r = .noRead then countEvent .noReadResults (watchPlates slot (resultPlates r) s) else watchPlates slot (resultPlates r) s

theorem tellRead_sends (slot : Nat) (r : ReadResult) (s : State) : Sends s (tellRead slot r s) :=
  .ite ((watchPlates_sends _ _ s).trans (countEvent_sends _ _)) (watchPlates_sends _ _ s)

theorem tellRead_calm (slot : Nat) (r : ReadResult) (s : State) : Calm s (tellRead slot r s) :=
  .iteThen (watchPlates_calm _ _ s) (countEvent_calm _ _)

theorem tellRead_owed (slot : Nat) (r : ReadResult) (s : State) : (tellRead slot r s).owed = s.owed := by
  have watched : (watchPlates slot (resultPlates r) s).owed = s.owed :=
    List.foldlRecOn (motive := fun t : State => t.owed = s.owed) _ _ rfl fun _ h _ _ => (watchCheck_owed _ _ _ _).trans h
  unfold tellRead
  split
  · exact (countEvent_owed _ _).trans watched
  · exact watched

theorem tellRead_strays (slot : Nat) (r : ReadResult) (s : State) :
    (tellRead slot r s).exc.strays = s.exc.strays ∧ (tellRead slot r s).exc.nextSeq = s.exc.nextSeq := by
  have watched : (watchPlates slot (resultPlates r) s).exc.strays = s.exc.strays ∧
      (watchPlates slot (resultPlates r) s).exc.nextSeq = s.exc.nextSeq :=
    List.foldlRecOn (motive := fun t : State => t.exc.strays = s.exc.strays ∧ t.exc.nextSeq = s.exc.nextSeq) _ _ ⟨rfl, rfl⟩
      fun t h p _ => by
        obtain ⟨strays, seq⟩ := watchCheck_strays p .belt ((findBag t slot).bind sightedOutlet) t
        exact ⟨strays.trans h.1, seq.trans h.2⟩
  unfold tellRead
  split
  · obtain ⟨_, _, _, _, counts⟩ := countEvent_counts .noReadResults (watchPlates slot (resultPlates r) s)
    rw [counts]
    exact watched
  · exact watched

/-- R49: a record decided before its read result is resolved late and not looked up. -/
theorem deliver_decided {slot : Nat} {r : ReadResult} {s : State} {b : BagRecord} (hb : findBag s slot = some b)
    (hd : isDecided b = true) : deliver slot r s = tellRead slot r (resolveLate slot r (heldIn slot r s)) := by
  simp only [deliver, hb, hd, if_true]
  rfl

/-- R49: one not decided yet is resolved and then looked up. -/
theorem deliver_undecided {slot : Nat} {r : ReadResult} {s : State} {b : BagRecord} (hb : findBag s slot = some b)
    (hd : isDecided b = false) :
    deliver slot r s = lookup (.bag slot) (tellRead slot r (resolveTimely slot r (heldIn slot r s))) := by
  simp only [deliver, hb, hd, Bool.false_eq_true, if_false]
  rfl

theorem tellRead_undecided {slot : Nat} {s : State} (r : ReadResult) (h : Undecided slot s) :
    Undecided slot (tellRead slot r (resolveTimely slot r (heldIn slot r s))) :=
  h.still (((updateBag_still slot _ s).trans (resolveTimely_still slot r _)).trans (tellRead_sends slot r _).still)

/-- R60, R61: the lookup of a record not decided makes none, finds the record's manifest part, or misses. -/
theorem lookup_cases {slot : Nat} {s : State} (h : Undecided slot s) : lookup (.bag slot) s = s ∨
    (∃ cache part, lookup (.bag slot) s = copyPart (.bag slot) part { s with cache := cache }) ∨
    ∃ plate cache, lookup (.bag slot) s = queryMiss (.bag slot) plate { s with cache := cache } := by
  unfold lookup
  split
  · exact .inl rfl
  · split_ifs
    · split
      · rename_i i e _
        refine .inr (.inl ⟨_, e.part, redecideServed_undecided (h.still ?_)⟩)
        exact Still.trans (.beside (by rfl)) (copyPart_still (.bag slot) e.part _)
      · exact .inr (.inr ⟨_, _, rfl⟩)
    · exact .inl rfl

/-! ## What a delivery leaves of the Reader Link and the belt -/

/-- R69: the reports owed in an event are those of QUERY frames. -/
def OwesQueries (s : State) : Prop := ∀ r ∈ s.owed, ∃ plate, r = .query plate

/-- An operation beside the Reader Link and the Belt Distance Unit that owes no report but those of QUERY frames. -/
structure Asks (s t : State) : Prop where
  belt : t.belt = s.belt
  reader : t.reader = s.reader
  owed : OwesQueries s → OwesQueries t

namespace Asks

variable {s t u : State}

theorem refl (s : State) : Asks s s := ⟨rfl, rfl, id⟩

theorem trans (h : Asks s t) (k : Asks t u) : Asks s u := ⟨k.belt.trans h.belt, k.reader.trans h.reader, k.owed ∘ h.owed⟩

theorem ite {p : Prop} [Decidable p] (ht : Asks s t) (hu : Asks s u) : Asks s (if p then t else u) := by
  split
  · exact ht
  · exact hu

theorem foldl {α : Type} {f : State → α → State} (h : ∀ a x, Asks a (f a x)) (l : List α) (s : State) : Asks s (l.foldl f s) := by
  induction l generalizing s with
  | nil => exact .refl s
  | cons x l ih => exact (h s x).trans (ih _)

/-- A change beside the belt, the Reader Link and the reports owed. -/
theorem beside (h : (t.belt, t.reader, t.owed) = (s.belt, s.reader, s.owed)) : Asks s t := by
  simp only [Prod.mk.injEq] at h
  obtain ⟨hb, hr, ho⟩ := h
  exact ⟨hb, hr, fun k => by rw [OwesQueries, ho]; exact k⟩

end Asks

/-- Frames and counts that leave no report. -/
theorem Sends.asks {s t : State} (h : Sends s t) (ho : t.owed = s.owed) : Asks s t := by
  obtain ⟨⟨_, _, _, _, _, rfl⟩, -⟩ := h
  exact .beside (congrArg (fun w => (s.belt, s.reader, w)) ho)

theorem Marks.asks {s t : State} (h : Marks s t) : Asks s t := by
  obtain ⟨_, _, rfl⟩ := h.rest
  exact .beside rfl

theorem sendQuery_asks (plate : Nat) (s : State) : Asks s (sendQuery plate s) := by
  obtain ⟨bus, owed, sent⟩ := offerFrame_offers ⟨126, .query (BitVec.ofNat 40 plate), 0⟩ s
  have reports := offerFrame_owed (q := ⟨126, .query (BitVec.ofNat 40 plate), 0⟩) (by exact le_refl 5) s
  change (sendQuery plate s).owed = _ ∨ ∃ r, _ = _ ∧ (sendQuery plate s).owed = _ at reports
  change sendQuery plate s = _ at sent
  refine ⟨by rw [sent], by rw [sent], fun h r hr => ?_⟩
  rcases reports with same | ⟨q, hq, more⟩
  · exact h r (same ▸ hr)
  · obtain rfl : Report.query (BitVec.ofNat 40 plate) = q := Option.some.inj hq
    rw [more, List.mem_append, List.mem_singleton] at hr
    exact hr.elim (h r) fun he => ⟨_, he⟩

theorem setStatus_asks (l : Live) (st : RouteStatus) (s : State) : Asks s (setStatus l st s) := by cases l <;> exact .beside rfl

theorem failLive_asks (l : Live) (s : State) : Asks s (failLive l s) :=
  (setStatus_asks l _ s).trans ((countEvent_sends _ _).asks (countEvent_owed _ _))

theorem queryMiss_asks (l : Live) (plate : Nat) (s : State) : Asks s (queryMiss l plate s) := by
  have updated (f : QueryEntry → QueryEntry) : Asks s (updateQuery plate f s) := .beside rfl
  have entered (q : List QueryEntry) : Asks s { s with queries := q } := .beside rfl
  unfold queryMiss
  split
  · exact .ite ((updated _).trans (setStatus_asks l _ _)) (failLive_asks l s)
  · exact .ite (failLive_asks l s)
      (.ite (((entered _).trans (setStatus_asks l _ _)).trans (sendQuery_asks plate _)) (failLive_asks l s))

theorem lookup_asks {slot : Nat} {s : State} (h : Undecided slot s) : Asks s (lookup (.bag slot) s) := by
  have cached (c : RouteCache) : Asks s { s with cache := c } := .beside rfl
  rcases lookup_cases h with hl | ⟨c, part, hl⟩ | ⟨plate, c, hl⟩ <;> rw [hl]
  · exact .refl s
  · exact (cached c).trans (.beside rfl)
  · exact (cached c).trans (queryMiss_asks _ plate _)

theorem updateBag_asks (slot : Nat) (f : BagRecord → BagRecord) (s : State) : Asks s (updateBag slot f s) := .beside rfl

theorem resolveTimely_asks (slot : Nat) (r : ReadResult) (s : State) : Asks s (resolveTimely slot r s) :=
  have resolved := updateBag_asks slot (timelyRecord r) s
  .ite resolved (resolved.trans (duplicateCheck_marks _ _).asks)

/-! ## A late read owes no report (R52) -/

/-- An operation on the live records, the exception lists and the transmit queue that owes no report. -/
def Notes (s t : State) : Prop := ∃ segment expected flow exc bus, t = { s with
  tracker := { s.tracker with segment := segment }, handoff := { s.handoff with expected := expected },
  flow := flow, exc := exc, bus := bus }

theorem Notes.refl (s : State) : Notes s s := ⟨_, _, _, _, _, rfl⟩

theorem Notes.trans {s t u : State} (h : Notes s t) (k : Notes t u) : Notes s u := by
  obtain ⟨_, _, _, _, _, rfl⟩ := h
  obtain ⟨_, _, _, _, _, rfl⟩ := k
  exact ⟨_, _, _, _, _, rfl⟩

theorem Notes.asks {s t : State} (h : Notes s t) : Asks s t := by
  obtain ⟨_, _, _, _, _, rfl⟩ := h
  exact .beside rfl

theorem Notes.others {s t : State} (h : Notes s t) :
    t.divert = s.divert ∧ t.queries = s.queries ∧ t.cache = s.cache ∧ t.owed = s.owed := by
  obtain ⟨_, _, _, _, _, rfl⟩ := h
  exact ⟨rfl, rfl, rfl, rfl⟩

theorem Sends.notes {s t : State} (h : Sends s t) (ho : t.owed = s.owed) : Notes s t := by
  obtain ⟨⟨_, owed, _, _, _, rfl⟩, -⟩ := h
  obtain rfl : owed = s.owed := ho
  exact ⟨_, _, _, _, _, rfl⟩

theorem Marks.notes {s t : State} (h : Marks s t) : Notes s t := by
  obtain ⟨_, _, rfl⟩ := h.rest
  exact ⟨_, _, _, _, _, rfl⟩

theorem updateBag_notes (slot : Nat) (f : BagRecord → BagRecord) (s : State) : Notes s (updateBag slot f s) := ⟨_, _, _, _, _, rfl⟩

theorem lateStray_notes (slot : Nat) (reason : StrayReason) (s : State) : Notes s (lateStray slot reason s) := by
  unfold lateStray
  split
  · exact .refl s
  · split
    · exact .refl s
    · exact (updateBag_notes slot _ s).trans ((handStray_sends _ _).notes (handStray_owed _ _))

theorem resolveLate_notes (slot : Nat) (r : ReadResult) (s : State) : Notes s (resolveLate slot r s) := by
  unfold resolveLate
  split
  · exact .refl s
  · split
    · exact .refl s
    · split_ifs
      · exact (updateBag_notes slot _ s).trans (duplicateCheck_marks _ _).notes
      · exact updateBag_notes slot _ s
      · exact (updateBag_notes slot _ s).trans (lateStray_notes slot _ _)
    · exact (updateBag_notes slot _ s).trans (lateStray_notes slot _ _)

theorem deliver_notes {slot : Nat} {r : ReadResult} {s : State} {b : BagRecord} (hb : findBag s slot = some b)
    (hd : isDecided b = true) : Notes s (deliver slot r s) := by
  rw [deliver_decided hb hd]
  exact ((updateBag_notes slot _ s).trans (resolveLate_notes slot r _)).trans
    ((tellRead_sends slot r _).notes (tellRead_owed slot r _))

/-- R49: whatever the record, a delivery is no business of the Reader Link and moves no registration. -/
theorem deliver_asks (slot : Nat) (r : ReadResult) (s : State) : Asks s (deliver slot r s) := by
  rcases hb : findBag s slot with _ | b
  · simpa only [deliver, hb] using Asks.refl s
  · cases hd : isDecided b with
    | true => exact (deliver_notes hb hd).asks
    | false =>
      rw [deliver_undecided hb hd]
      have told := (tellRead_sends slot r (resolveTimely slot r (heldIn slot r s))).asks (tellRead_owed slot r _)
      exact (((updateBag_asks slot _ s).trans (resolveTimely_asks slot r _)).trans told).trans
        (lookup_asks (tellRead_undecided r ⟨b, hb, hd⟩))

/-! ## The reports of QUERY frames (R68, R69) -/

theorem failQuery_asks (plate : Nat) (s : State) : Asks s (failQuery plate s) := by
  have retired : Asks s (retireQuery plate s) := .beside rfl
  unfold failQuery
  split
  · exact .refl s
  · exact retired.trans (.foldl (fun a l => failLive_asks l a) _ _)

theorem attemptEnds_asks (plate : Nat) (s : State) : Asks s (attemptEnds plate s) := by
  have updated (f : QueryEntry → QueryEntry) : Asks s (updateQuery plate f s) := .beside rfl
  unfold attemptEnds
  split
  · exact .refl s
  · exact .ite ((updated _).trans (sendQuery_asks plate _)) (failQuery_asks plate s)

theorem drainReports_belt (n : Nat) {s : State} (h : OwesQueries s) : (drainReports n s).belt = s.belt := by
  induction n generalizing s with
  | zero => rfl
  | succ n ih =>
    unfold drainReports
    split
    · rfl
    · rename_i r rest hs
      obtain ⟨plate, rfl⟩ := h r (by rw [hs]; exact List.mem_cons_self)
      have rest_queries : OwesQueries { s with owed := rest } := fun x hx => h x (by rw [hs]; exact List.mem_cons_of_mem _ hx)
      have ends := attemptEnds_asks plate.toNat { s with owed := rest }
      exact (ih (ends.owed rest_queries)).trans ends.belt

/-- R69: the reports of QUERY frames move no registration. -/
theorem settle_belt {s : State} (h : OwesQueries s) : (settle s).belt = s.belt := drainReports_belt _ h

end Sys2Proof.Machine
end

section
/-! PROOFS. What a read result makes of the record that it reaches (R44, R45, R49 to R52), and of no other. -/

namespace Sys2Proof.Machine

/-! ## The identity part -/

/-- What a lookup and the end of an event leave of a record: all that is fixed but its manifest part. -/
def BagRecord.identityPart (b : BagRecord) : BagRecord := { b.fixed with part := none }

/-- An operation that leaves the identity part of every record and the fixed part of every expected entry. -/
structure SameIdentity (s t : State) : Prop where
  bags : ∀ j, (findBag t j).map BagRecord.identityPart = (findBag s j).map BagRecord.identityPart
  entries : ∀ a b, (findEntry t a b).map ExpectedEntry.fixed = (findEntry s a b).map ExpectedEntry.fixed

namespace SameIdentity

variable {s t u : State}

theorem refl (s : State) : SameIdentity s s := ⟨fun _ => rfl, fun _ _ => rfl⟩

theorem trans (h : SameIdentity s t) (k : SameIdentity t u) : SameIdentity s u :=
  ⟨fun j => (k.bags j).trans (h.bags j), fun a b => (k.entries a b).trans (h.entries a b)⟩

/-- A change beside the records and the expected entries. -/
theorem beside (ht : t.tracker = s.tracker) (hh : t.handoff = s.handoff) : SameIdentity s t := by
  refine ⟨fun j => ?_, fun a b => ?_⟩
  · rw [findBag, ht]; rfl
  · rw [findEntry, hh]; rfl

theorem bag (h : SameIdentity s t) {j : Nat} {b : BagRecord} (hb : findBag s j = some b) :
    ∃ b', findBag t j = some b' ∧ b'.identityPart = b.identityPart :=
  Option.map_eq_some_iff.mp ((h.bags j).trans (by rw [hb]; rfl))

theorem marked (h : SameIdentity s t) {l : Live} (hl : Marked l s) : Marked l t := by
  cases l with
  | bag j =>
    obtain ⟨b, hb, hd⟩ := hl
    obtain ⟨b', hb', same⟩ := h.bag hb
    exact ⟨b', hb', (congrArg (fun x => x.flags.duplicate) same).trans hd⟩
  | entry source id =>
    obtain ⟨e, he, hd⟩ := hl
    obtain ⟨e', he', same⟩ := Option.map_eq_some_iff.mp ((h.entries source id).trans (by rw [he]; rfl))
    exact ⟨e', he', (congrArg (fun x => x.flags.duplicate) same).trans hd⟩

end SameIdentity

theorem findBag_identityPart (s : State) (j : Nat) : (findBag s j).map BagRecord.identityPart =
    ((s.tracker.segment.map BagRecord.fixed).map (fun b => { b with part := none })).find? (fun b => decide (b.slot = j)) := by
  rw [List.map_map, List.find?_map]
  rfl

theorem findEntry_fixed (s : State) (source id : Byte) : (findEntry s source id).map ExpectedEntry.fixed =
    (s.handoff.expected.map ExpectedEntry.fixed).find? (fun e => decide (e.source = source ∧ e.id = id)) := by
  rw [List.find?_map]
  rfl

theorem Calm.sameIdentity {s t : State} (h : Calm s t) : SameIdentity s t :=
  ⟨fun j => by rw [findBag_identityPart, h.segment, ← findBag_identityPart],
    fun a b => by rw [findEntry_fixed, h.expected, ← findEntry_fixed]⟩

/-- R60, R61: a lookup gives a record a manifest part and a route status, and no more. -/
theorem lookup_sameIdentity {slot : Nat} {s : State} (h : Undecided slot s) : SameIdentity s (lookup (.bag slot) s) := by
  have cached (c : RouteCache) : SameIdentity s { s with cache := c } := .beside rfl rfl
  rcases lookup_cases h with hl | ⟨c, part, hl⟩ | ⟨plate, c, hl⟩ <;> rw [hl]
  · exact .refl s
  · refine ⟨fun j => ?_, (cached c).entries⟩
    rw [copyPart, findBag_updateBag (h := fun _ => by rfl), Option.map_map]
    refine Option.map_congr fun b _ => ?_
    simp only [Function.comp]
    split <;> rfl
  · exact (cached c).trans (queryMiss_calm _ plate _).sameIdentity

theorem deliver_sameIdentity {slot : Nat} (r : ReadResult) {s : State} {b : BagRecord} (hb : findBag s slot = some b)
    (hd : isDecided b = false) : SameIdentity (resolveTimely slot r (heldIn slot r s)) (deliver slot r s) := by
  rw [deliver_undecided hb hd]
  exact (tellRead_calm slot r _).sameIdentity.trans (lookup_sameIdentity (tellRead_undecided r ⟨b, hb, hd⟩))

theorem Still.tracking {s t : State} (h : Still s t) {j : Nat} {b b' : BagRecord} (hb : findBag s j = some b)
    (hb' : findBag t j = some b') : b'.tracking = b.tracking := by
  have tracks : (findBag t j).map BagRecord.tracking = (findBag s j).map BagRecord.tracking := by
    rw [findBag_tracks, h.2, ← findBag_tracks]
  rw [hb, hb'] at tracks
  exact Option.some.inj tracks

theorem findBag_heldIn {slot : Nat} (r : ReadResult) {s : State} {b : BagRecord} (hb : findBag s slot = some b) :
    findBag (heldIn slot r s) slot = some { b with held := some r } :=
  findBag_updateBag_self (f := fun b => { b with held := some r }) hb

/-! ## NO_READ (R45, R47, R50) -/

/-- A record has been given NO_READ: its plate stands, and it is resolved unless it was decided. -/
def GaveNoRead (b b' : BagRecord) : Prop := b'.held = some .noRead ∧ b'.plate = b.plate ∧
  b'.identity = if isDecided b = true then b.identity else if b.plate = 0 then .unidentified else .announced

/-- NO_READ has been given to the records of some slots; the others keep their identity part, and all their tracking state. -/
def NoReadFor (slots : List Nat) (s t : State) : Prop := ∀ j b, findBag s j = some b →
  ∃ b', findBag t j = some b' ∧ b'.tracking = b.tracking ∧ (j ∈ slots → GaveNoRead b b') ∧
    (j ∉ slots → b'.identityPart = b.identityPart)

theorem GaveNoRead.later {b b' b'' : BagRecord} (h : GaveNoRead b b') (k : b''.identityPart = b'.identityPart) :
    GaveNoRead b b'' := by
  obtain ⟨held, plate, identity⟩ := h
  exact ⟨(congrArg BagRecord.held k).trans held, (congrArg BagRecord.plate k).trans plate,
    (congrArg BagRecord.identity k).trans identity⟩

theorem isDecided_congr {b b' : BagRecord} (h : b'.tracking = b.tracking) : isDecided b' = isDecided b := by
  simp only [isDecided, h]

theorem GaveNoRead.earlier {b b' b'' : BagRecord} (h : GaveNoRead b' b'') (ht : b'.tracking = b.tracking)
    (k : b'.identityPart = b.identityPart) : GaveNoRead b b'' := by
  obtain ⟨held, plate, identity⟩ := h
  have same_plate : b'.plate = b.plate := (congrArg BagRecord.plate k :)
  have same_identity : b'.identity = b.identity := (congrArg BagRecord.identity k :)
  rw [isDecided_congr ht, same_plate, same_identity] at identity
  exact ⟨held, plate.trans same_plate, identity⟩

/-- R50: NO_READ given twice is as given once. -/
theorem GaveNoRead.again {b b' b'' : BagRecord} (h : GaveNoRead b b') (ht : b'.tracking = b.tracking)
    (k : GaveNoRead b' b'') : GaveNoRead b b'' := by
  obtain ⟨-, same_plate, once⟩ := h
  obtain ⟨held, plate, identity⟩ := k
  rw [isDecided_congr ht, same_plate] at identity
  refine ⟨held, plate.trans same_plate, identity.trans ?_⟩
  split
  · rename_i hd
    rw [once, if_pos hd]
  · rfl

theorem NoReadFor.trans {l m : List Nat} {s t u : State} (h : NoReadFor l s t) (k : NoReadFor m t u) :
    NoReadFor (l ++ m) s u := by
  intro j b hb
  obtain ⟨b', hb', tracked, given, kept⟩ := h j b hb
  obtain ⟨b'', hb'', tracked', given', kept'⟩ := k j b' hb'
  refine ⟨b'', hb'', tracked'.trans tracked, fun hj => ?_, fun hj => ?_⟩
  · by_cases hm : j ∈ m
    · by_cases hl : j ∈ l
      · exact (given hl).again tracked (given' hm)
      · exact (given' hm).earlier tracked (kept hl)
    · exact (given ((List.mem_append.mp hj).resolve_right hm)).later (kept' hm)
  · rw [List.mem_append, not_or] at hj
    exact (kept' hj.2).trans (kept hj.1)

theorem NoReadFor.refl (s : State) : NoReadFor [] s s := fun _ b hb =>
  ⟨b, hb, rfl, fun h => absurd h List.not_mem_nil, fun _ => rfl⟩

theorem NoReadFor.foldl {f : State → Nat → State} (h : ∀ a j, NoReadFor [j] a (f a j)) (l : List Nat) (s : State) :
    NoReadFor l s (l.foldl f s) := by
  induction l generalizing s with
  | nil => exact .refl s
  | cons j l ih => exact (h s j).trans (ih _)

theorem resolveLate_noRead (slot : Nat) (s : State) : resolveLate slot .noRead s = s := by
  unfold resolveLate
  split <;> rfl

/-- R50: a resolution that gains no plate writes the record alone. -/
theorem resolveTimely_same {slot : Nat} {r : ReadResult} {s : State} {b : BagRecord} (hb : findBag s slot = some b)
    (hp : (timelyRecord r b).plate = b.plate) : resolveTimely slot r s = updateBag slot (timelyRecord r) s := by
  have found := findBag_updateBag_self hb (timelyRecord_slot r)
  rw [resolveTimely, if_pos (by rw [found, hb]; exact congrArg some hp)]

theorem timelyRecord_noRead (b : BagRecord) : (timelyRecord .noRead b).plate = b.plate ∧
    (timelyRecord .noRead b).held = b.held ∧
    (timelyRecord .noRead b).identity = if b.plate = 0 then .unidentified else .announced := by
  unfold timelyRecord
  split_ifs <;> exact ⟨rfl, rfl, rfl⟩

/-- R49, R50: NO_READ delivered to a record changes that record alone. -/
theorem deliver_noRead (slot : Nat) (s : State) : NoReadFor [slot] s (deliver slot .noRead s) := by
  intro j x hx
  rcases hb : findBag s slot with _ | b
  · have gone : j ≠ slot := fun h => by rw [h, hb] at hx; cases hx
    exact ⟨x, by simpa only [deliver, hb] using hx, rfl, fun h => absurd (List.mem_singleton.mp h) gone, fun _ => rfl⟩
  have other (hj : j ≠ slot) : findBag (heldIn slot .noRead s) j = some x := (findBag_updateBag_other hj).trans hx
  cases hd : isDecided b with
  | true =>
    have found : findBag (deliver slot .noRead s) j = findBag (heldIn slot .noRead s) j := by
      rw [deliver_decided hb hd, resolveLate_noRead, findBag, (tellRead_sends _ _ _).tracker]
      rfl
    by_cases hj : j = slot
    · subst hj
      obtain rfl : b = x := Option.some.inj (hb.symm.trans hx)
      exact ⟨_, found.trans (findBag_heldIn .noRead hb), rfl, fun _ => ⟨rfl, rfl, (if_pos hd).symm⟩,
        fun h => absurd (List.mem_singleton.mpr rfl) h⟩
    · exact ⟨x, found.trans (other hj), rfl, fun h => absurd (List.mem_singleton.mp h) hj, fun _ => rfl⟩
  | false =>
    have held := findBag_heldIn .noRead hb
    have same := deliver_sameIdentity .noRead hb hd
    obtain ⟨plate, stays, identity⟩ := timelyRecord_noRead { b with held := some .noRead }
    rw [resolveTimely_same held plate] at same
    have still := deliver_still slot .noRead s
    by_cases hj : j = slot
    · subst hj
      obtain rfl : b = x := Option.some.inj (hb.symm.trans hx)
      obtain ⟨b', hb', k⟩ := same.bag (findBag_updateBag_self held (timelyRecord_slot .noRead))
      refine ⟨b', hb', still.tracking hb hb', fun _ => GaveNoRead.later ⟨stays, plate, ?_⟩ k,
        fun h => absurd (List.mem_singleton.mpr rfl) h⟩
      rw [hd, identity]
      rfl
    · obtain ⟨x', hx', k⟩ := same.bag ((findBag_updateBag_other hj (timelyRecord_slot .noRead)).trans (other hj))
      exact ⟨x', hx', still.tracking hx hx', fun h => absurd (List.mem_singleton.mp h) hj, fun _ => k⟩

/-! ## The ends of a request (R43 to R47) -/

/-- R47: READER_DOWN, as it is set, gives every queued request NO_READ. -/
theorem checkDown_flushes {s : State} (hm : s.reader.misses = 3) (hd : s.reader.down = false) :
    NoReadFor s.reader.queue s (checkDown s) ∧ (checkDown s).reader = { s.reader with down := true, queue := [] } := by
  have flushed : checkDown s = s.reader.queue.foldl (fun acc slot => deliver slot .noRead acc)
      (onReader (fun r => { r with down := true, queue := [] }) s) := if_pos ⟨hm, hd⟩
  rw [flushed]
  exact ⟨NoReadFor.foldl (fun a j => deliver_noRead j a) s.reader.queue
      (onReader (fun r => { r with down := true, queue := [] }) s),
    (Asks.foldl (fun a j => deliver_asks j .noRead a) _ _).reader⟩

theorem checkDown_stays {s : State} (h : ¬ (s.reader.misses = 3 ∧ s.reader.down = false)) : checkDown s = s := if_neg h

/-- R47: whatever READER_DOWN flushes, the miss count stands. -/
theorem checkDown_noRead (s : State) : (∃ l, NoReadFor l s (checkDown s)) ∧ (checkDown s).reader.misses = s.reader.misses := by
  by_cases h : s.reader.misses = 3 ∧ s.reader.down = false
  · obtain ⟨given, reader⟩ := checkDown_flushes h.1 h.2
    exact ⟨⟨_, given⟩, by rw [reader]⟩
  · rw [checkDown_stays h]
    exact ⟨⟨[], .refl s⟩, rfl⟩

theorem endRequest_health (r : ReaderLink) : (endRequest r).misses = r.misses ∧ (endRequest r).down = r.down := by
  unfold endRequest
  split
  · exact ⟨rfl, rfl⟩
  · exact ⟨rfl, rfl⟩

theorem exec_readReply {number : Byte} {plates : List Nat} {slot : Option Nat} {s : State} (h : Ready s)
    (ha : linkActs s = true) (hl : plates.length ≤ 4) (ho : ReadOutstanding number slot s) :
    exec (.readReply true number plates) s = .next (settle (readAnswered slot (readResult plates) s)) := by
  obtain ⟨timer, ho⟩ := ho
  rw [exec_ready (by simp) (by simp) h.1]
  have taken : readReplyTaken true number plates s = readReplied number plates s :=
    if_pos ⟨ha, rfl, decide_eq_true hl⟩
  change Host.Outcome.next (settle (readReplyTaken true number plates s)) = _
  rw [taken, readReplied, ho]
  exact congrArg (fun t => Host.Outcome.next (settle t)) (if_pos rfl)

theorem exec_readTimeout {number : Byte} {slot : Option Nat} {s : State} (h : Ready s)
    (ho : ReadOutstanding number slot s) : exec .readTimeout s = .next (settle (readMissed slot s)) := by
  obtain ⟨timer, ho⟩ := ho
  rw [exec_ready (by simp) (by simp) h.1]
  change Host.Outcome.next (settle (readTimesOut s)) = _
  rw [readTimesOut, ho]

theorem Level.keeps_settle {s t : State} (h : Level s t) : Keeps s (settle t) ∧ segmentSlots (settle t) = segmentSlots s :=
  ⟨(h.toInner.trans (settle_calm t).inner).keeps, (settle_calm t).slots.trans h.slots⟩

/-- R45: the end of a READ that times out for a record. -/
theorem exec_readTimeout_gives {number : Byte} {slot : Nat} {b : BagRecord} {s : State} (h : Ready s)
    (ho : ReadOutstanding number (some slot) s) (hb : findBag s slot = some b) :
    ∃ t b', exec .readTimeout s = .next t ∧ Keeps s t ∧ t.reader.misses = min 3 (s.reader.misses + 1) ∧
      findBag t slot = some b' ∧ GaveNoRead b b' := by
  have calm := settle_calm (readMissed (some slot) s)
  have delivered := deliver_noRead slot (onReader countMiss s)
  obtain ⟨⟨l, flushed⟩, misses⟩ := checkDown_noRead (deliver slot .noRead (onReader countMiss s))
  obtain ⟨c, hc, -, given, -⟩ := (delivered.trans flushed) slot b hb
  obtain ⟨b', hb', same⟩ := calm.sameIdentity.bag (b := c) hc
  refine ⟨_, b', exec_readTimeout h ho, (readMissed_level _ s).keeps_settle.1, ?_, hb', (given (by simp)).later same⟩
  rw [calm.reader]
  change (endRequest (checkDown (deliver slot .noRead (onReader countMiss s))).reader).misses = _
  rw [(endRequest_health _).1, misses, (deliver_asks _ _ _).reader]
  rfl

end Sys2Proof.Machine
end

section
/-! PROOFS. O34: the answer to a READ, timely or late (R44, R49 to R52). -/

namespace Sys2Proof.Machine

/-! ## A timely answer -/

/-- R50: what a read result makes of a record's plate, identity, MISMATCH and AMBIGUOUS. -/
def TimelyRead (b b' : BagRecord) : ReadResult → Prop
  | .noRead => b'.plate = b.plate ∧ b'.identity = (if b.plate = 0 then .unidentified else .announced) ∧
      b'.flags.mismatch = b.flags.mismatch ∧ b'.flags.ambiguous = b.flags.ambiguous
  | .one p =>
      (b.plate = 0 → b'.plate = p ∧ b'.identity = .read ∧ b'.flags.mismatch = b.flags.mismatch) ∧
      (b.plate = p → p ≠ 0 → b'.plate = p ∧ b'.identity = .confirmed ∧ b'.flags.mismatch = b.flags.mismatch) ∧
      (b.plate ≠ 0 → b.plate ≠ p → b'.plate = b.plate ∧ b'.identity = .announced ∧ b'.flags.mismatch = true)
  | .several _ => b'.plate = b.plate ∧ b'.flags.ambiguous = true ∧ b'.flags.mismatch = b.flags.mismatch

theorem asBefore_plate (b : BagRecord) : (asBefore b).plate = b.plate := by
  unfold asBefore
  split <;> rfl

theorem timelyRecord_gains {p : Nat} {b : BagRecord} (h : b.plate = 0) :
    timelyRecord (.one p) b = { b with plate := p, identity := .read } := if_pos h

theorem timelyRecord_confirms {p : Nat} {b : BagRecord} (h0 : b.plate ≠ 0) (hp : b.plate = p) :
    timelyRecord (.one p) b = { b with identity := .confirmed } := (if_neg h0).trans (if_pos hp)

theorem timelyRecord_differs {p : Nat} {b : BagRecord} (h0 : b.plate ≠ 0) (hp : b.plate ≠ p) :
    timelyRecord (.one p) b = { b with identity := .announced, flags := { b.flags with mismatch := true } } :=
  (if_neg h0).trans (if_neg hp)

theorem timelyRecord_read (r : ReadResult) (b : BagRecord) : TimelyRead b (timelyRecord r b) r := by
  cases r with
  | noRead =>
    unfold timelyRecord
    split_ifs with h
    · exact ⟨rfl, (if_pos h).symm, rfl, rfl⟩
    · exact ⟨rfl, (if_neg h).symm, rfl, rfl⟩
  | one p =>
    refine ⟨fun h0 => ?_, fun hp h0 => ?_, fun h0 hp => ?_⟩
    · rw [timelyRecord_gains h0]
      exact ⟨rfl, rfl, rfl⟩
    · rw [timelyRecord_confirms (hp ▸ h0) hp]
      exact ⟨hp, rfl, rfl⟩
    · rw [timelyRecord_differs h0 hp]
      exact ⟨rfl, rfl, rfl⟩
  | several ps => exact ⟨asBefore_plate b, rfl, rfl⟩

/-- Resolution reads and writes none of these fields. -/
theorem timelyRecord_frame (r : ReadResult) (b : BagRecord) : (timelyRecord r b).held = b.held ∧
    (timelyRecord r b).entry = b.entry ∧ (timelyRecord r b).length = b.length ∧ (timelyRecord r b).source = b.source ∧
    (timelyRecord r b).created = b.created ∧ (timelyRecord r b).flags.duplicate = b.flags.duplicate := by
  unfold timelyRecord asBefore
  split <;> split_ifs <;> exact ⟨rfl, rfl, rfl, rfl, rfl, rfl⟩

theorem TimelyRead.later {b c b' : BagRecord} {r : ReadResult} (h : TimelyRead b c r) (hp : b'.plate = c.plate)
    (hi : b'.identity = c.identity) (hm : b'.flags.mismatch = c.flags.mismatch)
    (ha : b'.flags.ambiguous = c.flags.ambiguous) : TimelyRead b b' r := by
  cases r <;> simpa only [TimelyRead, hp, hi, hm, ha] using h

theorem readResult_one {plates : List Nat} {p : Nat} (h : readResult plates = .one p) : p ≠ 0 := by
  have hm : p ∈ (readPlates plates).eraseDups := by
    unfold readResult at h
    split at h
    · cases h
    · rename_i q hq
      cases h
      rw [hq]
      exact List.mem_singleton.mpr rfl
    · cases h
  have valid := (List.mem_filter.mp (List.mem_eraseDups.mp hm)).2
  have range : 1 ≤ p ∧ p ≤ Config.maxPlate := of_decide_eq_true valid
  omega

/-- R51: a record that gains a plate is checked against the other live records. -/
theorem resolveTimely_gains {slot p : Nat} {s : State} {b : BagRecord} (hb : findBag s slot = some b) (h0 : b.plate = 0)
    (hp : p ≠ 0) : resolveTimely slot (.one p) s = duplicateCheck (.bag slot) (updateBag slot (timelyRecord (.one p)) s) := by
  have found := findBag_updateBag_self hb (timelyRecord_slot (.one p))
  have plate := (timelyRecord_read (.one p) b).1 h0
  rw [resolveTimely, if_neg]
  rw [found, hb]
  intro h
  exact hp (plate.1.symm.trans ((Option.some.inj h).trans h0))

/-- R50, R51: the record once resolved; a duplicate check may have set DUPLICATE. -/
theorem resolveTimely_bag {slot : Nat} (r : ReadResult) {s : State} {b : BagRecord} (hb : findBag s slot = some b) :
    ∃ d, findBag (resolveTimely slot r s) slot = some ((timelyRecord r b).marked d) := by
  have found := findBag_updateBag_self hb (timelyRecord_slot r)
  unfold resolveTimely
  simp only
  split
  · exact ⟨false, by rw [found, BagRecord.marked_false]⟩
  · exact (duplicateCheck_marks _ _).bag found

/-! ## DUPLICATE (R51) -/

section
variable {slot p : Nat} {s : State} {b : BagRecord}

/-- The part with a record that has gained a plate, before the duplicate check. -/
def gained (slot p : Nat) (s : State) : State := updateBag slot (timelyRecord (.one p)) (heldIn slot (.one p) s)

theorem findBag_gained (hb : findBag s slot = some b) :
    findBag (gained slot p s) slot = some (timelyRecord (.one p) { b with held := some (.one p) }) :=
  findBag_updateBag_self (findBag_heldIn (.one p) hb) (timelyRecord_slot _)

theorem findBag_gained_other {j : Nat} (hj : j ≠ slot) : findBag (gained slot p s) j = findBag s j :=
  (findBag_updateBag_other hj (timelyRecord_slot _)).trans (findBag_updateBag_other hj)

theorem viewLive_gained (hb : findBag s slot = some b) (h0 : b.plate = 0) : ∃ v, viewLive (gained slot p s) (.bag slot) = some v ∧
    v.plate = p ∧ v.created = b.created := by
  obtain ⟨-, -, -, -, created, -⟩ := timelyRecord_frame (.one p) { b with held := some (.one p) }
  obtain ⟨plate, -⟩ := (timelyRecord_read (.one p) { b with held := some (.one p) }).1 h0
  exact ⟨_, by rw [viewLive, findBag_gained hb]; rfl, plate, created⟩

theorem segmentSlots_gained : segmentSlots (gained slot p s) = segmentSlots s :=
  (segmentSlots_updateBag _ _ _ fun b _ => timelyRecord_slot _ b).trans (segmentSlots_updateBag _ _ _ fun _ _ => rfl)

/-- R51: of the record and another of the queue that holds its plate, the one made later carries DUPLICATE. -/
theorem gained_marks_bag (hb : findBag s slot = some b) (h0 : b.plate = 0) (hp : p ≠ 0) (hn : (segmentSlots s).Nodup)
    {y : BagRecord} (hy : y ∈ s.tracker.segment) (hslot : y.slot ≠ slot) (hplate : y.plate = p) :
    Marked (if b.created < y.created then .bag y.slot else .bag slot) (duplicateCheck (.bag slot) (gained slot p s)) := by
  obtain ⟨v, hv, plate, created⟩ := viewLive_gained (p := p) hb h0
  have found : findBag (gained slot p s) y.slot = some y := (findBag_gained_other hslot).trans (findBag_of_mem hn hy)
  have live : Live.bag y.slot ∈ liveRecords (gained slot p s) := by
    rw [liveRecords, segmentSlots_gained]
    exact List.mem_append_left _ (List.mem_map_of_mem (List.mem_map_of_mem hy))
  rw [← created]
  exact duplicateCheck_marked (l := .bag y.slot) (w := ⟨y.plate, y.part, y.status, y.created⟩) hv (by rw [plate]; exact hp) live
    (by simpa using hslot) (by rw [viewLive, found]; rfl) (hplate.trans plate.symm)

/-- R51: the same of an expected entry. -/
theorem gained_marks_entry (hb : findBag s slot = some b) (h0 : b.plate = 0) (hp : p ≠ 0) (hn : PairLaw s.handoff)
    {y : ExpectedEntry} (hy : y ∈ s.handoff.expected) (hplate : y.plate = p) :
    Marked (if b.created < y.created then .entry y.source y.id else .bag slot)
      (duplicateCheck (.bag slot) (gained slot p s)) := by
  obtain ⟨v, hv, plate, created⟩ := viewLive_gained (p := p) hb h0
  have found : findEntry (gained slot p s) y.source y.id = some y := findEntry_of_mem (s := gained slot p s) hn hy
  have live : Live.entry y.source y.id ∈ liveRecords (gained slot p s) :=
    List.mem_append_right _ (List.mem_map.mpr ⟨y, hy, rfl⟩)
  rw [← created]
  exact duplicateCheck_marked (l := .entry y.source y.id) (w := ⟨y.plate, y.part, y.status, y.created⟩) hv
    (by rw [plate]; exact hp) live (by simp) (by rw [viewLive, found]; rfl) (hplate.trans plate.symm)

/-- R51: a plate that no live record holds sets no DUPLICATE. -/
theorem gained_alone (hb : findBag s slot = some b) (h0 : b.plate = 0) (h : NoneHolds p s) :
    duplicateCheck (.bag slot) (gained slot p s) = gained slot p s := by
  obtain ⟨v, hv, plate, -⟩ := viewLive_gained (p := p) hb h0
  refine duplicateCheck_alone hv fun l _ hne w hw => ?_
  rw [plate]
  cases l with
  | bag j =>
    have hj : j ≠ slot := fun h => hne (by rw [h])
    rw [viewLive, findBag_gained_other hj] at hw
    obtain ⟨y, hy, rfl⟩ := Option.map_eq_some_iff.mp hw
    exact h.1 y (findBag_slot hy).2
  | entry source id =>
    obtain ⟨y, hy, rfl⟩ := Option.map_eq_some_iff.mp hw
    exact h.2 y (findEntry_mem hy).1

end

/-! ## The answer to the READ of a record not decided -/

/-- The part once the Reader Link has heard a reply (R44, R48). -/
def answered (s : State) : State := onReader readerAnswers s

/-- R44, R50: the answer ends the request and resolves the record; what follows leaves the identity parts. -/
theorem exec_readReply_timely {number : Byte} {plates : List Nat} {slot : Nat} {b : BagRecord} {s : State} (h : Ready s)
    (ha : linkActs s = true) (hl : plates.length ≤ 4) (ho : ReadOutstanding number (some slot) s)
    (hb : findBag s slot = some b) (hd : isDecided b = false) :
    ∃ t, exec (.readReply true number plates) s = .next t ∧ Keeps s t ∧ segmentSlots t = segmentSlots s ∧
      t.reader.misses = 0 ∧ t.reader.down = false ∧
      SameIdentity (resolveTimely slot (readResult plates) (heldIn slot (readResult plates) (answered s))) t := by
  have calm := settle_calm (readAnswered (some slot) (readResult plates) s)
  obtain ⟨keeps, slots⟩ := (readAnswered_level (some slot) (readResult plates) s).keeps_settle
  have reader : (readAnswered (some slot) (readResult plates) s).reader = endRequest (readerAnswers s.reader) :=
    congrArg endRequest (deliver_asks slot (readResult plates) (answered s)).reader
  have ended : SameIdentity (deliver slot (readResult plates) (answered s)) (readAnswered (some slot) (readResult plates) s) :=
    .beside rfl rfl
  refine ⟨_, exec_readReply h ha hl ho, keeps, slots, ?_, ?_,
    ((deliver_sameIdentity (s := answered s) _ hb hd).trans ended).trans calm.sameIdentity⟩
  · rw [calm.reader, reader, (endRequest_health _).1]
    rfl
  · rw [calm.reader, reader, (endRequest_health _).2]
    rfl

/-- R51: of a plate gained, the live record made later carries DUPLICATE at the end of the event. -/
theorem SameIdentity.duplicates {slot p : Nat} {b : BagRecord} {s t : State} (h : SameIdentity (resolveTimely slot (.one p)
      (heldIn slot (.one p) s)) t) (hb : findBag s slot = some b) (h0 : b.plate = 0) (hp : p ≠ 0)
    (hn : (segmentSlots s).Nodup) (hpair : PairLaw s.handoff) {b' : BagRecord} (hb' : findBag t slot = some b') :
    (∀ y ∈ s.tracker.segment, y.slot ≠ slot → y.plate = p → (y.created ≤ b.created → b'.flags.duplicate = true) ∧
      (b.created < y.created → ∃ y', findBag t y.slot = some y' ∧ y'.flags.duplicate = true)) ∧
    (∀ y ∈ s.handoff.expected, y.plate = p → (y.created ≤ b.created → b'.flags.duplicate = true) ∧
      (b.created < y.created → ∃ y', findEntry t y.source y.id = some y' ∧ y'.flags.duplicate = true)) ∧
    (NoneHolds p s → b'.flags.duplicate = b.flags.duplicate) := by
  rw [resolveTimely_gains (findBag_heldIn (.one p) hb) (by exact h0) hp] at h
  change SameIdentity (duplicateCheck (.bag slot) (gained slot p s)) t at h
  have own (hm : Marked (.bag slot) t) : b'.flags.duplicate = true := by
    obtain ⟨x, hx, hd⟩ := hm
    obtain rfl := Option.some.inj (hb'.symm.trans hx)
    exact hd
  refine ⟨fun y hy hslot hplate => ?_, fun y hy hplate => ?_, fun alone => ?_⟩
  · have marked := h.marked (gained_marks_bag hb h0 hp hn hy hslot hplate)
    exact ⟨fun hc => own (by rwa [if_neg (not_lt.mpr hc)] at marked), fun hc => by rwa [if_pos hc] at marked⟩
  · have marked := h.marked (gained_marks_entry hb h0 hp hpair hy hplate)
    exact ⟨fun hc => own (by rwa [if_neg (not_lt.mpr hc)] at marked), fun hc => by rwa [if_pos hc] at marked⟩
  · rw [gained_alone hb h0 alone] at h
    obtain ⟨x, hx, same⟩ := h.bag (findBag_gained hb)
    obtain rfl := Option.some.inj (hb'.symm.trans hx)
    obtain ⟨-, -, -, -, -, kept⟩ := timelyRecord_frame (.one p) { b with held := some (.one p) }
    exact (congrArg (fun x => x.flags.duplicate) same).trans kept

/-- R44, R50: the record at the end of the event. -/
theorem SameIdentity.resolved {slot : Nat} {r : ReadResult} {b : BagRecord} {s t : State}
    (h : SameIdentity (resolveTimely slot r (heldIn slot r s)) t) (hb : findBag s slot = some b) :
    ∃ b', findBag t slot = some b' ∧ b'.held = some r ∧ b'.entry = b.entry ∧ b'.length = b.length ∧ b'.source = b.source ∧
      TimelyRead b b' r := by
  obtain ⟨d, hc⟩ := resolveTimely_bag r (findBag_heldIn r hb)
  obtain ⟨b', hb', same⟩ := h.bag hc
  obtain ⟨held, entry, length, source, -, -⟩ := timelyRecord_frame r { b with held := some r }
  have read : TimelyRead b (timelyRecord r { b with held := some r }) r := timelyRecord_read r { b with held := some r }
  exact ⟨b', hb', (congrArg BagRecord.held same).trans held, (congrArg BagRecord.entry same).trans entry,
    (congrArg BagRecord.length same).trans length, (congrArg BagRecord.source same).trans source,
    read.later (congrArg BagRecord.plate same :) (congrArg BagRecord.identity same :)
      (congrArg (fun x => x.flags.mismatch) same :) (congrArg (fun x => x.flags.ambiguous) same :)⟩

/-! ## A late answer (R52) -/

/-- R52: a record becomes a late stray, unless it has been one. -/
def BagRecord.lateStrayed (reason : StrayReason) (b : BagRecord) : BagRecord :=
  { b with flags := { b.flags with stray := true }, reason := some (b.reason.getD reason), lateStrayMade := true }

/-- R52: what a late stray reason makes of a record and of the exception list. -/
def LateStray (reason : StrayReason) (b b' : BagRecord) (s t : State) : Prop :=
  (b.lateStrayMade = true → b'.flags.stray = b.flags.stray ∧ b'.reason = b.reason ∧ t.exc.strays = s.exc.strays) ∧
  (b.lateStrayMade = false → b'.flags.stray = true ∧ b'.reason = some (b.reason.getD reason) ∧ b'.lateStrayMade = true ∧
    MadeStray (bagStray b reason (lateDisposition s b)) s t)

/-- R52: what a late read result makes of a decided record. -/
def LateRead (b b' : BagRecord) (s t : State) : ReadResult → Prop
  | .noRead => b'.plate = b.plate ∧ b'.identity = b.identity ∧ b'.flags = b.flags ∧ t.exc.strays = s.exc.strays
  | .one p =>
      (b.plate = 0 → b'.plate = p ∧ b'.identity = .read ∧ t.exc.strays = s.exc.strays) ∧
      (b.plate = p → p ≠ 0 → b'.plate = p ∧ b'.flags = b.flags ∧ t.exc.strays = s.exc.strays ∧
        b'.identity = (if b.identity = .announced then .confirmed else b.identity)) ∧
      (b.plate ≠ 0 → b.plate ≠ p →
        b'.plate = b.plate ∧ b'.identity = b.identity ∧ b'.flags.mismatch = true ∧ LateStray .mismatch b b' s t)
  | .several _ =>
      b'.plate = b.plate ∧ b'.identity = b.identity ∧ b'.flags.ambiguous = true ∧ LateStray .ambiguous b b' s t

/-- R52: the read result held, the outlet, the tracking state, the route status and the manifest part stand. -/
structure SameRouting (b b' : BagRecord) : Prop where
  held : b'.held = b.held
  chosen : b'.chosen = b.chosen
  tracking : b'.tracking = b.tracking
  status : b'.status = b.status
  part : b'.part = b.part

theorem LateStray.beside {reason : StrayReason} {b b' : BagRecord} {s t u : State} (h : LateStray reason b b' s t)
    (k : u.exc.strays = t.exc.strays ∧ u.exc.nextSeq = t.exc.nextSeq) : LateStray reason b b' s u := by
  refine ⟨fun hm => ?_, fun hm => ?_⟩
  · obtain ⟨flag, named, strays⟩ := h.1 hm
    exact ⟨flag, named, k.1.trans strays⟩
  · obtain ⟨flag, named, marker, made⟩ := h.2 hm
    exact ⟨flag, named, marker, made.beside k⟩

theorem LateRead.beside {r : ReadResult} {b b' : BagRecord} {s t u : State} (h : LateRead b b' s t r)
    (k : u.exc.strays = t.exc.strays ∧ u.exc.nextSeq = t.exc.nextSeq) : LateRead b b' s u r := by
  cases r with
  | noRead =>
    obtain ⟨plate, identity, flags, strays⟩ := h
    exact ⟨plate, identity, flags, k.1.trans strays⟩
  | one p =>
    obtain ⟨gains, agrees, differs⟩ := h
    refine ⟨fun h0 => ?_, fun hp h0 => ?_, fun h0 hp => ?_⟩
    · obtain ⟨plate, identity, strays⟩ := gains h0
      exact ⟨plate, identity, k.1.trans strays⟩
    · obtain ⟨plate, flags, strays, identity⟩ := agrees hp h0
      exact ⟨plate, flags, k.1.trans strays, identity⟩
    · obtain ⟨plate, identity, mismatch, late⟩ := differs h0 hp
      exact ⟨plate, identity, mismatch, late.beside k⟩
  | several ps =>
    obtain ⟨plate, identity, ambiguous, late⟩ := h
    exact ⟨plate, identity, ambiguous, late.beside k⟩

section
variable {slot p : Nat} {s : State} {b : BagRecord}

theorem resolveLate_gains (hb : findBag s slot = some b) (h0 : b.plate = 0) : resolveLate slot (.one p) s =
    duplicateCheck (.bag slot) (updateBag slot (fun b => { b with plate := p, identity := .read }) s) := by
  simp only [resolveLate, hb, if_pos h0]

theorem resolveLate_agrees (hb : findBag s slot = some b) (h0 : b.plate ≠ 0) (hp : b.plate = p) :
    resolveLate slot (.one p) s =
      updateBag slot (fun b => if b.identity = .announced then { b with identity := .confirmed } else b) s := by
  simp only [resolveLate, hb, if_neg h0, if_pos hp]

theorem resolveLate_differs (hb : findBag s slot = some b) (h0 : b.plate ≠ 0) (hp : b.plate ≠ p) :
    resolveLate slot (.one p) s =
      lateStray slot .mismatch (updateBag slot (fun b => { b with flags := { b.flags with mismatch := true } }) s) := by
  simp only [resolveLate, hb, if_neg h0, if_neg hp]

theorem resolveLate_several (ps : List Nat) (hb : findBag s slot = some b) : resolveLate slot (.several ps) s =
    lateStray slot .ambiguous (updateBag slot (fun b => { b with flags := { b.flags with ambiguous := true } }) s) := by
  simp only [resolveLate, hb]

/-- R52: the record and its stray record, made at most once. -/
theorem lateStray_made (reason : StrayReason) (hb : findBag s slot = some b) (ha : acting s = true) :
    ∃ b', findBag (lateStray slot reason s) slot = some b' ∧ (b' = b ∨ b' = b.lateStrayed reason) ∧
      LateStray reason b b' s (lateStray slot reason s) := by
  cases hm : b.lateStrayMade with
  | true =>
    have same : lateStray slot reason s = s := by simp only [lateStray, hb, hm, if_true]
    rw [same]
    exact ⟨b, hb, .inl rfl, fun _ => ⟨rfl, rfl, rfl⟩, fun h => by rw [hm] at h; cases h⟩
  | false =>
    have made : lateStray slot reason s = handStray (bagStray b reason (lateDisposition s b))
        (updateBag slot (BagRecord.lateStrayed reason) s) := by
      simp only [lateStray, hb, hm, Bool.false_eq_true, if_false]
      rfl
    have strays : MadeStray (bagStray b reason (lateDisposition s b)) s (lateStray slot reason s) := by
      rw [made]
      exact handStray_strays _ (s := updateBag slot (BagRecord.lateStrayed reason) s) ha
    have found : findBag (lateStray slot reason s) slot = some (b.lateStrayed reason) := by
      rw [made, findBag, (handStray_sends _ _).tracker]
      exact findBag_updateBag_self hb fun _ => rfl
    exact ⟨_, found, .inr rfl, fun h => (by rw [hm] at h; cases h), fun _ => ⟨rfl, rfl, rfl, strays⟩⟩

/-- R52: the late resolution of a record in a slot. -/
theorem resolveLate_read (r : ReadResult) (hb : findBag s slot = some b) (ha : acting s = true) :
    ∃ b', findBag (resolveLate slot r s) slot = some b' ∧ SameRouting b b' ∧ LateRead b b' s (resolveLate slot r s) r := by
  cases r with
  | noRead =>
    rw [resolveLate_noRead]
    exact ⟨b, hb, ⟨rfl, rfl, rfl, rfl, rfl⟩, rfl, rfl, rfl, rfl⟩
  | one p =>
    by_cases h0 : b.plate = 0
    · rw [resolveLate_gains hb h0]
      have checked := duplicateCheck_marks (.bag slot) (updateBag slot (fun b => { b with plate := p, identity := .read }) s)
      obtain ⟨d, found⟩ := checked.bag (findBag_updateBag_self (f := fun b => { b with plate := p, identity := .read }) hb)
      obtain ⟨_, _, rest⟩ := checked.rest
      exact ⟨_, found, ⟨rfl, rfl, rfl, rfl, rfl⟩, fun _ => ⟨rfl, rfl, by rw [rest]; rfl⟩,
        fun hp h => absurd (hp.symm.trans h0) h, fun h => absurd h0 h⟩
    · by_cases hp : b.plate = p
      · rw [resolveLate_agrees hb h0 hp]
        refine ⟨_, findBag_updateBag_self hb fun b => by split <;> rfl, ?_, fun h => absurd h h0, fun _ _ => ?_,
          fun _ h => absurd hp h⟩
        · constructor <;> split <;> rfl
        · refine ⟨?_, ?_, rfl, ?_⟩
          · split <;> exact hp
          · split <;> rfl
          · split <;> rfl
      · rw [resolveLate_differs hb h0 hp]
        obtain ⟨b', found, same, late⟩ := lateStray_made .mismatch
          (findBag_updateBag_self (f := fun b => { b with flags := { b.flags with mismatch := true } }) hb) (by exact ha)
        refine ⟨b', found, ?_, fun h => absurd h h0, fun h => absurd h hp, fun _ _ => ?_⟩
        · rcases same with rfl | rfl <;> exact ⟨rfl, rfl, rfl, rfl, rfl⟩
        · obtain ⟨plate, identity, flag⟩ : b'.plate = b.plate ∧ b'.identity = b.identity ∧ b'.flags.mismatch = true := by
            rcases same with rfl | rfl <;> exact ⟨rfl, rfl, rfl⟩
          exact ⟨plate, identity, flag, late⟩
  | several ps =>
    rw [resolveLate_several ps hb]
    obtain ⟨b', found, same, late⟩ := lateStray_made .ambiguous
      (findBag_updateBag_self (f := fun b => { b with flags := { b.flags with ambiguous := true } }) hb) (by exact ha)
    refine ⟨b', found, ?_, ?_⟩
    · rcases same with rfl | rfl <;> exact ⟨rfl, rfl, rfl, rfl, rfl⟩
    · obtain ⟨plate, identity, flag⟩ : b'.plate = b.plate ∧ b'.identity = b.identity ∧ b'.flags.ambiguous = true := by
        rcases same with rfl | rfl <;> exact ⟨rfl, rfl, rfl⟩
      exact ⟨plate, identity, flag, late⟩

end

/-- R49, R52: a read result delivered to a decided record. -/
theorem deliver_late {slot : Nat} (r : ReadResult) {b : BagRecord} {s : State} (hb : findBag s slot = some b)
    (hd : isDecided b = true) (ha : acting s = true) :
    ∃ b', findBag (deliver slot r s) slot = some b' ∧ SameRouting { b with held := some r } b' ∧
      LateRead b b' s (deliver slot r s) r := by
  obtain ⟨b', found, same, late⟩ := resolveLate_read r (findBag_heldIn r hb) (by exact ha)
  have told := tellRead_strays slot r (resolveLate slot r (heldIn slot r s))
  have tracker := (tellRead_sends slot r (resolveLate slot r (heldIn slot r s))).tracker
  rw [← deliver_decided hb hd] at told tracker
  exact ⟨b', by rw [findBag, tracker]; exact found, same, late.beside told⟩

/-- R52: a late answer reaches the record and the exception list; no window, query or cache entry changes. -/
theorem exec_readReply_late {number : Byte} {plates : List Nat} {slot : Nat} {b : BagRecord} {s : State} (h : Ready s)
    (ha : linkActs s = true) (hl : plates.length ≤ 4) (ho : ReadOutstanding number (some slot) s)
    (hb : findBag s slot = some b) (hd : isDecided b = true) :
    ∃ t b', exec (.readReply true number plates) s = .next t ∧ Keeps s t ∧ segmentSlots t = segmentSlots s ∧
      t.divert = s.divert ∧ t.queries = s.queries ∧ t.cache = s.cache ∧ findBag t slot = some b' ∧
      SameRouting { b with held := some (readResult plates) } b' ∧ LateRead b b' s t (readResult plates) := by
  have acts : acting (answered s) = true := (Bool.and_eq_true_iff.mp ha).1
  obtain ⟨keeps, slots⟩ := (readAnswered_level (some slot) (readResult plates) s).keeps_settle
  obtain ⟨divert, queries, cache, owed⟩ := (deliver_notes (s := answered s) (r := readResult plates) hb hd).others
  obtain ⟨b', found, same, late⟩ := deliver_late (readResult plates) (s := answered s) hb hd acts
  have settled : settle (readAnswered (some slot) (readResult plates) s) =
      drivePins (onReader endRequest (deliver slot (readResult plates) (answered s))) :=
    settle_of_none (owed.trans h.2.1)
  refine ⟨_, b', exec_readReply h ha hl ho, keeps, slots, ?_⟩
  rw [settled]
  exact ⟨divert, queries, cache, found, same, LateRead.beside (s := s) late ⟨rfl, rfl⟩⟩

/-- Settles O34: a record not decided is resolved, and neither the lookup nor the end of the event touches its identity part;
a decided one is resolved late, which owes no report, so that nothing follows. -/
theorem readReplyResolvesIdentity : Obligations.ReadReplyResolvesIdentity := by
  refine ⟨fun number plates slot b s h ha hl ho hb hd => ?_, fun number plates slot b s h ha hl ho hb hd => ?_⟩
  · obtain ⟨t, ht, keeps, slots, misses, down, same⟩ := exec_readReply_timely h ha hl ho hb hd
    obtain ⟨b', hb', held, entry, length, source, read⟩ := same.resolved (s := answered s) hb
    obtain ⟨u, b'', hu, kept, missed, hb'', noRead, plate, identity⟩ := exec_readTimeout_gives h ho hb
    rw [if_neg (by rw [hd]; exact Bool.false_ne_true)] at identity
    refine ⟨t, b', ht, keeps, misses, down, slots, hb', held, entry, length, source, fun hr => ?_, fun p hr => ?_,
      fun ps hr => ?_, u, b'', hu, kept, missed, hb'', noRead, plate, identity⟩ <;> rw [hr] at read
    · exact read
    · obtain ⟨gains, agrees, differs⟩ := read
      rw [hr] at same
      exact ⟨gains, agrees, differs, fun h0 hn hpair =>
        same.duplicates (s := answered s) hb h0 (readResult_one hr) hn hpair hb'⟩
    · exact read
  · obtain ⟨t, b', ht, keeps, slots, divert, queries, cache, hb', same, read⟩ := exec_readReply_late h ha hl ho hb hd
    obtain ⟨rfl, -⟩ := findBag_slot hb
    refine ⟨t, b', ht, keeps, slots, divert, queries, cache, hb', same.held, same.chosen, same.tracking, same.status,
      same.part, fun hr => ?_, fun p hr => ?_, fun ps hr => ?_⟩ <;> rw [hr] at read <;> exact read

end Sys2Proof.Machine
end

section
/-! PROOFS. O33: the requests of the Reader Link (R41 to R48), and the reader position of a record (R42). -/

namespace Sys2Proof.Machine

/-! ## How a request ends (R43) -/

theorem endRequest_idles {r : ReaderLink} (h : r.down = true ∨ r.queue = []) :
    endRequest r = { r with outstanding := none, idle := some 500 } := by
  unfold endRequest
  split
  · rename_i slot rest hd hq
    rcases h with h | h
    · rw [hd] at h; cases h
    · rw [hq] at h; cases h
  · rfl

theorem endRequest_sends {r : ReaderLink} {slot : Nat} {rest : List Nat} (hd : r.down = false) (hq : r.queue = slot :: rest) :
    endRequest r = { r with
      queue := rest, number := r.number + 1, outstanding := some ⟨r.number + 1, .read (some slot), 80⟩, idle := none } := by
  simp only [endRequest, hd, hq]
  rfl

/-! ## The reader position (R42) -/

theorem readerReached_asks {slot : Nat} {s : State} (hp : (cfg s).readerPresent = true) (hd : s.reader.down = false)
    (ho : s.reader.outstanding = none) : readerReached slot s = onReader (sendRequest (.read (some slot))) s := by
  rw [readerReached, if_neg (by simp [hp, hd]), if_pos (by simp [ho])]

theorem readerReached_queues {slot : Nat} {s : State} (hp : (cfg s).readerPresent = true) (hd : s.reader.down = false)
    (ho : s.reader.outstanding.isSome = true) (hq : s.reader.queue.length < 4) :
    readerReached slot s = onReader (fun r => { r with queue := r.queue ++ [slot] }) s := by
  obtain ⟨o, ho⟩ := Option.isSome_iff_exists.mp ho
  rw [readerReached, if_neg (by simp [hp, hd]), if_neg (by simp [ho]), if_pos (by exact hq)]

/-- R42: without a reader, with READER_DOWN or with four requests queued the record gets NO_READ at once. -/
theorem readerReached_gives {slot : Nat} {s : State} (h : (cfg s).readerPresent = false ∨ s.reader.down = true ∨
    (s.reader.outstanding.isSome = true ∧ 4 ≤ s.reader.queue.length)) : readerReached slot s = deliver slot .noRead s := by
  unfold readerReached
  split
  · rfl
  · rename_i hn
    obtain ⟨ho, hq⟩ := (h.resolve_left fun hp => hn (.inl hp)).resolve_left fun hd => hn (.inr hd)
    obtain ⟨o, ho⟩ := Option.isSome_iff_exists.mp ho
    rw [if_neg (by simp [ho]), if_neg (by exact not_lt.mpr hq)]

theorem readerReached_owes {slot : Nat} {s : State} (h : OwesQueries s) : OwesQueries (readerReached slot s) := by
  unfold readerReached
  split_ifs
  · exact (deliver_asks slot .noRead s).owed h
  · exact h
  · exact h
  · exact (deliver_asks slot .noRead s).owed h

/-- The part when the reader position of a slot is reported, its registration removed. -/
def atReaderPosition (slot : Nat) (a b forward : Bool) (s : State) : State :=
  withdraw (.readerPosition slot) (countTaken a b forward s)

/-- R42: what every count that reaches a reader position leaves. -/
theorem exec_readerPosition {a b forward : Bool} {p : Pos} {slot : Nat} {s : State} (h : CountComes a b forward s)
    (ht : ∀ e, (eyeOf s e).trailing = none) (hr : ReachesOnly (.readerPosition slot) p forward s) :
    exec (.encoderCount a b) s = .next (settle (readerReached slot (atReaderPosition slot a b forward s))) ∧
      Keeps (countMoved a b forward s) (settle (readerReached slot (atReaderPosition slot a b forward s))) ∧
      (settle (readerReached slot (atReaderPosition slot a b forward s))).belt.register =
        registerWithout [.readerPosition slot] s ∧
      segmentSlots (settle (readerReached slot (atReaderPosition slot a b forward s))) = segmentSlots s := by
  obtain ⟨keeps, slots⟩ := (readerReached_level slot (atReaderPosition slot a b forward s)).keeps_settle
  have owes : OwesQueries (atReaderPosition slot a b forward s) := fun r hr => by
    rw [show (atReaderPosition slot a b forward s).owed = [] from h.ready.2.1] at hr
    cases hr
  have counted : Keeps (countMoved a b forward s) (atReaderPosition slot a b forward s) := ⟨rfl, rfl, rfl, rfl, rfl, rfl, rfl, rfl⟩
  refine ⟨exec_count_only h ht hr fun e => by cases e <;> rfl, counted.trans keeps, ?_, slots⟩
  rw [settle_belt (readerReached_owes owes), (readerReached_still slot _).1]
  simp [atReaderPosition, registerWithout, withdraw, countTaken]

/-! ## READER_DOWN (R45 to R47) -/

theorem exec_pollTimeout {number : Byte} {timer : Nat} {s : State} (h : Ready s)
    (ho : s.reader.outstanding = some ⟨number, .poll, timer⟩) : exec .pollTimeout s = .next (settle (readMissed none s)) := by
  rw [exec_ready (by simp) (by simp) h.1]
  change Host.Outcome.next (settle (pollTimesOut s)) = _
  rw [pollTimesOut, ho]
  rfl

/-- R46, R47: the third miss sets READER_DOWN, and every queued request ends with NO_READ. -/
theorem readMissed_flushes {s : State} (hd : s.reader.down = false) (hm : 2 ≤ s.reader.misses) :
    (settle (readMissed none s)).reader =
        { s.reader with outstanding := none, idle := some 500, misses := 3, down := true, queue := [] } ∧
      ∀ slot ∈ s.reader.queue, ∀ x, findBag s slot = some x →
        ∃ x', findBag (settle (readMissed none s)) slot = some x' ∧ GaveNoRead x x' := by
  have calm := settle_calm (readMissed none s)
  have third : (onReader countMiss s).reader.misses = 3 := show min 3 (s.reader.misses + 1) = 3 by omega
  obtain ⟨given, reader⟩ := checkDown_flushes third hd
  refine ⟨?_, fun slot hq x hx => ?_⟩
  · rw [calm.reader]
    change endRequest (checkDown (onReader countMiss s)).reader = _
    rw [reader, endRequest_idles (.inl rfl), third]
    rfl
  · obtain ⟨c, hc, -, gave, -⟩ := given slot x hx
    obtain ⟨x', hx', same⟩ := calm.sameIdentity.bag (b := c) hc
    exact ⟨x', hx', (gave hq).later same⟩

/-- R47: with nothing queued READER_DOWN is only set. -/
theorem checkDown_empty {s : State} (hq : s.reader.queue = []) :
    checkDown s = onReader (fun r => { r with down := r.down || decide (r.misses = 3) }) s := by
  by_cases h : s.reader.misses = 3 ∧ s.reader.down = false
  · obtain ⟨hm, hd⟩ := h
    simp [checkDown, onReader, Config.missLimit, hm, hd, hq]
  · rw [checkDown_stays h]
    have same : (s.reader.down || decide (s.reader.misses = 3)) = s.reader.down := by
      cases hd : s.reader.down with
      | true => rfl
      | false => simpa using fun hm => h ⟨hm, hd⟩
    simp only [onReader, same]

theorem readMissed_empty {s : State} (hq : s.reader.queue = []) : readMissed none s = { s with reader := { s.reader with
    outstanding := none, idle := some 500, misses := min 3 (s.reader.misses + 1),
    down := s.reader.down || decide (3 ≤ s.reader.misses + 1) } } := by
  have third : (min 3 (s.reader.misses + 1) = 3) = (3 ≤ s.reader.misses + 1) := propext (by omega)
  change onReader endRequest (checkDown (onReader countMiss s)) = _
  rw [checkDown_empty (by exact hq)]
  simp only [onReader, countMiss, Config.missLimit, third]
  rw [endRequest_idles]
  exact .inr hq

/-! ## Commands that change the Reader Link alone -/

section
variable {number : Byte} {s : State}

theorem exec_onReader {c : Instr} {r : ReaderLink} (hr : ∀ r, c ≠ .reset r) (hn : c ≠ .resetNAsserted) (h : Ready s)
    (hu : effect c s = { s with reader := r }) : exec c s = .next (drivePins { s with reader := r }) :=
  exec_calm hr hn h hu h.2.1

/-- R41: a reply that is not whole is discarded. -/
theorem exec_notWhole (h : Ready s) (plates : List Nat) : exec (.readReply false number plates) s = .next (drivePins s) ∧
    exec (.pollReply false number) s = .next (drivePins s) :=
  ⟨exec_onReader (by simp) (by simp) h (if_neg (by simp)), exec_onReader (by simp) (by simp) h (if_neg (by simp))⟩

/-- R44, R48: a READ reply that answers nothing outstanding. -/
theorem exec_readReply_stray {plates : List Nat} (h : Ready s) (ha : linkActs s = true) (hl : plates.length ≤ 4)
    (hn : ∀ slot, ¬ ReadOutstanding number slot s) :
    exec (.readReply true number plates) s = .next (drivePins { s with reader := readerAnswers s.reader }) := by
  refine exec_onReader (by simp) (by simp) h ?_
  change readReplyTaken true number plates s = _
  rw [readReplyTaken, if_pos ⟨ha, rfl, decide_eq_true hl⟩, readReplied]
  split
  · rename_i n slot timer ho
    rw [if_neg (by rintro rfl; exact hn slot ⟨timer, ho⟩)]
    rfl
  · rfl

/-- R46, R48: a POLL reply that answers nothing outstanding. -/
theorem exec_pollReply_stray (h : Ready s) (ha : linkActs s = true)
    (hn : ∀ timer, s.reader.outstanding ≠ some ⟨number, .poll, timer⟩) :
    exec (.pollReply true number) s = .next (drivePins { s with reader := readerAnswers s.reader }) := by
  refine exec_onReader (by simp) (by simp) h ?_
  change pollReplyTaken true number s = _
  rw [pollReplyTaken, if_pos ⟨ha, rfl⟩, pollReplied]
  split
  · rename_i n timer ho
    rw [if_neg (by rintro rfl; exact hn timer ho)]
    rfl
  · rfl

/-- R44, R48: the answer of a READ whose record has left. -/
theorem exec_readReply_ends {plates : List Nat} (h : Ready s) (ha : linkActs s = true) (hl : plates.length ≤ 4)
    (ho : ReadOutstanding number none s) : exec (.readReply true number plates) s =
      .next (drivePins { s with reader := endRequest (readerAnswers s.reader) }) := by
  rw [exec_readReply h ha hl ho, settle_of_none (by exact h.2.1)]
  rfl

/-- R46: the answer of a POLL. -/
theorem exec_pollReply_ends {timer : Nat} (h : Ready s) (ha : linkActs s = true)
    (ho : s.reader.outstanding = some ⟨number, .poll, timer⟩) :
    exec (.pollReply true number) s = .next (drivePins { s with reader := endRequest (readerAnswers s.reader) }) := by
  refine exec_onReader (by simp) (by simp) h ?_
  change pollReplyTaken true number s = _
  rw [pollReplyTaken, if_pos ⟨ha, rfl⟩, pollReplied, ho]
  exact if_pos rfl

/-- R45, R46: a time-out with nothing queued. -/
theorem settle_missed (h : Ready s) (hq : s.reader.queue = []) :
    settle (readMissed none s) = drivePins { s with reader := { s.reader with
      outstanding := none, idle := some 500, misses := min 3 (s.reader.misses + 1),
      down := s.reader.down || decide (3 ≤ s.reader.misses + 1) } } := by
  rw [readMissed_empty hq]
  exact settle_of_none h.2.1

/-- Log 3: a read timer that does not run. -/
theorem exec_timeout_idle (h : Ready s) (ho : s.reader.outstanding = none) :
    exec .readTimeout s = .next (drivePins s) ∧ exec .pollTimeout s = .next (drivePins s) := by
  have read : readTimesOut s = s := by rw [readTimesOut, ho]
  have poll : pollTimesOut s = s := by rw [pollTimesOut, ho]
  exact ⟨exec_onReader (by simp) (by simp) h read, exec_onReader (by simp) (by simp) h poll⟩

/-- R46: the idle timer sends a POLL. -/
theorem exec_idleTimeout (h : Ready s) (ho : s.reader.outstanding = none) (hi : s.reader.idle.isSome = true) :
    exec .idleTimeout s = .next (drivePins { s with reader := sendRequest .poll s.reader }) :=
  exec_onReader (by simp) (by simp) h (if_pos ⟨hi, ho⟩)

end

/-- Settles O33: a reader position reached and a READER_DOWN that flushes give NO_READ by `deliver_noRead`; every other event
changes the Reader Link alone. -/
theorem readerLinkWithoutAResult : Obligations.ReaderLinkWithoutAResult := by
  refine ⟨fun a b forward p slot x s h ht hr hx => ?_, fun number s h hd hm => ?_, fun number plates s h ha hl => ?_⟩
  · obtain ⟨ht, keeps, register, slots⟩ := exec_readerPosition h ht hr
    have owed : (atReaderPosition slot a b forward s).owed = [] := h.ready.2.1
    refine ⟨_, ht, keeps, register, slots, fun hp hd => ⟨fun ho => ?_, fun ho hq => ?_⟩, fun hn => ?_⟩
    · rw [readerReached_asks (s := atReaderPosition slot a b forward s) hp hd ho, settle_of_none (by exact owed)]
      exact ⟨rfl, rfl⟩
    · rw [readerReached_queues (s := atReaderPosition slot a b forward s) hp hd ho hq, settle_of_none (by exact owed)]
      exact ⟨rfl, rfl⟩
    · rw [readerReached_gives (s := atReaderPosition slot a b forward s) hn]
      have calm := settle_calm (deliver slot .noRead (atReaderPosition slot a b forward s))
      obtain ⟨c, hc, -, gave, -⟩ := deliver_noRead slot (atReaderPosition slot a b forward s) slot x hx
      obtain ⟨x', hx', same⟩ := calm.sameIdentity.bag hc
      exact ⟨calm.reader.trans (deliver_asks _ _ _).reader, x', hx', (gave (List.mem_singleton.mpr rfl)).later same⟩
  · obtain ⟨keeps, slots⟩ := (readMissed_level none s).keeps_settle
    have flushed := readMissed_flushes hd hm
    exact ⟨fun ho => ⟨_, exec_readTimeout h ho, keeps, slots, flushed⟩,
      fun timer ho => ⟨_, exec_pollTimeout h ho, keeps, slots, flushed⟩⟩
  · obtain ⟨notRead, notPoll⟩ := exec_notWhole (number := number) h plates
    refine ⟨notRead, notPoll, exec_readReply_stray h ha hl, exec_pollReply_stray h ha, fun hq => ?_, fun slot rest hq => ?_,
      fun hq => ⟨fun ho => ?_, fun timer ho => ?_⟩, exec_timeout_idle h, exec_idleTimeout h⟩
    · have ends : endRequest (readerAnswers s.reader) = _ := endRequest_idles (.inr hq)
      exact ⟨fun ho => by rw [exec_readReply_ends h ha hl ho, ends]; rfl,
        fun timer ho => by rw [exec_pollReply_ends h ha ho, ends]; rfl⟩
    · have ends : endRequest (readerAnswers s.reader) = _ := endRequest_sends rfl hq
      exact ⟨fun ho => by rw [exec_readReply_ends h ha hl ho, ends]; rfl,
        fun timer ho => by rw [exec_pollReply_ends h ha ho, ends]; rfl⟩
    · rw [exec_readTimeout h ho, settle_missed h hq]
    · rw [exec_pollTimeout h ho, settle_missed h hq]

end Sys2Proof.Machine
end

section
/-! PROOFS. O10 fails: the law of R64 on waiters (WaiterLaw), unlike the laws of R129 and R89, does not ask that the slots of the
segment queue are distinct, and a claim (R132) finds the record it claims by its slot. -/

namespace Sys2Proof.Machine

/-! ## Two records in one slot -/

/-- A record that waits in slot 3 for the answer to a query for plate 7. -/
def waitingTwin : BagRecord := { slot := 3, created := 0, entry := 0, plate := 7, status := .awaitingAnswer }

/-- A record in slot 3 as well, CLAIMABLE, with plate 5. -/
def claimableTwin : BagRecord := { slot := 3, created := 1, entry := 0, plate := 5, flags := { claimable := true } }

/-- The query for plate 7, with the record in slot 3 as its waiter. -/
def twinQuery : QueryEntry := ⟨7, 1, 200, [.bag 3]⟩

/-- A HANDOFF from station 2 with plate 5 and no part, addressed to station 1. -/
def twinHandoff : Instr := .handoffReceived ⟨1, 2⟩ ⟨9, 5, 0, noManifestBytes, 0, 0, 0, 0⟩

/-- A node in RUNNING with upstream source 2, the two records, the query and the HANDOFF to be taken. -/
def twinSlots : State :=
  { loader := { node := .running, config := some { JunctionConfig.absent with sources := [⟨2, 1000, 100, false⟩] } }
    tracker := { segment := [waitingTwin, claimableTwin], entered := 2 }
    queries := [twinQuery], serial := { creation := 2 }, pending := [twinHandoff] }

/-- The law of R64 holds: the waiter is found first in its slot, and the cache is empty. -/
theorem twinSlots_waiterLaw : WaiterLaw twinSlots where
  plates := reset_plateLaw
  pairs := List.nodup_nil
  asks q hq := by
    obtain rfl := List.mem_singleton.mp hq
    exact ⟨by decide, by decide⟩
  waiting q hq l hl := by
    obtain rfl := List.mem_singleton.mp hq
    obtain rfl := List.mem_singleton.mp hl
    exact ⟨_, rfl, rfl, rfl⟩

/-- R132, steps 1 and 2: the claim writes plate 5 into both records of the slot. The claimed one held it before, so that no waiter is
taken off its list (R65), and the query for plate 7 keeps a waiter with plate 5. -/
theorem twinSlots_claimed : ∃ t, step twinSlots = .next t ∧ twinQuery ∈ t.queries ∧
    (viewLive t (.bag 3)).map LiveView.plate = some 5 :=
  ⟨_, rfl, by decide, by decide⟩

/-- Refutes O10: in `twinSlots` a claim gives a waiter another plate than the one its query asks for, against the law of R64. No slot
is given twice (R17), but the statement asks the law of every state of which it holds. -/
theorem not_everyStepKeepsTheTables : ¬ Obligations.EveryStepKeepsTheTables := by
  intro h
  obtain ⟨t, ht, hq, hv⟩ := twinSlots_claimed
  obtain ⟨-, -, -, -, -, -, -, -, -, -, waiters, -⟩ := h twinSlots t ht
  obtain ⟨v, hl, -, hp⟩ := (waiters twinSlots_waiterLaw).waiting twinQuery hq (.bag 3) (List.mem_singleton.mpr rfl)
  rw [hl, Option.map_some, hp] at hv
  exact absurd hv (by decide)

end Sys2Proof.Machine
end

section
/-! PROOFS. O35: a deadline of a query (R68), and the lookup of a plate (R60, R61, R64). -/

namespace Sys2Proof.Machine

/-! ## An attempt made again (R68) -/

theorem query_replaces (dest : Byte) (plate : BitVec 40) (x : Queued) : replaces dest (.query plate) x = false := by simp [replaces]

/-- R64: a QUERY frame that finds room joins the transmit queue. -/
theorem sendQuery_accepted {plate : Nat} {s : State} (hn : s.loader.node ≠ .duplicate) (hroom : Room 1 s) :
    sendQuery plate s = acceptFrame ⟨126, .query (BitVec.ofNat 40 plate), 0⟩ s := by
  have few : queueLength s.bus < Config.transmitQueue := hroom
  rw [sendQuery, offer, offerFrame, if_neg hn, if_neg (by simp [query_replaces]), if_pos few]

theorem exec_queryDeadline {s : State} (plate : Nat) (h : Ready s) :
    exec (.queryDeadline plate) s = .next (settle (deadlinePasses plate s)) := exec_ready (by simp) (by simp) h.1

/-- R68: the deadline of the first attempt. -/
theorem exec_queryDeadline_again {plate : Nat} {q : QueryEntry} {s : State} (h : Ready s) (hq : queryFor plate s = some q)
    (h1 : q.attempts = 1) (hn : s.loader.node ≠ .duplicate) (hroom : Room 1 s) :
    exec (.queryDeadline plate) s = .next (drivePins { s with
      queries := s.queries.map (fun x => if x.plate = plate then { x with attempts := 2, deadline := s.time + 200 } else x)
      bus := { s.bus with
        waiting := s.bus.waiting ++ [⟨126, .query (BitVec.ofNat 40 plate), 0⟩]
        reports := s.bus.reports.filter (fun r => decide (r ≠ .query (BitVec.ofNat 40 plate))) } }) := by
  have again : deadlinePasses plate s = acceptFrame ⟨126, .query (BitVec.ofNat 40 plate), 0⟩ (updateQuery plate (fun x =>
      { x with attempts := 2, deadline := s.time + Config.queryDeadline }) s) := by
    rw [deadlinePasses, if_neg hn, attemptEnds, hq]
    exact (if_pos h1).trans (sendQuery_accepted (s := updateQuery plate _ s) hn hroom)
  have owed := h.2.1
  have due := h.2.2.1
  rw [exec_queryDeadline plate h, again, settle_of_none (by exact owed)]
  simp only [acceptFrame, clearReport, updateQuery, due, List.filter_nil, unsentReport, ne_eq, Option.some.injEq]
  rw [← due]
  rfl

/-! ## A change of live records -/

/-- The bag records of a list of live records are changed by one function, its expected entries by another. -/
def onLives (f : BagRecord → BagRecord) (g : ExpectedEntry → ExpectedEntry) (ls : List Live) (s : State) : State :=
  { s with
    tracker := { s.tracker with segment := s.tracker.segment.map (fun b => if .bag b.slot ∈ ls then f b else b) }
    handoff := { s.handoff with expected := s.handoff.expected.map (fun e => if .entry e.source e.id ∈ ls then g e else e) } }

/-- The two functions leave slot and pair, and change nothing the second time. -/
structure Repeatable (f : BagRecord → BagRecord) (g : ExpectedEntry → ExpectedEntry) : Prop where
  slot : ∀ b, (f b).slot = b.slot
  pair : ∀ e, (g e).source = e.source ∧ (g e).id = e.id
  bagTwice : ∀ b, f (f b) = f b
  entryTwice : ∀ e, g (g e) = g e

section
variable {f : BagRecord → BagRecord} {g : ExpectedEntry → ExpectedEntry}

theorem onLives_nil (s : State) : onLives f g [] s = s := by simp [onLives]

/-- Two changes one after the other are the change of both lists. -/
theorem onLives_onLives (h : Repeatable f g) (k l : List Live) (s : State) :
    onLives f g l (onLives f g k s) = onLives f g (k ++ l) s := by
  have bags (b : BagRecord) : (if .bag (if .bag b.slot ∈ k then f b else b).slot ∈ l then f (if .bag b.slot ∈ k then f b else b)
      else if .bag b.slot ∈ k then f b else b) = if .bag b.slot ∈ k ++ l then f b else b := by
    by_cases hk : .bag b.slot ∈ k <;> simp [hk, h.slot, h.bagTwice]
  have entries (e : ExpectedEntry) : (if .entry (if .entry e.source e.id ∈ k then g e else e).source
        (if .entry e.source e.id ∈ k then g e else e).id ∈ l then g (if .entry e.source e.id ∈ k then g e else e)
      else if .entry e.source e.id ∈ k then g e else e) = if .entry e.source e.id ∈ k ++ l then g e else e := by
    by_cases hk : .entry e.source e.id ∈ k <;> simp [hk, h.pair, h.entryTwice]
  simp only [onLives, List.map_map]
  congr 3
  · exact (funext bags)
  · exact (funext entries)

/-- A fold of changes of one live record each. -/
theorem onLives_foldl (h : Repeatable f g) (ls : List Live) (s : State) :
    ls.foldl (fun acc l => onLives f g [l] acc) s = onLives f g ls s := by
  induction ls generalizing s with
  | nil => exact (onLives_nil s).symm
  | cons l ls ih => rw [List.foldl_cons, ih, onLives_onLives h, List.singleton_append]

end

/-! ## An entry failed (R67) -/

/-- R67: a bag record and an expected entry that have failed. -/
def BagRecord.failed (b : BagRecord) : BagRecord := { b with status := .unresolved }

def ExpectedEntry.failed (e : ExpectedEntry) : ExpectedEntry := { e with status := .unresolved }

theorem failed_repeatable : Repeatable BagRecord.failed ExpectedEntry.failed := ⟨fun _ => rfl, fun _ => ⟨rfl, rfl⟩, fun _ => rfl, fun _ => rfl⟩

theorem setStatus_unresolved (l : Live) (s : State) :
    setStatus l .unresolved s = onLives BagRecord.failed ExpectedEntry.failed [l] s := by
  cases l <;> simp [setStatus, updateBag, updateEntry, onLives, BagRecord.failed, ExpectedEntry.failed]

/-- R67: live records failed one after another: they become UNRESOLVED, and the events go to the event counters alone. -/
theorem failAll_fails (ls : List Live) (s : State) : ∃ bus one two,
    ls.foldl (fun acc l => failLive l acc) s =
      { onLives BagRecord.failed ExpectedEntry.failed ls s with bus := bus, exc := { s.exc with counter1 := one, counter2 := two } } := by
  induction ls generalizing s with
  | nil => exact ⟨_, _, _, (onLives_nil s).symm⟩
  | cons l ls ih =>
    obtain ⟨bus, one, two, later⟩ := ih (failLive l s)
    obtain ⟨bus', owed', one', two', first⟩ := countEvent_counts .queryFailures (setStatus l .unresolved s)
    have owed : (failLive l s).owed = (setStatus l .unresolved s).owed := countEvent_owed _ _
    refine ⟨bus, one, two, ?_⟩
    rw [failLive, first, setStatus_unresolved] at owed
    obtain rfl : owed' = s.owed := owed
    rw [List.foldl_cons, later, failLive, first, setStatus_unresolved,
      show l :: ls = [l] ++ ls from rfl, ← onLives_onLives failed_repeatable [l] ls s]
    rfl

/-- R67: an entry failed. -/
theorem failQuery_fails {plate : Nat} {q : QueryEntry} {s : State} (hq : queryFor plate s = some q) : ∃ bus one two,
    failQuery plate s = { onLives BagRecord.failed ExpectedEntry.failed q.waiters (retireQuery plate s) with
      bus := bus, exc := { s.exc with counter1 := one, counter2 := two } } := by
  rw [failQuery, hq]
  exact failAll_fails q.waiters (retireQuery plate s)

/-- R68: the deadline of the second attempt, and any in DUPLICATE. -/
theorem deadlinePasses_fails {plate : Nat} {q : QueryEntry} {s : State} (hq : queryFor plate s = some q)
    (h : q.attempts ≠ 1 ∨ s.loader.node = .duplicate) : deadlinePasses plate s = failQuery plate s := by
  unfold deadlinePasses
  split
  · rfl
  · rename_i hn
    rw [attemptEnds, hq]
    exact if_neg (h.resolve_right hn)

theorem exec_queryDeadline_fails {plate : Nat} {q : QueryEntry} {s : State} (h : Ready s) (hq : queryFor plate s = some q)
    (hf : q.attempts ≠ 1 ∨ s.loader.node = .duplicate) : ∃ t, exec (.queryDeadline plate) s = .next t ∧
      t.queries = s.queries.filter (fun x => decide (x.plate ≠ plate)) ∧
      t.tracker.segment = (onLives BagRecord.failed ExpectedEntry.failed q.waiters s).tracker.segment ∧
      t.handoff.expected = (onLives BagRecord.failed ExpectedEntry.failed q.waiters s).handoff.expected ∧
      steady t = steady s ∧ t.drive = s.drive ∧ t.divert = s.divert ∧ t.flow = s.flow ∧ t.belt = s.belt := by
  have calm := (deadlinePasses_calm plate s).trans (settle_calm _)
  obtain ⟨bus, one, two, fails⟩ := failQuery_fails hq
  refine ⟨_, exec_queryDeadline plate h, ?_⟩
  rw [deadlinePasses_fails hq hf, fails, settle_of_none (by exact h.2.1)] at calm ⊢
  exact ⟨rfl, rfl, rfl, calm.steady, rfl, rfl, rfl, rfl⟩

/-! ## What a set holds of a plate (R58, R60) -/

/-- A list in which one element alone passes a test. -/
theorem findIdx?_of_filter {α : Type} {test : α → Bool} {l : List α} {x : α} (h : l.filter test = [x]) :
    ∃ i, l.findIdx? test = some i ∧ l[i]? = some x := by
  induction l with
  | nil => simp at h
  | cons y l ih =>
    rw [List.filter_cons] at h
    by_cases hy : test y = true
    · rw [if_pos hy] at h
      obtain ⟨rfl, -⟩ := List.cons.inj h
      exact ⟨0, by simp [List.findIdx?_cons, hy], rfl⟩
    · rw [if_neg hy] at h
      obtain ⟨i, hi, hx⟩ := ih h
      exact ⟨i + 1, by simp [List.findIdx?_cons, hy, hi], by simpa using hx⟩

/-- R60: the one way that holds a plate is of the current epoch. -/
theorem cacheHit_of_filter {plate rank : Nat} {e : CacheEntry} {s : State}
    (h : (getSet s (plate % 64)).filter (wayHolds plate) = [⟨rank, some e⟩]) (he : e.epoch = s.cache.epoch) :
    ∃ i, cacheHit plate s = some (i, e) := by
  obtain ⟨i, hi, hx⟩ := findIdx?_of_filter h
  exact ⟨i, by simp [cacheHit, setOf, Config.cacheSets, hi, hx, he]⟩

/-- R60: no way of the current epoch holds the plate. -/
theorem cacheHit_none {plate : Nat} {s : State} (h : ∀ w ∈ getSet s (plate % 64), ∀ e, w.entry = some e → e.plate = plate →
    e.epoch ≠ s.cache.epoch) : cacheHit plate s = none := by
  unfold cacheHit
  simp only
  split
  · rfl
  · rename_i i hi
    obtain ⟨hlt, holds, -⟩ := List.findIdx?_eq_some_iff_getElem.mp hi
    split
    · rfl
    · rename_i e he
      rw [List.getElem?_eq_getElem hlt, Option.bind_some] at he
      refine if_neg (h _ (List.getElem_mem hlt) e he ?_)
      simpa [wayHolds, he] using holds

/-! ## The lookup of a record (R60, R61) -/

/-- A record that meets the conditions of a lookup. -/
structure LooksUp (slot : Nat) (b : BagRecord) (s : State) : Prop where
  found : findBag s slot = some b
  undecided : isDecided b = false
  plate : b.plate ≠ 0
  part : b.part = none
  status : b.status = .pending
  acts : acting s = true

theorem LooksUp.view {slot : Nat} {b : BagRecord} {s : State} (h : LooksUp slot b s) :
    viewLive s (.bag slot) = some ⟨b.plate, b.part, b.status, b.created⟩ := by rw [viewLive, h.found]; rfl

/-- R60: a hit: the record takes the way's part and the way is touched. -/
theorem lookup_hits {slot i : Nat} {b : BagRecord} {e : CacheEntry} {s : State} (h : LooksUp slot b s)
    (hc : cacheHit b.plate s = some (i, e)) : ∃ sets,
    lookup (.bag slot) s =
      copyPart (.bag slot) e.part { s with cache := { s.cache with sets := sets, hits := s.cache.hits + 1 } } := by
  rw [lookup, h.view]
  simp only
  rw [if_pos ⟨h.plate, h.part, h.status, h.acts⟩, hc]
  have given (c : RouteCache) : Undecided slot (copyPart (.bag slot) e.part { s with cache := c }) :=
    ⟨_, findBag_updateBag_self (s := { s with cache := c }) h.found, h.undecided⟩
  exact ⟨_, redecideServed_undecided (given _)⟩

/-- R61: a miss is counted and the record is handed to the Query Table. -/
theorem lookup_misses {slot : Nat} {b : BagRecord} {s : State} (h : LooksUp slot b s) (hc : cacheHit b.plate s = none) :
    lookup (.bag slot) s = queryMiss (.bag slot) b.plate { s with cache := { s.cache with misses := s.cache.misses + 1 } } := by
  rw [lookup, h.view]
  simp only
  rw [if_pos ⟨h.plate, h.part, h.status, h.acts⟩, hc]

/-- R61: the entry for the plate has room for a waiter. -/
theorem queryMiss_joins {plate : Nat} {l : Live} {q : QueryEntry} {s : State} (hq : queryFor plate s = some q)
    (hw : q.waiters.length < 4) : queryMiss l plate s =
      setStatus l .awaitingAnswer (updateQuery plate (fun x => { x with waiters := x.waiters ++ [l] }) s) := by
  rw [queryMiss, hq]
  exact if_pos hw

/-- R61, R64: no place for the record to wait in. -/
theorem queryMiss_fails {plate : Nat} {l : Live} {s : State} (h : (∃ q, queryFor plate s = some q ∧ 4 ≤ q.waiters.length) ∨
    (queryFor plate s = none ∧ (s.loader.node = .duplicate ∨ 8 ≤ s.queries.length))) :
    queryMiss l plate s = failLive l s := by
  rcases h with ⟨q, hq, hw⟩ | ⟨hq, hn⟩
  · rw [queryMiss, hq]
    exact if_neg (by simpa [Config.queryWaiters] using hw)
  · rw [queryMiss, hq]
    simp only
    split_ifs with duplicate few
    · rfl
    · exact absurd few (by simpa [Config.queryEntries] using hn.resolve_left duplicate)
    · rfl

/-- R61, R64: an entry of the record's own, with its QUERY frame. -/
theorem queryMiss_opens {plate : Nat} {l : Live} {s : State} (hq : queryFor plate s = none) (hn : s.loader.node ≠ .duplicate)
    (hf : s.queries.length < 8) : queryMiss l plate s =
      sendQuery plate (setStatus l .awaitingAnswer { s with queries := s.queries ++ [⟨plate, 1, s.time + 200, [l]⟩] }) := by
  rw [queryMiss, hq]
  simp only
  rw [if_neg hn, if_pos (by exact hf)]
  rfl

/-! ## A record that has read its only plate -/

section
variable {slot p : Nat} {b : BagRecord} {s : State}

/-- R44, R50, step 4 of R49: the part with a record that has gained its plate and been told of, before the lookup. -/
def readTaken (slot p : Nat) (s : State) : State := tellRead slot (.one p) (gained slot p (answered s))

theorem watchCheck_fits (p : Nat) (pl : Place) (o : Option Outlet) (s : State) : Fits 1 s (watchCheck p pl o s) := by
  unfold watchCheck
  split
  · exact Fits.mono (.refl s) (Nat.zero_le 1)
  · exact .ite ((broadcast_fits _ s).trans (.beside (by rfl) (by rfl))) (Fits.mono (.refl s) (Nat.zero_le 1))

theorem readTaken_room (h : Room 6 s) : Room 5 (readTaken slot p s) :=
  (watchCheck_fits p .belt _ (gained slot p (answered s)) 5 h).2

theorem readTaken_owed : (readTaken slot p s).owed = s.owed := tellRead_owed slot (.one p) (gained slot p (answered s))

/-- R49, R50: the record as its only plate has been read. -/
def BagRecord.gains (p : Nat) (b : BagRecord) : BagRecord := { b with held := some (.one p), plate := p, identity := .read }

theorem readTaken_looksUp (hb : findBag s slot = some b) (hd : isDecided b = false) (h0 : b.plate = 0) (hp : p ≠ 0)
    (hpart : b.part = none) (hs : b.status = .pending) (ha : acting s = true) :
    LooksUp slot (b.gains p) (readTaken slot p s) := by
  have sends := tellRead_sends slot (.one p) (gained slot p (answered s))
  have found : findBag (gained slot p (answered s)) slot = some (b.gains p) :=
    (findBag_gained hb).trans (congrArg some (timelyRecord_gains h0))
  refine ⟨?_, hd, hp, hpart, hs, ?_⟩
  · rw [findBag, readTaken, sends.tracker]
    exact found
  · rw [acting, readTaken, sends.loader]
    exact ha

/-- R44, R49: the whole of the command but for the lookup and the end of the request. -/
theorem exec_readReply_gains {number : Byte} {plates : List Nat} (h : Ready s) (ha : linkActs s = true) (hl : plates.length ≤ 4)
    (hr : readResult plates = .one p) (ho : ReadOutstanding number (some slot) s) (hb : findBag s slot = some b)
    (hd : isDecided b = false) (h0 : b.plate = 0) (hn : NoneHolds p s) : exec (.readReply true number plates) s =
      .next (settle (onReader endRequest (lookup (.bag slot) (readTaken slot p s)))) := by
  have taken : resolveTimely slot (.one p) (heldIn slot (.one p) (answered s)) = gained slot p (answered s) :=
    (resolveTimely_gains (findBag_heldIn (.one p) (s := answered s) hb) h0 (readResult_one hr)).trans
      (gained_alone (s := answered s) hb h0 hn)
  rw [exec_readReply h ha hl ho, hr, readTaken, ← taken, ← deliver_undecided (s := answered s) hb hd]
  rfl

end

/-! ## What the lookup makes of the record -/

/-- The record in a slot once looked up, with the queries and the cache; no report is owed. -/
structure LookedUp (slot : Nat) (b : BagRecord) (queries : List QueryEntry) (cache : RouteCache) (s t : State) : Prop where
  found : findBag t slot = some b
  queries : t.queries = queries
  cache : t.cache = cache
  handoff : t.handoff = s.handoff
  owed : t.owed = s.owed

section
variable {slot : Nat} {b : BagRecord} {s t : State} {queries : List QueryEntry} {cache : RouteCache}

theorem setStatus_looked (st : RouteStatus) (qs : List QueryEntry) (hb : findBag s slot = some b) :
    LookedUp slot { b with status := st } qs s.cache s (setStatus (.bag slot) st { s with queries := qs }) :=
  ⟨findBag_updateBag_self (s := { s with queries := qs }) hb, rfl, rfl, rfl, rfl⟩

/-- R61, R67: a record that finds no place becomes UNRESOLVED. -/
theorem failLive_looked (hb : findBag s slot = some b) :
    LookedUp slot { b with status := .unresolved } s.queries s.cache s (failLive (.bag slot) s) := by
  obtain ⟨bus, owed, one, two, counts⟩ := countEvent_counts .queryFailures (setStatus (.bag slot) .unresolved s)
  have same := countEvent_owed .queryFailures (setStatus (.bag slot) .unresolved s)
  rw [failLive]
  rw [counts] at same ⊢
  exact ⟨findBag_updateBag_self hb, rfl, rfl, rfl, same⟩

theorem sendQuery_looked (plate : Nat) (hn : t.loader.node ≠ .duplicate) (hroom : Room 1 t)
    (h : LookedUp slot b queries cache s t) : LookedUp slot b queries cache s (sendQuery plate t) := by
  rw [sendQuery_accepted hn hroom]
  exact ⟨h.found, h.queries, h.cache, h.handoff, h.owed⟩

/-- R60: a hit. -/
theorem lookup_hit_looked {i : Nat} {e : CacheEntry} (h : LooksUp slot b s) (hc : cacheHit b.plate s = some (i, e)) :
    ∃ sets, LookedUp slot (b.given e.part) s.queries { s.cache with sets := sets, hits := s.cache.hits + 1 } s
      (lookup (.bag slot) s) := by
  obtain ⟨sets, hits⟩ := lookup_hits h hc
  exact ⟨sets, hits ▸ ⟨findBag_updateBag_self (s := { s with cache := _ }) h.found, rfl, rfl, rfl, rfl⟩⟩

/-- A miss counted. -/
def missed (s : State) : State := { s with cache := { s.cache with misses := s.cache.misses + 1 } }

/-- R61: a miss, by the place the Query Table has. -/
theorem lookup_miss_looked (h : LooksUp slot b s) (hc : cacheHit b.plate s = none) (hroom : Room 1 s) :
    (∀ q, queryFor b.plate s = some q →
      (q.waiters.length < 4 → LookedUp slot { b with status := .awaitingAnswer } (s.queries.map (fun x =>
        if x.plate = b.plate then { x with waiters := x.waiters ++ [.bag slot] } else x)) (missed s).cache s
          (lookup (.bag slot) s)) ∧
      (4 ≤ q.waiters.length → LookedUp slot { b with status := .unresolved } s.queries (missed s).cache s
        (lookup (.bag slot) s))) ∧
    (queryFor b.plate s = none →
      (s.loader.node ≠ .duplicate → s.queries.length < 8 → LookedUp slot { b with status := .awaitingAnswer }
        (s.queries ++ [⟨b.plate, 1, s.time + 200, [.bag slot]⟩]) (missed s).cache s (lookup (.bag slot) s) ∧
        Waits 126 (.query (BitVec.ofNat 40 b.plate)) (lookup (.bag slot) s)) ∧
      (s.loader.node = .duplicate ∨ 8 ≤ s.queries.length → LookedUp slot { b with status := .unresolved } s.queries
        (missed s).cache s (lookup (.bag slot) s))) := by
  have found : findBag (missed s) slot = some b := h.found
  have fails (hf : (∃ q, queryFor b.plate (missed s) = some q ∧ 4 ≤ q.waiters.length) ∨ (queryFor b.plate (missed s) = none ∧
      ((missed s).loader.node = .duplicate ∨ 8 ≤ (missed s).queries.length))) :
      LookedUp slot { b with status := .unresolved } s.queries (missed s).cache s (queryMiss (.bag slot) b.plate (missed s)) := by
    rw [queryMiss_fails hf]
    have looked := failLive_looked found
    exact ⟨looked.found, looked.queries, looked.cache, looked.handoff, looked.owed⟩
  rw [show lookup (.bag slot) s = queryMiss (.bag slot) b.plate (missed s) from lookup_misses h hc]
  refine ⟨fun q hq => ⟨fun hw => ?_, fun hw => fails (.inl ⟨q, hq, hw⟩)⟩,
    fun hq => ⟨fun hn hf => ?_, fun hn => fails (.inr ⟨hq, hn⟩)⟩⟩
  · rw [queryMiss_joins (s := missed s) hq hw]
    have looked := setStatus_looked .awaitingAnswer ((missed s).queries.map (fun x =>
      if x.plate = b.plate then { x with waiters := x.waiters ++ [.bag slot] } else x)) found
    exact ⟨looked.found, looked.queries, looked.cache, looked.handoff, looked.owed⟩
  · rw [queryMiss_opens (s := missed s) hq hn hf]
    have looked := setStatus_looked .awaitingAnswer ((missed s).queries ++ [⟨b.plate, 1, s.time + 200, [.bag slot]⟩]) found
    have sent := sendQuery_looked b.plate (by exact hn) (by exact hroom) looked
    exact ⟨⟨sent.found, sent.queries, sent.cache, sent.handoff, sent.owed⟩,
      offerFrame_waits (by exact hn) (query_replaces _ _) (by exact hroom)⟩

/-- R61: after a miss the record has its status new and nothing else. -/
theorem lookup_missed (h : LooksUp slot b s) (hc : cacheHit b.plate s = none) (hroom : Room 1 s) : ∃ status queries,
    LookedUp slot { b with status := status } queries (missed s).cache s (lookup (.bag slot) s) := by
  obtain ⟨held, free⟩ := lookup_miss_looked h hc hroom
  rcases hq : queryFor b.plate s with _ | q
  · by_cases hf : s.loader.node = .duplicate ∨ 8 ≤ s.queries.length
    · exact ⟨_, _, (free hq).2 hf⟩
    · obtain ⟨hn, few⟩ := not_or.mp hf
      exact ⟨_, _, ((free hq).1 hn (not_le.mp few)).1⟩
  · by_cases hw : q.waiters.length < 4
    · exact ⟨_, _, (held q hq).1 hw⟩
    · exact ⟨_, _, (held q hq).2 (not_lt.mp hw)⟩

/-- R60, R61: whatever the lookup finds, the record keeps its plate and its flags. -/
theorem lookup_looked (h : LooksUp slot b s) (hroom : Room 1 s) : ∃ b' queries cache,
    LookedUp slot b' queries cache s (lookup (.bag slot) s) ∧ b'.plate = b.plate ∧ b'.flags = b.flags := by
  rcases hc : cacheHit b.plate s with _ | ⟨i, e⟩
  · obtain ⟨status, queries, looked⟩ := lookup_missed h hc hroom
    exact ⟨_, _, _, looked, rfl, rfl⟩
  · obtain ⟨sets, looked⟩ := lookup_hit_looked h hc
    exact ⟨_, _, _, looked, rfl, rfl⟩

end

/-! ## O35 -/

/-- R60, R61, R64: a record that reads the only plate of its kind is looked up. -/
theorem exec_readReply_looks {number : Byte} {plates : List Nat} {slot p : Nat} {b : BagRecord} {s : State} (h : Ready s)
    (ha : linkActs s = true) (hl : plates.length ≤ 4) (hr : readResult plates = .one p)
    (ho : ReadOutstanding number (some slot) s) (hb : findBag s slot = some b) (hd : isDecided b = false) (h0 : b.plate = 0)
    (hpart : b.part = none) (hs : b.status = .pending) (hn : NoneHolds p s) (hroom : Room 6 s) :
    ∃ u, LooksUp slot (b.gains p) u ∧ Room 5 u ∧ u.cache = s.cache ∧ u.queries = s.queries ∧ u.loader = s.loader ∧
      u.time = s.time ∧ u.handoff = s.handoff ∧ u.owed = [] ∧ segmentSlots u = segmentSlots s ∧
      exec (.readReply true number plates) s = .next (settle (onReader endRequest (lookup (.bag slot) u))) := by
  have acts : acting s = true := (Bool.and_eq_true_iff.mp ha).1
  obtain ⟨⟨bus, owed, exc, value, refresh, told⟩, -⟩ := tellRead_sends slot (.one p) (gained slot p (answered s))
  refine ⟨readTaken slot p s, readTaken_looksUp hb hd h0 (readResult_one hr) hpart hs acts, readTaken_room hroom, ?_, ?_, ?_, ?_,
    ?_, readTaken_owed.trans h.2.1, ?_, exec_readReply_gains h ha hl hr ho hb hd h0 hn⟩
  all_goals rw [readTaken, told]
  case refine_6 => exact segmentSlots_gained (s := answered s)
  all_goals rfl

/-- Settles O35: a deadline makes the attempt again or fails the entry; a record that has read its only plate is looked up in the
state `exec_readReply_looks` names, and each outcome of that lookup has its equation. -/
theorem queryDeadlinePasses : Obligations.QueryDeadlinePasses := by
  refine ⟨fun plate q s h hq => ⟨exec_queryDeadline_again h hq, fun hf _ => exec_queryDeadline_fails h hq hf⟩,
    fun number plates slot p b s h ha hl hr ho hb hd h0 hpart hs hn hroom => ?_⟩
  obtain ⟨u, looks, room, cache, queries, loader, time, handoff, owed, slots, ht⟩ :=
    exec_readReply_looks h ha hl hr ho hb hd h0 hpart hs hn hroom
  have room : Room 1 u := le_trans (by omega) room
  have level := lookup_level (.bag slot) u
  obtain ⟨b', _, _, looked, plate, flags⟩ := lookup_looked looks room
  have ends : settle (onReader endRequest (lookup (.bag slot) u)) = drivePins (onReader endRequest (lookup (.bag slot) u)) :=
    settle_of_none (by exact looked.owed.trans owed)
  rw [ends] at ht
  have sets : getSet u (p % 64) = getSet s (p % 64) := by rw [getSet, getSet, cache]
  have same {c : BagRecord} {qs : List QueryEntry} {rc : RouteCache} (k : LookedUp slot c qs rc u (lookup (.bag slot) u)) :
      b' = c := Option.some.inj (looked.found.symm.trans k.found)
  refine ⟨_, b', ht, looked.found, plate, flags, level.slots.trans slots, looked.handoff.trans handoff,
    fun rank part hold => ?_, fun hold => ?_⟩
  · obtain ⟨i, hit⟩ := cacheHit_of_filter (plate := p) (e := ⟨p, part, s.cache.epoch⟩) (sets ▸ hold) (by rw [cache])
    obtain ⟨ways, k⟩ := lookup_hit_looked looks hit
    obtain rfl := same k
    exact ⟨rfl, rfl, k.queries.trans queries, (congrArg RouteCache.hits k.cache).trans (congrArg (·.hits + 1) cache),
      (congrArg RouteCache.misses k.cache).trans (congrArg (RouteCache.misses ·) cache :)⟩
  · have miss : cacheHit p u = none := by
      refine cacheHit_none fun w hw e he hp => ?_
      have held : w ∈ (getSet s (p % 64)).filter (wayHolds p) :=
        List.mem_filter.mpr ⟨sets ▸ hw, by simp [wayHolds, he, hp]⟩
      rcases hold with hold | ⟨rank, part, epoch, hold, other⟩ <;> rw [hold] at held
      · simp at held
      · obtain rfl := List.mem_singleton.mp held
        cases he
        rwa [cache]
    have counted : (missed u).cache = { s.cache with misses := s.cache.misses + 1 } := by rw [← cache]; rfl
    obtain ⟨held, free⟩ := lookup_miss_looked looks miss room
    have forPlate : queryFor p u = queryFor p s := by rw [queryFor, queryFor, queries]
    obtain ⟨status, _, k⟩ := lookup_missed looks miss room
    rw [show (b.gains p).plate = p from rfl, forPlate, queries] at held free
    rw [loader, time] at free
    have unplaced {c : BagRecord} {qs : List QueryEntry} (k : LookedUp slot c qs (missed u).cache u (lookup (.bag slot) u)) :
        b'.status = c.status ∧ (lookup (.bag slot) u).queries = qs := ⟨congrArg BagRecord.status (same k), k.queries⟩
    refine ⟨k.cache.trans counted, (congrArg BagRecord.part (same k)).trans hpart, fun q hq =>
      ⟨fun hw => unplaced ((held q hq).1 hw), fun hw => unplaced ((held q hq).2 hw)⟩,
      fun hq => ⟨fun hn hf => ?_, fun hf => unplaced ((free hq).2 hf)⟩⟩
    obtain ⟨k, waits⟩ := (free hq).1 hn hf
    obtain ⟨status, made⟩ := unplaced k
    exact ⟨status, made, waits⟩

end Sys2Proof.Machine
end

section
/-! PROOFS. What the gates (R145 to R150) and the Divert Scheduler (R97 to R111) leave of the state when a record is scheduled or
decided afresh. -/

namespace Sys2Proof.Machine

/-! ## What the scheduling of a record leaves -/

/-- What the gates and the Divert Scheduler leave: what `Outlook` shows, the Query Table, the cache and the reports owed. -/
structure Remains extends Outlook where
  queries : List QueryEntry
  cache : RouteCache
  owed : List Report

def remains (s : State) : Remains := ⟨outlook s, s.queries, s.cache, s.owed⟩

/-- What the gates leave: the windows, every registration but stop positions, and every record but for its gate-passed outlet. -/
structure OffGates where
  remains : Remains
  divert : Divert
  serial : Serial
  register : List Registration
  segment : List BagRecord

/-- A record as the gates see it: without the outlet whose gate has passed it. -/
def BagRecord.ungated (b : BagRecord) : BagRecord := { b with gatePassed := none }

def notStop (r : Registration) : Bool :=
  match r.item with
  | .stopPosition _ => false
  | _ => true

def offGates (s : State) : OffGates :=
  ⟨remains s, s.divert, s.serial, s.belt.register.filter notStop, s.tracker.segment.map BagRecord.ungated⟩

section
variable {α : Type} {view : State → α}

/-- A fold of operations that a view does not show. -/
theorem view_foldl {β : Type} {f : State → β → State} (h : ∀ a x, view (f a x) = view a) (l : List β) (s : State) :
    view (l.foldl f s) = view s := by
  induction l generalizing s with
  | nil => rfl
  | cons x l ih => rw [List.foldl_cons, ih, h]

end

/-! ## The gates (R145 to R150) -/

theorem offGates_countEvent (e : CounterEvent) (s : State) : offGates (countEvent e s) = offGates s := by
  obtain ⟨_, owed, _, _, h⟩ := countEvent_counts e s
  have same := countEvent_owed e s
  rw [h] at same ⊢
  obtain rfl : owed = s.owed := same
  rfl

theorem offGates_withdraw (o : Outlet) (s : State) : offGates (withdraw (.stopPosition o) s) = offGates s := by
  have kept : (s.belt.register.filter (fun r => decide (r.item ≠ .stopPosition o))).filter notStop =
      s.belt.register.filter notStop := by
    rw [List.filter_filter]
    refine List.filter_congr fun r _ => ?_
    by_cases h : r.item = .stopPosition o
    · simp [notStop, h]
    · simp [h]
  exact congrArg (fun l => (⟨remains s, s.divert, s.serial, l, s.tracker.segment.map BagRecord.ungated⟩ : OffGates)) kept

theorem offGates_holdPosition (o : Outlet) (p : Pos) (s : State) : offGates (holdPosition (.stopPosition o) p s) = offGates s := by
  have kept : (s.belt.register ++ [(⟨.stopPosition o, p⟩ : Registration)]).filter notStop = s.belt.register.filter notStop := by
    simp [List.filter_append, notStop]
  exact congrArg (fun l => (⟨remains s, s.divert, s.serial, l, s.tracker.segment.map BagRecord.ungated⟩ : OffGates)) kept

theorem offGates_putReason (x : StopReason) (b : Bool) (s : State) : offGates (putReason x b s) = offGates s := rfl

theorem offGates_putGate (o : Outlet) (g : Option Gate) (s : State) : offGates (putGate o g s) = offGates s := rfl

theorem offGates_syncStops (s : State) : offGates (syncStops s) = offGates s := by
  simp only [syncStops, apply_ite offGates, offGates_putReason, ite_self]

theorem offGates_passOverrun (o : Outlet) (slot : Nat) (s : State) : offGates (passOverrun o slot s) = offGates s := by
  have passed : (s.tracker.segment.map (fun b => if b.slot = slot then { b with gatePassed := some o } else b)).map
      BagRecord.ungated = s.tracker.segment.map BagRecord.ungated := by
    rw [List.map_map]
    refine List.map_congr_left fun b _ => ?_
    simp only [Function.comp_apply]
    split <;> rfl
  exact (offGates_countEvent _ _).trans
    (congrArg (fun l => (⟨remains s, s.divert, s.serial, s.belt.register.filter notStop, l⟩ : OffGates)) passed)

theorem offGates_takeUp (o : Outlet) (g : Gate) (l : List BagRecord) (s : State) : offGates (takeUp o g l s) = offGates s := by
  induction l generalizing s with
  | nil => exact offGates_withdraw o s
  | cons b rest ih =>
    unfold takeUp
    split
    · split
      · exact ih s
      · simp only [apply_ite offGates, ih, offGates_passOverrun, offGates_putGate, offGates_holdPosition, offGates_withdraw,
          ite_self]
    · exact ih s

theorem offGates_determineStop (o : Outlet) (s : State) : offGates (determineStop o s) = offGates s := by
  unfold determineStop; split
  · rfl
  · rw [offGates_syncStops, offGates_takeUp]

theorem offGates_latchGate (o : Outlet) (s : State) : offGates (latchGate o s) = offGates s := by
  unfold latchGate; split
  · rfl
  · simp only [apply_ite offGates, offGates_syncStops, offGates_putGate, ite_self]

theorem offGates_recomputeStop (o : Outlet) (s : State) : offGates (recomputeStop o s) = offGates s := by
  unfold recomputeStop
  repeat' split
  any_goals rfl
  simp only [offerPosition, apply_ite offGates, offGates_latchGate, offGates_holdPosition, offGates_withdraw, offGates_putGate,
    ite_self]

theorem offGates_fireMoved (k : Diverter) (w : Nat) (s : State) : offGates (fireMoved k w s) = offGates s := by
  unfold fireMoved
  simp only
  repeat' split
  any_goals rfl
  exact offGates_recomputeStop _ s

theorem offGates_stoppersGone (l : List Nat) (o : Outlet) (s : State) : offGates (stoppersGone l o s) = offGates s := by
  unfold stoppersGone; split
  · rfl
  · simp only [apply_ite offGates, offGates_determineStop, ite_self]

/-- R146: what is handed to the gates with its chosen outlet changes at most gates and the outlets whose gates have passed. -/
theorem offGates_handChosen (slot : Nat) (s : State) : offGates (handChosen slot s) = offGates s := by
  unfold handChosen
  split
  · rfl
  · rename_i b _
    have gone : offGates (allOutlets.foldl (fun acc o => if b.chosen = some o then acc else stoppersGone [slot] o acc) s) =
        offGates s := view_foldl (fun a o => by simp only [apply_ite offGates, offGates_stoppersGone, ite_self]) _ _
    simp only
    split
    · exact gone
    · rw [offGates_determineStop, gone]

theorem remains_of_offGates {s t : State} (h : offGates t = offGates s) : remains t = remains s := congrArg OffGates.remains h

/-! ## The windows (R97 to R111) -/

theorem remains_offerPosition (i : Item) (p : Pos) {report : State → State} (s : State)
    (h : ∀ t, remains (report t) = remains t) : remains (offerPosition i p report s) = remains s := by
  unfold offerPosition; split
  · exact h _
  · rfl

theorem remains_dropWindow (k : Diverter) (n : Nat) (s : State) : remains (dropWindow k n s) = remains s := by
  unfold dropWindow
  simp only [apply_ite remains]
  exact (if_congr Iff.rfl rfl (ite_self _)).trans (ite_self _)

theorem remains_bagFires (k : Diverter) (slot : Nat) (s : State) : remains (bagFires k slot s) = remains s := by
  have passes (t : State) : remains (passReached k slot t) = remains t := by unfold passReached; split <;> rfl
  unfold bagFires; split
  · exact remains_offerPosition _ _ _ passes
  · rfl

theorem remains_fireWindow (k : Diverter) (n : Nat) (s : State) : remains (fireWindow k n s) = remains s := by
  unfold fireWindow; split
  · rfl
  · split
    · rfl
    · exact (remains_of_offGates (offGates_stoppersGone _ _ _)).trans (view_foldl (fun a slot => remains_bagFires k slot a) _ _)

theorem remains_setFire (k : Diverter) (n : Nat) (s : State) : remains (setFire k n s) = remains s := by
  unfold setFire; split
  · split
    · exact (remains_of_offGates (offGates_fireMoved _ _ _)).trans (remains_offerPosition _ _ _ (remains_fireWindow k n))
    · rfl
  · rfl

theorem remains_setRelease (k : Diverter) (n : Nat) (s : State) : remains (setRelease k n s) = remains s := by
  unfold setRelease; split
  · simp only
    split
    · rfl
    · exact remains_offerPosition _ _ _ (remains_dropWindow k n)
  · rfl

theorem remains_withdrawBag (k : Diverter) (slot : Nat) (s : State) : remains (withdrawBag k slot s) = remains s := by
  unfold withdrawBag; split
  · rfl
  · rename_i w _
    have fewer (bags : List WindowBag) : remains (updateWindow k w.number (fun y => { y with bags := bags }) s) = remains s := rfl
    simp only [apply_ite remains, remains_dropWindow, remains_setRelease, remains_setFire, fewer, ite_self]

theorem remains_withdrawEverywhere (slot : Nat) (s : State) : remains (withdrawEverywhere slot s) = remains s :=
  view_foldl (fun a k => remains_withdrawBag k slot a) _ _

theorem remains_markRisk (slot : Nat) (s : State) : remains (markRisk slot s) = remains s := by
  unfold markRisk; split
  · rfl
  · split <;> rfl

theorem remains_countThrough (c : ThroughCause) (slot : Nat) (s : State) : remains (countThrough c slot s) = remains s := by
  unfold countThrough
  split
  · exact (remains_of_offGates (offGates_countEvent _ _)).trans rfl
  · exact (remains_of_offGates (offGates_countEvent _ _)).trans rfl
  · simp only [apply_ite remains, remains_of_offGates (offGates_countEvent _ _)]
    exact ite_self _

theorem remains_riskCheck (slot : Nat) (e : Pos) (j : Diverter) (s : State) : remains (riskCheck slot e j s) = remains s := by
  unfold riskCheck; split
  · simp only [apply_ite remains, remains_markRisk, ite_self]
  · rfl

theorem remains_sendThrough (c : ThroughCause) (busy slot : Nat) (s : State) : remains (sendThrough c busy slot s) = remains s := by
  unfold sendThrough; split
  · rfl
  · rename_i b _
    have checked (t : State) : remains (allDiverters.foldl (fun acc j =>
        if passes acc b.entry .o0 j && !passesFor acc b.entry b.chosen j then riskCheck slot b.entry j acc else acc) t) = remains t :=
      view_foldl (fun a j => by simp only [apply_ite remains, remains_riskCheck, ite_self]) _ _
    simp only [apply_ite remains, remains_of_offGates (offGates_handChosen _ _), checked, remains_countThrough, ite_self]
    rfl

theorem remains_closingCheck (fuel slot : Nat) (e : Pos) (j : Diverter) (s : State) :
    remains (closingCheck fuel slot e j s) = remains s := by
  induction fuel generalizing s with
  | zero => rfl
  | succ fuel ih =>
    unfold closingCheck
    split
    · simp only [apply_ite remains, remains_markRisk, ih, remains_sendThrough, remains_withdrawBag, ite_self]
    · rfl

theorem remains_closingChecks (slot : Nat) (e : Pos) (o : Outlet) (s : State) : remains (closingChecks slot e o s) = remains s :=
  view_foldl (fun a j => by simp only [apply_ite remains, remains_closingCheck, ite_self]) _ _

theorem remains_joinWindow (k : Diverter) (w : Window) (b : BagRecord) (s : State) : remains (joinWindow k w b s) = remains s := by
  unfold joinWindow
  simp only [apply_ite remains, remains_bagFires, remains_setRelease, ite_self]
  rfl

theorem remains_openWindow (k : Diverter) (b : BagRecord) (s : State) : remains (openWindow k b s) = remains s := by
  unfold openWindow
  simp only [remains_setRelease, remains_setFire]
  rfl

theorem remains_newWindow (k : Diverter) (x : DiverterConfig) (b : BagRecord) (s : State) :
    remains (newWindow k x b s) = remains s := by
  unfold newWindow
  simp only [apply_ite remains, remains_sendThrough, remains_openWindow, ite_self]

theorem remains_placeBag (k : Diverter) (b : BagRecord) (s : State) : remains (placeBag k b s) = remains s := by
  unfold placeBag; split
  · rfl
  · simp only
    split
    · simp only [apply_ite remains, remains_joinWindow, remains_sendThrough, remains_newWindow, ite_self]
    · exact remains_newWindow _ _ _ _

theorem remains_behindCheck (slot : Nat) (e : Pos) (len : Option Nat) (j : Diverter) (s : State) :
    remains (behindCheck slot e len j s) = remains s := by
  unfold behindCheck; split
  · simp only [apply_ite remains, remains_markRisk, remains_sendThrough, remains_withdrawBag, ite_self]
  · rfl

/-- R109: a record moved changes nothing of what remains. -/
theorem remains_reschedule (slot : Nat) (old : Option Outlet) (m : Outlet) (s : State) :
    remains (reschedule slot old m s) = remains s := by
  unfold reschedule; split
  · rfl
  · rename_i b _
    have behind (t : State) : remains (allDiverters.foldl (fun acc j => if passes acc b.entry m j && !passesFor acc b.entry old j
        then behindCheck slot b.entry b.length j acc else acc) t) = remains t :=
      view_foldl (fun a j => by simp only [apply_ite remains, remains_behindCheck, ite_self]) _ _
    have checked := (behind _).trans ((remains_closingChecks slot b.entry m _).trans (remains_withdrawEverywhere slot s))
    simp only
    split
    · rfl
    · split
      · exact checked
      · split
        · exact checked
        · simp only [apply_ite remains, remains_sendThrough, remains_placeBag, ite_self]
          exact checked

end Sys2Proof.Machine
end

section
/-! PROOFS. What the Divert Scheduler makes of a record decided afresh (R92, R93, R109), where every bag in a window is that of a
record ahead of it and no window has fired: no window fires, and every record keeps what the scheduling does not own. -/

namespace Sys2Proof.Machine

/-! ## The queue and the windows as the scheduling sees them -/

/-- The queue without chosen outlets and the marks of the Divert Scheduler and of the gates. -/
def plan (s : State) : List BagRecord := s.tracker.segment.map BagRecord.unscheduled

/-- Every bag of a diverter's windows, with its window's fired flag. -/
def slated (s : State) (k : Diverter) : List (WindowBag × Bool) := windowBags (windowsOf s k)

theorem mem_slated {s : State} {k : Diverter} {y : WindowBag × Bool} :
    y ∈ slated s k ↔ ∃ w ∈ windowList (windowsOf s k), y.1 ∈ w.bags ∧ w.fired = y.2 := by
  obtain ⟨z, f⟩ := y
  simp [slated, windowBags]

/-- An operation that leaves every record as `plan` sees it and puts no bag into a window. -/
structure Recedes (s t : State) : Prop where
  plan : plan t = plan s
  law : WindowLaw s → WindowLaw t
  slated : ∀ k, (slated t k).Sublist (slated s k)

/-- The same but for one bag, that of the record `b`, which may join an unfired window as its last bag. -/
structure Books (b : BagRecord) (s t : State) : Prop where
  plan : Machine.plan t = Machine.plan s
  law : WindowLaw s → WindowLaw t
  slated : ∀ k, ∃ l : List (WindowBag × Bool), (Machine.slated t k).Sublist (Machine.slated s k ++ l) ∧
    (l = [] ∨ ∃ z, l = [(z, false)] ∧ z.slot = b.slot ∧ z.entry = b.entry)

namespace Recedes

variable {s t u : State} {b : BagRecord}

theorem refl (s : State) : Recedes s s := ⟨rfl, id, fun _ => .refl _⟩

theorem trans (h : Recedes s t) (k : Recedes t u) : Recedes s u :=
  ⟨k.plan.trans h.plan, k.law ∘ h.law, fun j => (k.slated j).trans (h.slated j)⟩

theorem ite {p : Prop} [Decidable p] (ht : Recedes s t) (hu : Recedes s u) : Recedes s (if p then t else u) := by
  split
  · exact ht
  · exact hu

theorem foldl {α : Type} {f : State → α → State} (h : ∀ a x, Recedes a (f a x)) (l : List α) (s : State) :
    Recedes s (l.foldl f s) := by
  induction l generalizing s with
  | nil => exact .refl s
  | cons x l ih => exact (h s x).trans (ih _)

theorem books (h : Recedes s t) : Books b s t := ⟨h.plan, h.law, fun k => ⟨[], by simpa using h.slated k, .inl rfl⟩⟩

theorem thenBooks (h : Recedes s t) (k : Books b t u) : Books b s u :=
  ⟨k.plan.trans h.plan, k.law ∘ h.law, fun j => by
    obtain ⟨l, hl, hb⟩ := k.slated j
    exact ⟨l, hl.trans ((h.slated j).append_right l), hb⟩⟩

/-- A change beside the queue as the scheduling sees it and the windows. -/
theorem beside (hp : Machine.plan t = Machine.plan s) (h : (t.divert.windows, t.serial) = (s.divert.windows, s.serial)) :
    Recedes s t := by
  obtain ⟨hd, hn⟩ := Prod.mk.inj h
  exact ⟨hp, fun law k => by rw [hn, windowsOf, hd]; exact law k, fun k => by
    rw [Machine.slated, Machine.slated, windowsOf, windowsOf, hd]⟩

theorem after (h : Recedes t u) (hp : Machine.plan t = Machine.plan s)
    (hw : (t.divert.windows, t.serial) = (s.divert.windows, s.serial)) : Recedes s u := (beside hp hw).trans h

end Recedes

theorem Books.recedes {b : BagRecord} {s t u : State} (h : Books b s t) (k : Recedes t u) : Books b s u :=
  ⟨k.plan.trans h.plan, k.law ∘ h.law, fun j => by
    obtain ⟨l, hl, hb⟩ := h.slated j
    exact ⟨l, (k.slated j).trans hl, hb⟩⟩

/-- The windows of a queue in which records have been decided afresh, those of `pre`: none has fired, each bag is that of a record
of `pre`, and none stands in two windows of a diverter. -/
structure Booked (pre : List BagRecord) (s : State) : Prop where
  law : WindowLaw s
  unfired : ∀ k, ∀ y ∈ slated s k, y.2 = false
  booked : ∀ k, ∀ y ∈ slated s k, ∃ r ∈ pre, r.slot = y.1.slot ∧ r.entry = y.1.entry
  distinct : ∀ k, ((slated s k).map (fun y => y.1.slot)).Nodup

theorem Booked.recedes {pre : List BagRecord} {s t : State} (h : Booked pre s) (k : Recedes s t) : Booked pre t :=
  ⟨k.law h.law, fun j y hy => h.unfired j y ((k.slated j).subset hy), fun j y hy => h.booked j y ((k.slated j).subset hy),
    fun j => (h.distinct j).sublist ((k.slated j).map _)⟩

theorem Booked.books {pre : List BagRecord} {b : BagRecord} {s t : State} (h : Booked pre s) (k : Books b s t)
    (hb : ∀ r ∈ pre, r.slot ≠ b.slot) : Booked (b :: pre) t := by
  have mem (j : Diverter) (y : WindowBag × Bool) (hy : y ∈ slated t j) :
      y ∈ slated s j ∨ (y.2 = false ∧ y.1.slot = b.slot ∧ y.1.entry = b.entry) := by
    obtain ⟨l, hl, rfl | ⟨z, rfl, hz⟩⟩ := k.slated j
    · exact .inl (by simpa using hl.subset hy)
    · rcases List.mem_append.mp (hl.subset hy) with hs | hs
      · exact .inl hs
      · obtain rfl := List.mem_singleton.mp hs
        exact .inr ⟨rfl, hz⟩
  refine ⟨k.law h.law, fun j y hy => ?_, fun j y hy => ?_, fun j => ?_⟩
  · exact (mem j y hy).elim (h.unfired j y) (·.1)
  · rcases mem j y hy with hs | ⟨-, slot, entry⟩
    · obtain ⟨r, hr, same⟩ := h.booked j y hs
      exact ⟨r, List.mem_cons_of_mem _ hr, same⟩
    · exact ⟨b, List.mem_cons_self, slot.symm, entry.symm⟩
  · obtain ⟨l, hl, rfl | ⟨z, rfl, slot, -⟩⟩ := k.slated j
    · exact (h.distinct j).sublist (by simpa using hl.map (fun y => y.1.slot))
    · refine List.Nodup.sublist (hl.map (fun y => y.1.slot)) ?_
      rw [List.map_append]
      refine (h.distinct j).append (by simp) ?_
      simp only [List.map_cons, List.map_nil, List.disjoint_singleton, List.mem_map, not_exists, not_and]
      intro y hy same
      obtain ⟨r, hr, hs, -⟩ := h.booked j y hy
      exact hb r hr (hs.trans (same.trans slot))

/-! ## What changes marks alone -/

theorem plan_updateBag (slot : Nat) {f : BagRecord → BagRecord} (s : State) (h : ∀ b, (f b).unscheduled = b.unscheduled) :
    plan (updateBag slot f s) = plan s := by
  show (s.tracker.segment.map _).map BagRecord.unscheduled = _
  rw [List.map_map]
  refine List.map_congr_left fun b _ => ?_
  simp only [Function.comp_apply]
  split
  · exact h b
  · rfl

theorem updateBag_recedes (slot : Nat) {f : BagRecord → BagRecord} (s : State) (h : ∀ b, (f b).unscheduled = b.unscheduled) :
    Recedes s (updateBag slot f s) := .beside (plan_updateBag slot s h) rfl

theorem recedes_of_offGates {s t : State} (h : offGates t = offGates s) : Recedes s t := by
  have passed : t.tracker.segment.map BagRecord.ungated = s.tracker.segment.map BagRecord.ungated := congrArg OffGates.segment h
  have same := congrArg (List.map BagRecord.unscheduled) passed
  simp only [List.map_map] at same
  exact .beside same (Prod.ext (congrArg (fun x => x.divert.windows) h) (congrArg OffGates.serial h))

theorem countEvent_recedes (e : CounterEvent) (s : State) : Recedes s (countEvent e s) :=
  recedes_of_offGates (offGates_countEvent e s)

theorem markRisk_recedes (slot : Nat) (s : State) : Recedes s (markRisk slot s) := by
  unfold markRisk; split
  · exact .refl s
  · exact .ite (.refl s) (.beside (plan_updateBag slot s (by exact fun _ => rfl)) (by rfl))

theorem countThrough_recedes (c : ThroughCause) (slot : Nat) (s : State) : Recedes s (countThrough c slot s) := by
  unfold countThrough
  split
  · exact (countEvent_recedes _ _).after (by rfl) (by rfl)
  · exact (countEvent_recedes _ _).after (by rfl) (by rfl)
  · have late : Recedes s (updateBag slot (fun b => { b with flags := { b.flags with overrideLate := true } })
        { s with divert := { s.divert with lateDivert := s.divert.lateDivert + 1 } }) :=
      .beside (plan_updateBag slot s (fun _ => rfl)) rfl
    exact .ite late (late.trans (countEvent_recedes _ _))

theorem riskCheck_recedes (slot : Nat) (e : Pos) (j : Diverter) (s : State) : Recedes s (riskCheck slot e j s) := by
  unfold riskCheck; split
  · exact .ite (markRisk_recedes _ s) (.refl s)
  · exact .refl s

/-- R107: a bag sent through leaves no window by that. -/
theorem sendThrough_recedes (c : ThroughCause) (busy slot : Nat) (s : State) : Recedes s (sendThrough c busy slot s) := by
  unfold sendThrough; split
  · exact .refl s
  · rename_i b _
    have risks (t : State) : Recedes t (allDiverters.foldl (fun acc j =>
        if passes acc b.entry .o0 j && !passesFor acc b.entry b.chosen j then riskCheck slot b.entry j acc else acc) t) :=
      .foldl (fun a j => .ite (riskCheck_recedes slot _ j a) (.refl a)) _ _
    have checked := ((updateBag_recedes slot (f := setChosen .o0) s (fun _ => rfl)).trans (countThrough_recedes c slot _)).trans
      (risks _)
    exact .ite checked (checked.trans (recedes_of_offGates (offGates_handChosen _ _)))

/-! ## The windows -/

theorem slated_sublist {s t : State} {k : Diverter} (h : (windowList (windowsOf t k)).Sublist (windowList (windowsOf s k))) :
    (slated t k).Sublist (slated s k) := h.flatMap _

theorem updateWindow_slated {k : Diverter} {n : Nat} {f : Window → Window} {s : State}
    (h : ∀ w ∈ windowList (windowsOf s k), w.number = n → (f w).bags.Sublist w.bags ∧ (f w).fired = w.fired) (j : Diverter) :
    (slated (updateWindow k n f s) j).Sublist (slated s j) := by
  rw [slated, slated, windowBags, windowBags, windowsOf_updateWindow]
  split
  · subst j
    generalize windowList (windowsOf s k) = l at h
    induction l with
    | nil => exact .refl _
    | cons w l ih =>
      rw [List.map_cons, List.flatMap_cons, List.flatMap_cons]
      refine List.Sublist.append ?_ (ih fun x hx => h x (List.mem_cons_of_mem _ hx))
      split
      · obtain ⟨bags, fired⟩ := h w List.mem_cons_self (by assumption)
        rw [fired]
        exact bags.map _
      · exact .refl _
  · exact .refl _

/-- A change of a window's points. -/
theorem updateWindow_recedes (k : Diverter) (n : Nat) {f : Window → Window} (s : State)
    (h : ∀ w, (f w).number = w.number ∧ (f w).bags = w.bags ∧ (f w).fired = w.fired) : Recedes s (updateWindow k n f s) :=
  ⟨rfl, (updateWindow_keeps k n f s (fun w => (h w).1) (fun w => by rw [(h w).2.1])).windows,
    updateWindow_slated fun w _ _ => by rw [(h w).2.1]; exact ⟨.refl _, (h w).2.2⟩⟩

theorem withdraw_recedes (i : Item) (s : State) : Recedes s (withdraw i s) := .beside rfl rfl

theorem holdPosition_recedes (i : Item) (p : Pos) (s : State) : Recedes s (holdPosition i p s) := .beside rfl rfl

theorem dropWindow_recedes (k : Diverter) (n : Nat) (s : State) : Recedes s (dropWindow k n s) := by
  refine ⟨?_, (dropWindow_calm k n s).windows, fun j => slated_sublist ?_⟩
  · unfold dropWindow
    simp only [apply_ite plan]
    exact (if_congr Iff.rfl rfl (ite_self _)).trans (ite_self _)
  · have put (w : DiverterWindows) (t : State) : windowsOf (putWindows k w t) j = if j = k then w else windowsOf t j :=
      PerDiverter_get_set _ _ _ _
    unfold dropWindow
    simp only
    split_ifs
    · rw [put]
      split
      · subst j; exact by simp [windowList]
      · exact .refl _
    · rw [put]
      split
      · subst j; exact by simp [windowList]
      · exact .refl _
    · exact .refl _

theorem setRelease_recedes (k : Diverter) (n : Nat) (s : State) : Recedes s (setRelease k n s) := by
  unfold setRelease; split
  · have released (p : Option Pos) := updateWindow_recedes k n (f := fun y => { y with release := p }) s (fun _ => ⟨rfl, rfl, rfl⟩)
    simp only
    split
    · exact (released _).trans (withdraw_recedes _ _)
    · exact (released _).trans ((withdraw_recedes _ _).trans (.ite (dropWindow_recedes _ _ _) (holdPosition_recedes _ _ _)))
  · exact .refl s

/-- The fire point of a window would not be reached. -/
def FireAhead (k : Diverter) (n : Nat) (s : State) : Prop := ∀ x w b, diverterCfg s k = some x → windowNumbered s k n = some w →
  w.bags.head? = some b → reached s.belt.d (fireFor s x b.entry) = false

/-- R99: a fire point that is not reached is registered and no window fires. -/
theorem setFire_unreached {k : Diverter} {n : Nat} {s : State} (h : FireAhead k n s) : setFire k n s = s ∨
    ∃ p, setFire k n s = fireMoved k n (holdPosition (.firePoint k n) p (aimed k n p s)) := by
  unfold setFire; split
  · rename_i x w hx hw
    split
    · rename_i b _ hb
      have ahead : reached (updateWindow k n (fun y => { y with fire := fireFor s x b.entry }) s).belt.d (fireFor s x b.entry) =
        false := h x w b hx hw hb
      exact .inr ⟨fireFor s x b.entry, congrArg (fireMoved k n) (if_neg (by rw [ahead]; exact Bool.false_ne_true))⟩
    · exact .inl rfl
  · exact .inl rfl

theorem setFire_recedes {k : Diverter} {n : Nat} {s : State} (h : FireAhead k n s) : Recedes s (setFire k n s) := by
  rcases setFire_unreached h with same | ⟨p, moved⟩
  · rw [same]; exact .refl s
  · rw [moved]
    have aims : Recedes s (aimed k n p s) :=
      (updateWindow_recedes k n (f := fun y => { y with fire := p }) s (fun _ => ⟨rfl, rfl, rfl⟩)).trans (withdraw_recedes _ _)
    exact (aims.trans (holdPosition_recedes _ _ _)).trans (recedes_of_offGates (offGates_fireMoved _ _ _))

/-! ## A withdrawal (R108) -/

/-- Of bags in distinct slots the last is the head of its window only where it stands alone there. -/
theorem alone_of_last {ws : DiverterWindows} {w : Window} {a h : WindowBag} {f : Bool} {rest : List WindowBag}
    (distinct : ((windowBags ws).map (fun y => y.1.slot)).Nodup) (last : (windowBags ws).getLast? = some (a, f))
    (hw : w ∈ windowList ws) (hb : w.bags = h :: rest) (hs : h.slot = a.slot) : rest = [] := by
  obtain ⟨pre, post, hl⟩ := List.append_of_mem hw
  by_contra hne
  have split : windowBags ws = (pre.flatMap (fun x => x.bags.map (fun b => (b, x.fired))) ++ [(h, w.fired)]) ++
      (rest.map (fun b => (b, w.fired)) ++ post.flatMap (fun x => x.bags.map (fun b => (b, x.fired)))) := by
    rw [windowBags, hl]
    simp [hb]
  have later : (a, f) ∈ rest.map (fun b => (b, w.fired)) ++ post.flatMap (fun x => x.bags.map (fun b => (b, x.fired))) := by
    rw [split, List.getLast?_append_of_ne_nil _ (by simp [hne])] at last
    exact List.mem_of_getLast? last
  rw [split, List.map_append] at distinct
  exact (List.disjoint_of_nodup_append distinct) (List.mem_map.mpr ⟨(h, w.fired), by simp, hs⟩)
    (List.mem_map.mpr ⟨(a, f), later, rfl⟩)

/-- R108: the last bag of a diverter's windows leaves them. -/
theorem withdrawBag_recedes {k : Diverter} {a : WindowBag} {f : Bool} {s : State} (law : WindowLaw s)
    (distinct : ((slated s k).map (fun y => y.1.slot)).Nodup) (last : (slated s k).getLast? = some (a, f)) :
    Recedes s (withdrawBag k a.slot s) := by
  unfold withdrawBag; split
  · exact .refl s
  · rename_i w hw
    have mem : w ∈ windowList (windowsOf s k) := List.mem_of_find?_eq_some hw
    have same (x : Window) (hx : x ∈ windowList (windowsOf s k)) (hn : x.number = w.number) : x = w :=
      List.inj_on_of_nodup_map (law k).distinct hx mem hn
    have fewer (hne : w.bags.filter (fun b => decide (b.slot ≠ a.slot)) ≠ []) : Recedes s (updateWindow k w.number
        (fun y => { y with bags := w.bags.filter (fun b => decide (b.slot ≠ a.slot)) }) s) := by
      refine ⟨rfl, Calm.windows (updateWindow_calm k w.number _ s (by exact fun _ => rfl) fun law x hx hn => ?_),
        updateWindow_slated fun x hx hn => ?_⟩ <;> obtain rfl := same x hx hn
      · exact ⟨List.length_pos_of_ne_nil hne, (List.length_filter_le _ _).trans ((law k).size x hx).2⟩
      · exact ⟨List.filter_sublist, rfl⟩
    simp only
    split
    · exact .refl s
    split
    · exact dropWindow_recedes k w.number s
    · rename_i hne
      have hne : w.bags.filter (fun b => decide (b.slot ≠ a.slot)) ≠ [] := fun h => hne (List.isEmpty_iff.mpr h)
      have first : (w.bags.filter (fun b => decide (b.slot ≠ a.slot))).head? = w.bags.head? := by
        rcases hb : w.bags with _ | ⟨h, rest⟩
        · rfl
        · by_cases hs : h.slot = a.slot
          · obtain rfl := alone_of_last distinct last mem hb hs
            simp [hb, hs] at hne
          · simp [hs]
      rw [if_pos first]
      exact .ite (fewer hne) ((fewer hne).trans (setRelease_recedes _ _ _))

/-! ## The checks and the placement (R103 to R109) -/

/-- The records of `pre` stand ahead of `b`, in other slots. -/
def AheadOf (pre : List BagRecord) (b : BagRecord) : Prop := ∀ r ∈ pre, r.slot ≠ b.slot ∧ 0 < posDiff b.entry r.entry

section
variable {pre : List BagRecord} {b : BagRecord} {s : State}

/-- R104: with every bag of the windows ahead of it, the latest ahead of a record is the last. -/
theorem latestAhead_eq (h : Booked pre s) (ha : AheadOf pre b) (j : Diverter) :
    latestAhead (windowsOf s j) b.entry = (slated s j).getLast? := by
  rw [latestAhead, slated, List.filter_eq_self.mpr]
  intro y hy
  obtain ⟨r, hr, -, entry⟩ := h.booked j y hy
  exact decide_eq_true (entry ▸ (ha r hr).2)

theorem oldestBehind_none (h : Booked pre s) (ha : AheadOf pre b) (j : Diverter) :
    oldestBehind (windowsOf s j) b.entry = none := by
  refine List.find?_eq_none.mpr fun y hy => ?_
  obtain ⟨r, hr, -, entry⟩ := h.booked j y hy
  have ahead := (ha r hr).2
  have below : posDiff b.entry r.entry < 2 ^ 31 := by unfold posDiff; exact BitVec.toInt_lt
  have swap := posDiff_swap b.entry r.entry (by omega)
  rw [← entry, decide_eq_true_eq]
  omega

theorem windowOfBag_none (h : Booked pre s) (ha : AheadOf pre b) (j : Diverter) : windowOfBag s j b.slot = none := by
  refine List.find?_eq_none.mpr fun w hw => ?_
  simp only [holdsBag, List.any_eq_true, Bool.and_eq_true, decide_eq_true_eq, not_exists, not_and]
  intro z hz same _
  obtain ⟨r, hr, slot, -⟩ := h.booked j (z, w.fired) (mem_slated.mpr ⟨w, hw, hz, rfl⟩)
  exact absurd (slot.trans same) (ha r hr).1

theorem withdrawEverywhere_same (h : Booked pre s) (ha : AheadOf pre b) : withdrawEverywhere b.slot s = s := by
  have same (j : Diverter) : withdrawBag j b.slot s = s := by rw [withdrawBag, windowOfBag_none h ha j]
  simp [withdrawEverywhere, allDiverters, same]

theorem behindCheck_same (h : Booked pre s) (ha : AheadOf pre b) (slot : Nat) (len : Option Nat) (j : Diverter) :
    behindCheck slot b.entry len j s = s := by
  unfold behindCheck
  rw [oldestBehind_none h ha j]
  split <;> simp_all

/-- R104: the closing check sends through the last bag of a diverter again and again. -/
theorem closingCheck_recedes (h : Booked pre s) (ha : AheadOf pre b) (fuel slot : Nat) (j : Diverter) :
    Recedes s (closingCheck fuel slot b.entry j s) := by
  induction fuel generalizing s with
  | zero => exact .refl s
  | succ fuel ih =>
    unfold closingCheck
    rw [latestAhead_eq h ha]
    split
    · rename_i a _ _ last
      have sent := (withdrawBag_recedes h.law (h.distinct j) last).trans (sendThrough_recedes .gapConflict slot a.slot _)
      exact .ite (.ite (markRisk_recedes _ s) (sent.trans (ih (h.recedes sent)))) (.refl s)
    · exact .refl s

theorem closingChecks_recedes (h : Booked pre s) (ha : AheadOf pre b) (slot : Nat) (o : Outlet) :
    Recedes s (closingChecks slot b.entry o s) := by
  unfold closingChecks
  generalize allDiverters = l
  induction l generalizing s with
  | nil => exact .refl s
  | cons j l ih =>
    have one : Recedes s (if passes s b.entry o j then closingCheck 9 slot b.entry j s else s) :=
      .ite (closingCheck_recedes h ha 9 slot j) (.refl s)
    exact one.trans (ih (h.recedes one))

/-- The bags of a diverter's windows with the last window changed. -/
theorem slated_updateWindow_last {k : Diverter} {w : Window} {init : List Window} {f : Window → Window} (law : WindowLaw s)
    (hw : windowList (windowsOf s k) = init ++ [w]) : slated (updateWindow k w.number f s) k =
      init.flatMap (fun x => x.bags.map (fun b => (b, x.fired))) ++ (f w).bags.map (fun b => (b, (f w).fired)) := by
  have distinct := (law k).distinct
  rw [hw, List.map_append, List.map_singleton, List.nodup_append] at distinct
  have others : init.map (fun x => if x.number = w.number then f x else x) = init :=
    (List.map_congr_left fun x hx => if_neg (distinct.2.2 _ (List.mem_map_of_mem hx) _ (List.mem_singleton.mpr rfl))).trans
      (List.map_id' _)
  rw [slated, windowBags, windowsOf_updateWindow, if_pos rfl, hw, List.map_append, others]
  simp

theorem slated_updateWindow_other {k j : Diverter} (hj : j ≠ k) (n : Nat) (f : Window → Window) :
    slated (updateWindow k n f s) j = slated s j := by
  rw [slated, slated, windowBags, windowBags, windowsOf_updateWindow, if_neg hj]

/-- R105: a bag that joins the last window, not fired. -/
theorem joinWindow_books {k : Diverter} {w : Window} (law : WindowLaw s) (hl : w.bags.length < 4) (hf : w.fired = false)
    (hw : (windowList (windowsOf s k)).getLast? = some w) : Books b s (joinWindow k w b s) := by
  obtain ⟨init, hi⟩ := List.getLast?_eq_some_iff.mp hw
  have joins : Books b s (updateWindow k w.number (fun y => { y with bags := y.bags ++ [⟨b.slot, b.entry, b.length, false⟩] }) s) := by
    refine ⟨rfl, Calm.windows (updateWindow_calm k w.number _ s (by exact fun _ => rfl) fun law x hx hn => ?_), fun j => ?_⟩
    · obtain rfl : x = w := List.inj_on_of_nodup_map (law k).distinct hx (List.mem_of_getLast? hw) hn
      simp only [List.length_append, List.length_singleton]
      exact ⟨Nat.succ_pos _, hl⟩
    · by_cases hj : j = k
      · subst j
        refine ⟨[(⟨b.slot, b.entry, b.length, false⟩, false)], ?_, .inr ⟨_, rfl, rfl, rfl⟩⟩
        rw [slated_updateWindow_last law hi, slated, windowBags, hi]
        simp [hf]
      · exact ⟨[], by rw [slated_updateWindow_other hj, List.append_nil], .inl rfl⟩
  unfold joinWindow
  simp only [hf, Bool.false_eq_true, if_false]
  exact joins.recedes (setRelease_recedes _ _ _)

/-- R106, step 4: the window opened for a record, with no point computed yet. -/
def ownWindow (b : BagRecord) (s : State) : Window :=
  { number := s.serial.window, bags := [⟨b.slot, b.entry, b.length, false⟩], fire := 0, release := none, fired := false }

def withOwnWindow (k : Diverter) (b : BagRecord) (s : State) : State :=
  putWindows k (if (windowsOf s k).active.isNone then ⟨some (ownWindow b s), (windowsOf s k).next⟩
    else ⟨(windowsOf s k).active, some (ownWindow b s)⟩) { s with serial := { s.serial with window := s.serial.window + 1 } }

theorem openWindow_eq (k : Diverter) (b : BagRecord) (s : State) :
    openWindow k b s = setRelease k s.serial.window (setFire k s.serial.window (withOwnWindow k b s)) := rfl

theorem windowList_withOwnWindow {k : Diverter} (law : WindowLaw s)
    (hf : ¬ ((windowsOf s k).active.isSome = true ∧ (windowsOf s k).next.isSome = true)) :
    windowList (windowsOf (withOwnWindow k b s) k) = windowList (windowsOf s k) ++ [ownWindow b s] := by
  have order := (law k).order
  rw [windowsOf, withOwnWindow, putWindows, PerDiverter_get_set, if_pos rfl]
  rcases hw : windowsOf s k with ⟨_ | v, _ | w⟩
  · rfl
  · rw [hw] at order
    exact absurd (order rfl) (by simp)
  · rfl
  · exact absurd (by simp [hw]) hf

theorem withOwnWindow_aims {k : Diverter} {x : DiverterConfig} (law : WindowLaw s) (hx : diverterCfg s k = some x)
    (hf : ¬ ((windowsOf s k).active.isSome = true ∧ (windowsOf s k).next.isSome = true))
    (hr : reached s.belt.d (fireFor s x b.entry) = false) : FireAhead k s.serial.window (withOwnWindow k b s) := by
  intro y w z hy hw hz
  obtain rfl : x = y := Option.some.inj (hx.symm.trans hy)
  have number : w.number = s.serial.window := by simpa using List.find?_some hw
  have mem := List.mem_of_find?_eq_some hw
  rw [windowList_withOwnWindow law hf, List.mem_append, List.mem_singleton] at mem
  obtain rfl := mem.resolve_left fun old => (ne_of_lt ((law k).named w old)) number
  obtain rfl : ⟨b.slot, b.entry, b.length, false⟩ = z := Option.some.inj hz
  exact hr

/-- R106: a window of its own, its fire point not reached. -/
theorem openWindow_books {k : Diverter} {x : DiverterConfig} (law : WindowLaw s) (hx : diverterCfg s k = some x)
    (hf : ¬ ((windowsOf s k).active.isSome = true ∧ (windowsOf s k).next.isSome = true))
    (hr : reached s.belt.d (fireFor s x b.entry) = false) : Books b s (openWindow k b s) := by
  have list := windowList_withOwnWindow (b := b) law hf
  have points : Recedes (withOwnWindow k b s) (openWindow k b s) :=
    (setFire_recedes (withOwnWindow_aims law hx hf hr)).trans (setRelease_recedes _ _ _)
  refine ⟨points.plan, (openWindow_calm k b s hf).windows, fun j => ?_⟩
  by_cases hj : j = k
  · subst j
    refine ⟨[(⟨b.slot, b.entry, b.length, false⟩, false)], (points.slated k).trans ?_, .inr ⟨_, rfl, rfl, rfl⟩⟩
    rw [slated, slated, windowBags, windowBags, list, List.flatMap_append]
    exact .refl _
  · refine ⟨[], (points.slated j).trans ?_, .inl rfl⟩
    rw [List.append_nil, slated, windowsOf, withOwnWindow, putWindows, PerDiverter_get_set, if_neg hj]
    exact .refl _

/-- R106: a window of its own, or none. -/
theorem newWindow_books {k : Diverter} {x : DiverterConfig} (law : WindowLaw s) (hx : diverterCfg s k = some x) :
    Books b s (newWindow k x b s) := by
  unfold newWindow
  simp only
  split_ifs with full near late
  · exact (sendThrough_recedes _ _ _ s).books
  · exact (sendThrough_recedes _ _ _ s).books
  · exact (sendThrough_recedes _ _ _ s).books
  · exact openWindow_books law hx full (Bool.eq_false_iff.mpr late)

theorem placeBag_books (h : Booked pre s) (k : Diverter) : Books b s (placeBag k b s) := by
  unfold placeBag; split
  · exact (Recedes.refl s).books
  · rename_i hx
    simp only
    split
    · rename_i w a hw ha
      split_ifs with close few
      · rw [hw, Option.bind_some] at ha
        exact joinWindow_books h.law few (h.unfired k (a, w.fired)
          (mem_slated.mpr ⟨w, List.mem_of_getLast? hw, List.mem_of_getLast? ha, rfl⟩)) hw
      · exact (sendThrough_recedes _ _ _ s).books
      · exact newWindow_books h.law hx
    · exact newWindow_books h.law hx

/-- R109: a record that stands behind every bag of the windows is moved: nothing behind it is touched. -/
theorem reschedule_books (h : Booked pre s) (ha : AheadOf pre b) (hb : findBag s b.slot = some b) (old : Option Outlet)
    (m : Outlet) : Books b s (reschedule b.slot old m s) := by
  have closing := closingChecks_recedes h ha b.slot m
  have booked := h.recedes closing
  have behind : allDiverters.foldl (fun acc j => if passes acc b.entry m j && !passesFor acc b.entry old j then
      behindCheck b.slot b.entry b.length j acc else acc) (closingChecks b.slot b.entry m s) = closingChecks b.slot b.entry m s :=
    List.foldl_fixed' (fun j => by simp only [behindCheck_same booked ha, ite_self]) _
  unfold reschedule
  rw [hb]
  simp only
  rw [withdrawEverywhere_same h ha, behind]
  split
  · exact (Recedes.refl s).books
  · split
    · exact closing.books
    · split
      · exact closing.books
      · split_ifs
        · exact (closing.trans (sendThrough_recedes _ _ _ _)).books
        · exact (closing.trans (sendThrough_recedes _ _ _ _)).books
        · exact closing.thenBooks (placeBag_books booked _)

end

end Sys2Proof.Machine
end

section
/-! PROOFS. The re-decision of records (R90 to R95): what it leaves, what it makes of a record that keeps its outlet, and what it
makes of every record of a queue in order. -/

namespace Sys2Proof.Machine

/-! ## What the decision lines read (R84 to R88) -/

/-- The Loader, the route table and the peer states are the same. -/
structure Reads (s t : State) : Prop where
  loader : t.loader = s.loader
  routes : t.routes = s.routes
  peers : t.handoff.peers = s.handoff.peers

/-- The decision lines read the Loader, the route table and the peer states alone. -/
theorem decideLines_congr {s t : State} (h : Reads s t) : decideLines t = decideLines s := by
  have reads : decideLines t = decideLines { s with
      loader := t.loader, routes := t.routes, handoff := { s.handoff with peers := t.handoff.peers } } := rfl
  rw [reads, h.loader, h.routes, h.peers]

theorem redecided_congr {s t : State} (h : Reads s t) : redecided t = redecided s := by
  funext b
  rw [redecided, redecided, decideLines_congr h, cfg, cfg, h.loader]

/-- R84 to R88: they read no mark of the Divert Scheduler and of the gates. -/
theorem decideLines_unscheduled (s : State) (b : BagRecord) : decideLines s b.unscheduled = decideLines s b := rfl

theorem redecided_unscheduled (s : State) (b : BagRecord) :
    (redecided s b.unscheduled).unscheduled = (redecided s b).unscheduled := by
  have tracking : b.unscheduled.tracking = b.tracking := rfl
  have decision : b.unscheduled.decision = b.decision := rfl
  simp only [redecided, decideLines_unscheduled, tracking, decision]
  split_ifs <;> rfl

theorem redecided_slot (s : State) (b : BagRecord) : (redecided s b).slot = b.slot := by
  unfold redecided
  simp only
  split_ifs <;> rfl

theorem redecided_undecided {s : State} {b : BagRecord} (h : isDecided b = false) : redecided s b = b := by
  unfold isDecided at h
  unfold redecided
  rcases ht : b.tracking <;> simp_all

/-! ## A re-decision by its cases -/

section
variable {b : BagRecord} {s : State}

/-- R92: the same outlet stands. -/
theorem keepOutcome_redecided (ht : b.tracking = .decided) (ho : b.decision.outlet = some (decideLines s b).outlet) :
    keepOutcome s (decideLines s b) b = redecided s b := by
  unfold keepOutcome redecided
  simp only [if_pos ht, ho, ne_eq, not_true_eq_false, if_false]
  split
  · split <;> simp_all
  · rfl

/-- R89, R93: another outlet is taken, and what an earlier decision here had set is taken back. -/
theorem writeOutcome_redecided (ht : b.tracking = .decided) (ho : b.decision.outlet ≠ some (decideLines s b).outlet) :
    (writeOutcome (decideLines s b) (clearOwnStray b)).unscheduled = (redecided s b).unscheduled := by
  unfold redecided
  simp only [if_pos ht, if_pos ho]
  unfold writeOutcome clearOwnStray setChosen
  rcases ha : (decideLines s b).assigned with _ | r <;> cases hs : b.decision.straySet <;>
    simp [BagRecord.unscheduled, ht, Option.or]

theorem redecide_keeps (hb : findBag s b.slot = some b) (ht : b.tracking = .decided)
    (ho : b.decision.outlet = some (decideLines s b).outlet) :
    redecide b.slot s = updateBag b.slot (keepOutcome s (decideLines s b)) s := by
  unfold redecide
  rw [hb]
  simp only [ht]
  exact if_pos ho

theorem redecide_takes (hb : findBag s b.slot = some b) (ht : b.tracking = .decided)
    (ho : b.decision.outlet ≠ some (decideLines s b).outlet) :
    redecide b.slot s = takeRedecision (decideLines s b) b s := by
  unfold redecide
  rw [hb]
  simp only [ht]
  exact if_neg ho

/-- R95: a fired bag refuses another outlet. -/
theorem redecide_refuses (hb : findBag s b.slot = some b) (ht : b.tracking = .diverting ∨ b.tracking = .releasedUnconfirmed)
    (ho : b.decision.outlet ≠ some (decideLines s b).outlet) : redecide b.slot s = refuseRedecision b s := by
  unfold redecide
  rw [hb]
  rcases ht with ht | ht <;> simp only [ht] <;> exact if_neg ho

theorem redecide_same (hb : findBag s b.slot = some b) (ht : b.tracking ≠ .decided)
    (hr : (b.tracking = .diverting ∨ b.tracking = .releasedUnconfirmed) → b.decision.outlet = some (decideLines s b).outlet) :
    redecide b.slot s = s ∧ redecided s b = b := by
  constructor
  · unfold redecide
    rw [hb]
    rcases h : b.tracking <;> simp_all
  · unfold redecided
    rw [if_neg ht]
    exact if_neg fun h => h.2 (hr h.1)

/-- R95: the record refused gains OVERRIDE_LATE. -/
theorem refused_redecided (ht : b.tracking = .diverting ∨ b.tracking = .releasedUnconfirmed)
    (ho : b.decision.outlet ≠ some (decideLines s b).outlet) :
    redecided s b = { b with flags := { b.flags with overrideLate := true } } := by
  have hd : b.tracking ≠ .decided := by rcases ht with h | h <;> simp [h]
  simp only [redecided, if_neg hd, if_pos (And.intro ht ho)]

end

/-! ## What a re-decision leaves -/

/-- What remains but for the exception list, which a stray record joins. -/
def StrayAlone (s t : State) : Prop := ∃ strays nextSeq, remains t = { remains s with strays := strays, nextSeq := nextSeq }

namespace StrayAlone
variable {s t u : State}

theorem of_remains (h : remains t = remains s) : StrayAlone s t := ⟨_, _, h⟩

theorem trans (h : StrayAlone s t) (k : StrayAlone t u) : StrayAlone s u := by
  obtain ⟨_, _, h⟩ := h
  obtain ⟨_, _, k⟩ := k
  exact ⟨_, _, by rw [k, h]⟩

theorem foldl {α : Type} {f : State → α → State} (h : ∀ a x, StrayAlone a (f a x)) (l : List α) (s : State) :
    StrayAlone s (l.foldl f s) := by
  induction l generalizing s with
  | nil => exact .of_remains rfl
  | cons x l ih => exact (h s x).trans (ih _)

theorem handoff (h : StrayAlone s t) : t.handoff = s.handoff := by
  obtain ⟨_, _, h⟩ := h
  exact congrArg (fun r => r.handoff) h

theorem history (h : StrayAlone s t) : t.tracker.history = s.tracker.history := by
  obtain ⟨_, _, h⟩ := h
  exact congrArg (fun r => r.history) h

/-- What the decision lines read stands. -/
theorem reads (h : StrayAlone s t) : Reads s t := by
  have peers := congrArg Handoff.peers h.handoff
  obtain ⟨_, _, h⟩ := h
  exact ⟨congrArg (fun r => r.loader) h, congrArg (fun r => r.routes) h, peers⟩

theorem queries (h : StrayAlone s t) : t.queries = s.queries := by
  obtain ⟨_, _, h⟩ := h
  exact congrArg Remains.queries h

theorem cache (h : StrayAlone s t) : t.cache = s.cache := by
  obtain ⟨_, _, h⟩ := h
  exact congrArg Remains.cache h

theorem owed (h : StrayAlone s t) : t.owed = s.owed := by
  obtain ⟨_, _, h⟩ := h
  exact congrArg Remains.owed h

end StrayAlone

/-- R152: a stray record handed over changes the exception list, the event counters and the transmit queue. -/
theorem handStray_hands (i : StrayInfo) (s : State) : ∃ exc bus, handStray i s = { s with exc := exc, bus := bus } := by
  have same := handStray_owed i s
  unfold handStray at same ⊢
  split
  · rename_i ha
    rw [if_pos ha] at same
    obtain ⟨_, _, _, _, hc⟩ := countEvent_counts .strays (enterStray (stampStray i s) s)
    obtain ⟨_, owed, ho⟩ := broadcast_offers (.stray (strayPayload (stampStray i s))) (countEvent .strays (enterStray (stampStray i s) s))
    simp only at same ⊢
    rw [ho, hc] at same ⊢
    obtain rfl : owed = s.owed := same
    exact ⟨_, _, rfl⟩
  · exact ⟨_, _, rfl⟩

theorem strayOfOutcome_hands (oc : Outcome) (previous : Option Outlet) (b : BagRecord) (s : State) :
    ∃ exc bus, strayOfOutcome oc previous b s = { s with exc := exc, bus := bus } := by
  unfold strayOfOutcome
  split
  · exact ⟨_, _, rfl⟩
  · split
    · exact ⟨_, _, rfl⟩
    · exact handStray_hands _ s

theorem takeRedecision_strayAlone (oc : Outcome) (b : BagRecord) (s : State) : StrayAlone s (takeRedecision oc b s) := by
  obtain ⟨exc, bus, hands⟩ := strayOfOutcome_hands oc b.decision.outlet b
    (updateBag b.slot (fun x => writeOutcome oc (clearOwnStray x)) s)
  refine ⟨exc.strays, exc.nextSeq, ?_⟩
  unfold takeRedecision
  simp only
  rw [remains_of_offGates (offGates_handChosen _ _), remains_reschedule, hands]
  rfl

/-- R95: a refusal marks the record, and its event goes to the event counters alone. -/
theorem refuseRedecision_marks (b : BagRecord) (s : State) : ∃ bus one two, refuseRedecision b s =
    { updateBag b.slot (fun x => { x with flags := { x.flags with overrideLate := true } }) s with
      bus := bus, exc := { s.exc with counter1 := one, counter2 := two } } := by
  unfold refuseRedecision
  simp only
  split
  · exact ⟨_, _, _, rfl⟩
  · obtain ⟨bus, owed, one, two, counts⟩ := countEvent_counts .overrideLate
      (updateBag b.slot (fun x => { x with flags := { x.flags with overrideLate := true } }) s)
    have same := countEvent_owed .overrideLate
      (updateBag b.slot (fun x => { x with flags := { x.flags with overrideLate := true } }) s)
    rw [counts] at same ⊢
    obtain rfl : owed = s.owed := same
    exact ⟨_, _, _, rfl⟩

theorem refuseRedecision_remains (b : BagRecord) (s : State) : remains (refuseRedecision b s) = remains s := by
  obtain ⟨_, _, _, marks⟩ := refuseRedecision_marks b s
  rw [marks]
  rfl

theorem redecide_strayAlone (slot : Nat) (s : State) : StrayAlone s (redecide slot s) := by
  have same : StrayAlone s s := .of_remains rfl
  have refused (b : BagRecord) (p : Prop) [Decidable p] : StrayAlone s (if p then s else refuseRedecision b s) := by
    split
    · exact same
    · exact .of_remains (refuseRedecision_remains b s)
  unfold redecide
  split
  · exact same
  · split
    · simp only
      split
      · exact .of_remains rfl
      · exact takeRedecision_strayAlone _ _ _
    · exact refused _ _
    · exact refused _ _
    all_goals exact same

theorem redecideServed_strayAlone (ls : List Live) (s : State) : StrayAlone s (redecideServed ls s) :=
  .foldl (fun a slot => redecide_strayAlone slot a) _ _

/-! ## Every record of a queue in order decided afresh -/

/-- A record as `plan` shows it, decided afresh where its slot is one of those. -/
def planAfresh (s : State) (slots : List Nat) (x : BagRecord) : BagRecord :=
  if x.slot ∈ slots then (redecided s x).unscheduled else x

section
variable {pre : List BagRecord} {b : BagRecord} {s : State}

theorem planAfresh_nil (s : State) (l : List BagRecord) : l.map (planAfresh s []) = l :=
  (List.map_congr_left fun _ _ => if_neg List.not_mem_nil).trans (List.map_id' l)

theorem plan_slots (s : State) : (plan s).map BagRecord.slot = segmentSlots s := by
  rw [plan, List.map_map]
  rfl

/-- A change of one record. -/
theorem plan_change {f : BagRecord → BagRecord} (hn : (segmentSlots s).Nodup) (hb : findBag s b.slot = some b)
    (h : (f b).unscheduled = (redecided s b).unscheduled) :
    plan (updateBag b.slot f s) = (plan s).map (planAfresh s [b.slot]) := by
  show (s.tracker.segment.map _).map BagRecord.unscheduled = (s.tracker.segment.map BagRecord.unscheduled).map _
  rw [List.map_map, List.map_map]
  refine List.map_congr_left fun x hx => ?_
  simp only [Function.comp_apply, planAfresh, List.mem_singleton]
  by_cases hs : x.slot = b.slot
  · obtain rfl := findBag_unique hn hb hx hs
    rw [if_pos rfl, if_pos (by rfl), h, redecided_unscheduled]
  · rw [if_neg hs, if_neg (by exact hs)]

theorem Booked.beside {t : State} (h : Booked pre s) (hw : (t.divert.windows, t.serial) = (s.divert.windows, s.serial)) :
    Booked pre t := by
  obtain ⟨windows, serial⟩ := Prod.mk.inj hw
  have same : slated t = slated s := by funext k; rw [slated, slated, windowsOf, windowsOf, windows]
  exact ⟨fun k => by rw [serial, windowsOf, windows]; exact h.law k, same ▸ h.unfired, same ▸ h.booked, same ▸ h.distinct⟩

theorem Booked.cons (h : Booked pre s) (b : BagRecord) : Booked (b :: pre) s :=
  ⟨h.law, h.unfired, fun k y hy => by
    obtain ⟨r, hr, same⟩ := h.booked k y hy
    exact ⟨r, List.mem_cons_of_mem b hr, same⟩, h.distinct⟩

/-- A state whose queue is that of another with one record decided afresh, as `plan` shows them. -/
structure DecidesAfresh (pre : List BagRecord) (b : BagRecord) (s t : State) : Prop where
  plan : Machine.plan t = (Machine.plan s).map (planAfresh s [b.slot])
  booked : Booked (b :: pre) t

theorem takeRedecision_afresh (hn : (segmentSlots s).Nodup) (h : Booked pre s) (ha : AheadOf pre b)
    (hb : findBag s b.slot = some b) (ht : b.tracking = .decided) (ho : b.decision.outlet ≠ some (decideLines s b).outlet) :
    DecidesAfresh pre b s (takeRedecision (decideLines s b) b s) := by
  let written := updateBag b.slot (fun x => writeOutcome (decideLines s b) (clearOwnStray x)) s
  obtain ⟨exc, bus, hands⟩ := strayOfOutcome_hands (decideLines s b) b.decision.outlet b written
  have slots (x : BagRecord) : (writeOutcome (decideLines s b) (clearOwnStray x)).slot = x.slot ∧
      (writeOutcome (decideLines s b) (clearOwnStray x)).entry = x.entry := by
    unfold writeOutcome clearOwnStray setChosen
    simp only
    split <;> split_ifs <;> exact ⟨rfl, rfl⟩
  obtain ⟨slot, entry⟩ := slots b
  have found : findBag written b.slot = some (writeOutcome (decideLines s b) (clearOwnStray b)) :=
    findBag_updateBag_self hb (fun x => (slots x).1)
  have booked : Booked pre { written with exc := exc, bus := bus } := ⟨h.law, h.unfired, h.booked, h.distinct⟩
  have ahead : AheadOf pre (writeOutcome (decideLines s b) (clearOwnStray b)) := fun r hr => by
    rw [slot, entry]; exact ha r hr
  have moved := reschedule_books booked ahead (by rw [slot]; exact found) b.chosen (decideLines s b).outlet
  rw [slot] at moved
  have handed := moved.recedes (recedes_of_offGates (offGates_handChosen b.slot _))
  have taken : takeRedecision (decideLines s b) b s = handChosen b.slot (reschedule b.slot b.chosen (decideLines s b).outlet
      { written with exc := exc, bus := bus }) := by rw [takeRedecision, ← hands]
  rw [taken]
  refine ⟨handed.plan.trans (plan_change hn hb (writeOutcome_redecided ht ho)), ?_⟩
  have books : Books b { written with exc := exc, bus := bus } _ := ⟨handed.plan, handed.law, fun k => by
    have := handed.slated k
    rwa [slot, entry] at this⟩
  exact booked.books books fun r hr => (ha r hr).1

/-- R92 to R95: one record of a queue in order is decided afresh. -/
theorem redecide_afresh (hn : (segmentSlots s).Nodup) (h : Booked pre s) (ha : AheadOf pre b) (hb : findBag s b.slot = some b) :
    DecidesAfresh pre b s (redecide b.slot s) := by
  have still {t : State} (hp : plan t = (plan s).map (planAfresh s [b.slot]))
      (hw : (t.divert.windows, t.serial) = (s.divert.windows, s.serial)) : DecidesAfresh pre b s t := ⟨hp, (h.beside hw).cons b⟩
  by_cases ht : b.tracking = .decided
  · by_cases ho : b.decision.outlet = some (decideLines s b).outlet
    · rw [redecide_keeps hb ht ho]
      exact still (plan_change hn hb (by rw [keepOutcome_redecided ht ho])) rfl
    · rw [redecide_takes hb ht ho]
      exact takeRedecision_afresh hn h ha hb ht ho
  · by_cases hr : (b.tracking = .diverting ∨ b.tracking = .releasedUnconfirmed) ∧ b.decision.outlet ≠ some (decideLines s b).outlet
    · rw [redecide_refuses hb hr.1 hr.2]
      obtain ⟨bus, one, two, marks⟩ := refuseRedecision_marks b s
      rw [marks]
      exact still (plan_change hn hb (by rw [refused_redecided hr.1 hr.2])) rfl
    · obtain ⟨same, alike⟩ := redecide_same hb ht (fun hf => by_contra fun ho => hr ⟨hf, ho⟩)
      have plain := plan_change (f := id) hn hb (by rw [alike]; rfl)
      rw [same]
      exact still ((congrArg plan (show s = updateBag b.slot id s by simp [updateBag])).trans plain) rfl

/-- The record that a slot holds, as `plan` shows it. -/
theorem findBag_plan {t : State} (hn : (segmentSlots t).Nodup) {x : BagRecord} (hx : x ∈ plan t) :
    ∃ c, findBag t x.slot = some c ∧ c.unscheduled = x := by
  obtain ⟨c, hc, rfl⟩ := List.mem_map.mp hx
  exact ⟨c, findBag_of_mem hn hc, rfl⟩

theorem planAfresh_slot (s : State) (slots : List Nat) (x : BagRecord) : (planAfresh s slots x).slot = x.slot := by
  unfold planAfresh
  split
  · exact redecided_slot s x
  · rfl

/-- R90, R92 to R95: records of a queue in order are decided afresh one after another, the windows holding bags of records ahead
of them alone. -/
theorem redecides_afresh {l : List BagRecord} (hn : (segmentSlots s).Nodup) (h : Booked pre s)
    (apart : l.Pairwise (fun a b => a.slot ≠ b.slot ∧ 0 < posDiff b.entry a.entry)) (ha : ∀ b ∈ l, AheadOf pre b)
    (hl : ∀ b ∈ l, b.unscheduled ∈ plan s) : plan ((l.map BagRecord.slot).foldl (fun acc slot => redecide slot acc) s) =
      (plan s).map (planAfresh s (l.map BagRecord.slot)) := by
  induction l generalizing s pre with
  | nil => exact (planAfresh_nil s (plan s)).symm
  | cons b l ih =>
    obtain ⟨first, apart⟩ := List.pairwise_cons.mp apart
    obtain ⟨c, hc, same⟩ := findBag_plan hn (hl b List.mem_cons_self)
    have slot : c.slot = b.slot := (congrArg BagRecord.slot same :)
    have entry : c.entry = b.entry := (congrArg BagRecord.entry same :)
    have one : DecidesAfresh pre c s (redecide c.slot s) := redecide_afresh hn h
      (fun r hr => by rw [slot, entry]; exact ha b List.mem_cons_self r hr) (slot ▸ hc)
    rw [slot] at one
    have slots : segmentSlots (redecide b.slot s) = segmentSlots s := by
      rw [← plan_slots, one.plan, List.map_map, ← plan_slots]
      exact List.map_congr_left fun x _ => planAfresh_slot s _ x
    have alike : redecided (redecide b.slot s) = redecided s := redecided_congr (redecide_strayAlone b.slot s).reads
    rw [List.map_cons, List.foldl_cons, ih (slots ▸ hn) one.booked apart ?_ ?_, one.plan, List.map_map, slot]
    · refine List.map_congr_left fun x _ => ?_
      simp only [Function.comp_apply, planAfresh, alike, List.mem_cons, List.not_mem_nil, or_false]
      by_cases hx : x.slot = b.slot
      · have later : (redecided s x).unscheduled.slot ∉ l.map BagRecord.slot := by
          rintro mem
          obtain ⟨y, hy, hs⟩ := List.mem_map.mp mem
          exact (first y hy).1 (hx.symm.trans (hs.trans (redecided_slot s x)).symm)
        rw [if_pos hx, if_neg later, if_pos (.inl hx)]
      · simp only [hx, if_false, false_or]
    · rintro y hy r hr
      rcases List.mem_cons.mp hr with rfl | hr
      · rw [slot, entry]; exact first y hy
      · exact ha y (List.mem_cons_of_mem b hy) r hr
    · intro y hy
      rw [one.plan]
      refine List.mem_map.mpr ⟨y.unscheduled, hl y (List.mem_cons_of_mem b hy), ?_⟩
      exact if_neg (by simpa [slot, BagRecord.unscheduled] using (first y hy).1.symm)

end

end Sys2Proof.Machine
end

section
/-! PROOFS. The re-decision of records that keep their outlet, whatever windows stand, and of the only record of a queue, which it
may move out of its window (R92, R93, R108, R109). -/

namespace Sys2Proof.Machine

/-! ## Records that keep their outlet (R92, R95) -/

/-- A record that a re-decision does not move. -/
def StandsFor (s : State) (b : BagRecord) : Prop :=
  b.tracking = .decided → b.decision.outlet = some (decideLines s b).outlet

theorem movers_nil {s : State} {l : List BagRecord} : movers s l = [] ↔ ∀ b ∈ l, StandsFor s b := by
  simp only [movers, List.filter_eq_nil_iff, decide_eq_true_eq, not_and, not_not, ne_eq, StandsFor]

/-- The queue with the records in those slots decided afresh, where these keep their outlets. -/
def restated (slots : List Nat) (s : State) : State :=
  { s with tracker := { s.tracker with segment := s.tracker.segment.map (fun x =>
      if x.slot ∈ slots then redecided s x else x) } }

/-- The same but for the transmit queue and the event counters. -/
def Restates (slots : List Nat) (s t : State) : Prop := ∃ bus one two, t =
  { restated slots s with bus := bus, exc := { s.exc with counter1 := one, counter2 := two } }

section
variable {b : BagRecord} {s : State}

theorem restated_nil (s : State) : restated [] s = s := by simp [restated]

/-- A change of one record that is what a re-decision makes of it. -/
theorem updateBag_restated {f : BagRecord → BagRecord} (hn : (segmentSlots s).Nodup) (hb : findBag s b.slot = some b)
    (h : f b = redecided s b) : updateBag b.slot f s = restated [b.slot] s := by
  have same : s.tracker.segment.map (fun x => if x.slot = b.slot then f x else x) =
      s.tracker.segment.map (fun x => if x.slot ∈ [b.slot] then redecided s x else x) := by
    refine List.map_congr_left fun x hx => ?_
    simp only [List.mem_singleton]
    by_cases hs : x.slot = b.slot
    · rw [if_pos hs, if_pos hs, findBag_unique hn hb hx hs, h]
    · rw [if_neg hs, if_neg hs]
  rw [updateBag, restated, same]

theorem redecide_restates (hn : (segmentSlots s).Nodup) (hb : findBag s b.slot = some b) (hs : StandsFor s b) :
    Restates [b.slot] s (redecide b.slot s) := by
  by_cases ht : b.tracking = .decided
  · exact ⟨s.bus, s.exc.counter1, s.exc.counter2,
      (redecide_keeps hb ht (hs ht)).trans (updateBag_restated hn hb (keepOutcome_redecided ht (hs ht)))⟩
  · by_cases hr : (b.tracking = .diverting ∨ b.tracking = .releasedUnconfirmed) ∧ b.decision.outlet ≠ some (decideLines s b).outlet
    · obtain ⟨bus, one, two, marks⟩ := refuseRedecision_marks b s
      refine ⟨bus, one, two, (redecide_refuses hb hr.1 hr.2).trans (marks.trans ?_)⟩
      rw [updateBag_restated hn hb (refused_redecided hr.1 hr.2).symm]
    · obtain ⟨same, alike⟩ := redecide_same hb ht (fun hf => by_contra fun ho => hr ⟨hf, ho⟩)
      have plain := updateBag_restated (f := id) hn hb alike.symm
      exact ⟨s.bus, s.exc.counter1, s.exc.counter2, by rw [same, ← plain]; simp [updateBag]⟩

/-- R90: records in distinct slots that keep their outlets are decided afresh one after another. -/
theorem redecides_restate {l : List BagRecord} (hn : (segmentSlots s).Nodup) (hd : (l.map BagRecord.slot).Nodup)
    (hl : ∀ b ∈ l, b ∈ s.tracker.segment) (hs : ∀ b ∈ l, StandsFor s b) :
    Restates (l.map BagRecord.slot) s ((l.map BagRecord.slot).foldl (fun acc slot => redecide slot acc) s) := by
  induction l generalizing s with
  | nil => exact ⟨s.bus, s.exc.counter1, s.exc.counter2, (restated_nil s).symm⟩
  | cons b l ih =>
    rw [List.map_cons, List.nodup_cons] at hd
    obtain ⟨bus, one, two, first⟩ := redecide_restates hn (findBag_of_mem hn (hl b List.mem_cons_self)) (hs b List.mem_cons_self)
    have reads : Reads s (redecide b.slot s) := (redecide_strayAlone b.slot s).reads
    have slots : segmentSlots (redecide b.slot s) = segmentSlots s := (redecide_calm b.slot s).level.slots
    have apart (y : BagRecord) (hy : y ∈ l) : y.slot ≠ b.slot := fun h => hd.1 (h ▸ List.mem_map_of_mem hy)
    obtain ⟨bus', one', two', later⟩ := ih (s := redecide b.slot s) (slots ▸ hn) hd.2
      (fun y hy => by
        rw [first]
        exact List.mem_map.mpr ⟨y, hl y (List.mem_cons_of_mem b hy), if_neg (by simpa using apart y hy)⟩)
      (fun y hy => by
        rw [StandsFor, decideLines_congr reads]
        exact hs y (List.mem_cons_of_mem b hy))
    refine ⟨bus', one', two', ?_⟩
    rw [List.map_cons, List.foldl_cons, later, restated, redecided_congr reads, first]
    have both : (s.tracker.segment.map (fun x => if x.slot ∈ [b.slot] then redecided s x else x)).map
        (fun x => if x.slot ∈ l.map BagRecord.slot then redecided s x else x) =
        s.tracker.segment.map (fun x => if x.slot ∈ b.slot :: l.map BagRecord.slot then redecided s x else x) := by
      rw [List.map_map]
      refine List.map_congr_left fun x _ => ?_
      simp only [Function.comp_apply, List.mem_cons, List.not_mem_nil, or_false]
      by_cases hx : x.slot = b.slot
      · rw [if_pos hx, if_neg (by rw [redecided_slot, hx]; exact hd.1), if_pos (.inl hx)]
      · simp only [hx, if_false, false_or]
    exact congrArg (fun q => { s with
      tracker := { s.tracker with segment := q }, bus := bus', exc := { s.exc with counter1 := one', counter2 := two' } }) both

end

/-! ## The only record of a queue, moved (R93, R108, R109) -/

/-- No bag stands in any window. -/
def NoWindows (s : State) : Prop := s.divert.windows = ⟨{}, {}, {}⟩

section
variable {s t : State} {b r : BagRecord}

theorem NoWindows.at (h : NoWindows s) (k : Diverter) : windowsOf s k = {} := by rw [windowsOf, h]; cases k <;> rfl

theorem NoWindows.slated (h : NoWindows s) (k : Diverter) : slated s k = [] := by rw [Machine.slated, h.at]; rfl

theorem NoWindows.booked (h : NoWindows s) : Booked [] s := by
  refine ⟨fun k => ?_, fun k y hy => ?_, fun k y hy => ?_, fun k => ?_⟩
  · rw [h.at]
    exact ⟨fun _ => rfl, by simp [windowList], by simp [windowList], by simp [windowList]⟩
  all_goals simp_all [h.slated]

theorem latestAhead_none (h : NoWindows s) (k : Diverter) (e : Pos) : latestAhead (windowsOf s k) e = none := by
  rw [h.at]; rfl

theorem riskCheck_same (h : NoWindows s) (slot : Nat) (e : Pos) (j : Diverter) : riskCheck slot e j s = s := by
  unfold riskCheck
  rw [latestAhead_none h]
  split <;> simp_all

theorem closingChecks_same (h : NoWindows s) (slot : Nat) (e : Pos) (o : Outlet) : closingChecks slot e o s = s := by
  have same (j : Diverter) : closingCheck 9 slot e j s = s := by
    unfold closingCheck
    rw [latestAhead_none h]
    split <;> simp_all
  exact List.foldl_fixed' (fun j => by simp only [same, ite_self]) _

/-- R107: a bag sent through for its late window gains OVERRIDE_LATE. -/
theorem countThrough_late (slot : Nat) (s : State) : ∃ bus one two, countThrough .overrideLate slot s =
    { updateBag slot (fun b => { b with flags := { b.flags with overrideLate := true } }) s with
      bus := bus, exc := { s.exc with counter1 := one, counter2 := two }
      divert := { s.divert with lateDivert := s.divert.lateDivert + 1 } } := by
  unfold countThrough
  simp only
  split
  · exact ⟨_, _, _, rfl⟩
  · obtain ⟨bus, owed, one, two, counts⟩ := countEvent_counts .overrideLate (updateBag slot
      (fun b => { b with flags := { b.flags with overrideLate := true } })
      { s with divert := { s.divert with lateDivert := s.divert.lateDivert + 1 } })
    have same := countEvent_owed .overrideLate (updateBag slot
      (fun b => { b with flags := { b.flags with overrideLate := true } })
      { s with divert := { s.divert with lateDivert := s.divert.lateDivert + 1 } })
    rw [counts] at same ⊢
    obtain rfl : owed = s.owed := same
    exact ⟨_, _, _, rfl⟩

/-- R107: with no window a bag sent through, its own scheduling in progress, has its chosen outlet and its mark changed. -/
theorem sendThrough_late (h : NoWindows s) (hb : findBag s b.slot = some b) :
    sendThrough .overrideLate b.slot b.slot s = countThrough .overrideLate b.slot (updateBag b.slot (setChosen .o0) s) := by
  have clear : NoWindows (countThrough .overrideLate b.slot (updateBag b.slot (setChosen .o0) s)) := by
    obtain ⟨_, _, _, counts⟩ := countThrough_late b.slot (updateBag b.slot (setChosen .o0) s)
    rw [counts]
    exact h
  unfold sendThrough
  rw [hb]
  simp only [if_true]
  exact List.foldl_fixed' (fun j => by simp only [riskCheck_same clear, ite_self]) _

/-- A record as the Divert Scheduler and the gates may leave it: bound as it was or through, AT_RISK as it was. -/
structure Rebound (b b' : BagRecord) : Prop where
  unscheduled : b'.unscheduled = b.unscheduled
  atRisk : b'.flags.atRisk = b.flags.atRisk
  chosen : b'.chosen = b.chosen ∨ b'.chosen = some .o0

/-- The queue holds one record, so left. -/
def Alone (b : BagRecord) (s : State) : Prop := ∃ b', s.tracker.segment = [b'] ∧ Rebound b b'

theorem Alone.of_segment (h : s.tracker.segment = [b]) : Alone b s := ⟨b, h, rfl, rfl, .inl rfl⟩

/-- What the gates change is not seen. -/
theorem Alone.ungated (h : Alone b s)
    (hg : t.tracker.segment.map BagRecord.ungated = s.tracker.segment.map BagRecord.ungated) : Alone b t := by
  obtain ⟨b', hs, rebound⟩ := h
  rw [hs] at hg
  obtain ⟨c, hc, same⟩ := List.map_eq_singleton_iff.mp hg
  exact ⟨c, hc, (congrArg BagRecord.unscheduled same :).trans rebound.unscheduled,
    (congrArg (fun x : BagRecord => x.flags.atRisk) same :).trans rebound.atRisk,
    (congrArg (fun x : BagRecord => x.chosen) same :) ▸ rebound.chosen⟩

theorem findBag_only (h : s.tracker.segment = [b]) : findBag s b.slot = some b := by simp [findBag, h]

/-- R106: a window opened for a record, its fire point not reached, changes the queue by the gates alone. -/
theorem openWindow_ungated {k : Diverter} {x : DiverterConfig} (law : WindowLaw s) (hx : diverterCfg s k = some x)
    (hf : ¬ ((windowsOf s k).active.isSome = true ∧ (windowsOf s k).next.isSome = true))
    (hr : reached s.belt.d (fireFor s x b.entry) = false) :
    (openWindow k b s).tracker.segment.map BagRecord.ungated = s.tracker.segment.map BagRecord.ungated := by
  have release (n : Nat) (u : State) : (setRelease k n u).tracker.segment = u.tracker.segment := by
    unfold setRelease offerPosition releaseWindow dropWindow
    simp only
    repeat' split
    all_goals rfl
  rw [openWindow_eq, release]
  rcases setFire_unreached (withOwnWindow_aims law hx hf hr) with same | ⟨p, moved⟩
  · rw [same]; rfl
  · rw [moved]
    exact congrArg OffGates.segment (offGates_fireMoved k s.serial.window _)

/-- R105, R106: with no window the record of a queue gets one of its own or is sent through. -/
theorem placeBag_alone (h : NoWindows s) (hs : s.tracker.segment = [b]) (k : Diverter) : Alone b (placeBag k b s) := by
  unfold placeBag; split
  · exact .of_segment hs
  · rename_i x hx
    have noLast : (windowList (windowsOf s k)).getLast? = none := by rw [h.at]; rfl
    have ahead : nearestAhead s k x b.slot = none := by simp [nearestAhead, hs]
    simp only [noLast]
    unfold newWindow
    simp only [h.at, Option.isSome_none, Bool.false_eq_true, false_and, if_false, ahead, Option.any_none]
    split_ifs with late
    · rw [sendThrough_late h (findBag_only hs)]
      obtain ⟨_, _, _, counts⟩ := countThrough_late b.slot (updateBag b.slot (setChosen .o0) s)
      rw [counts]
      refine ⟨{ setChosen .o0 b with flags := { b.flags with overrideLate := true } }, ?_, rfl, rfl, .inr rfl⟩
      simp [updateBag, hs, setChosen]
    · exact (Alone.of_segment hs).ungated (openWindow_ungated h.booked.law hx (by simp [h.at]) (Bool.eq_false_iff.mpr late))

/-- R93: no window stands, or one alone that holds the record in a slot alone, unfired. -/
def OwnWindow (slot : Nat) (old : Option Outlet) (s : State) : Prop :=
  NoWindows s ∨ ∃ k w x, s.divert.windows = windowsAt k ⟨some w, none⟩ ∧ w.fired = false ∧ w.bags = [x] ∧ x.slot = slot ∧
    x.departed = false ∧ old = some (outletOfDiverter k)

/-- The record's window is gone, with what was registered for it. -/
structure Withdrawn (s t : State) : Prop where
  windows : NoWindows t
  tracker : t.tracker = s.tracker
  held : ∀ k n, s.divert.windows.get k = ⟨some n, none⟩ →
    isHeld (.firePoint k n.number) t = false ∧ isHeld (.releasePoint k n.number) t = false

theorem isHeld_withdraw (i : Item) (s : State) : isHeld i (withdraw i s) = false := by simp [isHeld, withdraw]

theorem isHeld_withdraw_other {i j : Item} (h : isHeld i s = false) : isHeld i (withdraw j s) = false := by
  simp only [isHeld, withdraw, List.any_eq_false, List.mem_filter] at h ⊢
  exact fun r hr => h r hr.1

/-- R108: the only window of a record is given up. -/
theorem withdrawEverywhere_withdrawn {slot : Nat} {old : Option Outlet} (h : OwnWindow slot old s) :
    Withdrawn s (withdrawEverywhere slot s) := by
  have empty {j : Diverter} {u : State} (hu : windowsOf u j = {}) : withdrawBag j slot u = u := by
    unfold withdrawBag windowOfBag
    rw [show u.divert.windows.get j = {} from hu]
    rfl
  rcases h with h | ⟨k, w, x, hw, hf, hx, rfl, hd, -⟩
  · have same (j : Diverter) : withdrawBag j slot s = s := empty (h.at j)
    rw [withdrawEverywhere, List.foldl_fixed' same]
    refine ⟨h, rfl, fun k n hn => ?_⟩
    have none := h.at k
    rw [windowsOf, hn] at none
    simp at none
  · have at_ (j : Diverter) : windowsOf s j = if j = k then ⟨some w, none⟩ else {} := by
      rw [windowsOf, hw, windowsAt, PerDiverter_get_set]
      cases j <;> rfl
    have drop : withdrawBag k x.slot s = dropWindow k w.number s := by
      have here : windowOfBag s k x.slot = some w := by
        rw [windowOfBag, show s.divert.windows.get k = _ from at_ k, if_pos rfl]
        simp [windowList, holdsBag, hx, hd]
      unfold withdrawBag
      rw [here]
      simp [hf, hx]
    have gone : dropWindow k w.number s = putWindows k {} (withdraw (.firePoint k w.number) (withdraw (.releasePoint k w.number) s)) := by
      unfold dropWindow
      simp [at_]
    have clear : NoWindows (withdrawBag k x.slot s) := by
      rw [drop, gone, NoWindows, putWindows]
      show s.divert.windows.set k {} = _
      rw [hw]
      cases k <;> rfl
    have all : withdrawEverywhere x.slot s = withdrawBag k x.slot s := by
      have before {j : Diverter} (hj : j ≠ k) : withdrawBag j x.slot s = s := empty ((at_ j).trans (if_neg hj))
      have after (j : Diverter) : withdrawBag j x.slot (withdrawBag k x.slot s) = withdrawBag k x.slot s := empty (clear.at j)
      cases k <;> simp [withdrawEverywhere, allDiverters, before, after]
    rw [all]
    refine ⟨clear, by rw [drop, gone]; rfl, fun j n hn => ?_⟩
    have here := (at_ j).symm.trans hn
    split_ifs at here with hj
    · obtain ⟨rfl⟩ : w = n := Option.some.inj (congrArg DiverterWindows.active here)
      rw [drop, gone, hj]
      exact ⟨isHeld_withdraw _ _, isHeld_withdraw_other (isHeld_withdraw _ s)⟩
    · exact absurd (congrArg DiverterWindows.active here) (by simp)

/-- R109: the only record of a queue moved to an outcome. -/
theorem reschedule_only {old : Option Outlet} (h : OwnWindow b.slot old s) (hs : s.tracker.segment = [b]) (m : Outlet) :
    Alone b (reschedule b.slot old m s) ∧ (m = .o0 → Withdrawn s (reschedule b.slot old m s)) := by
  have cleared := withdrawEverywhere_withdrawn h
  have queue : (withdrawEverywhere b.slot s).tracker.segment = [b] := by rw [cleared.tracker, hs]
  have behind : allDiverters.foldl (fun acc j => if passes acc b.entry m j && !passesFor acc b.entry old j then
      behindCheck b.slot b.entry b.length j acc else acc) (withdrawEverywhere b.slot s) = withdrawEverywhere b.slot s :=
    List.foldl_fixed' (fun j => by
      simp only [behindCheck_same cleared.windows.booked (fun r hr => absurd hr List.not_mem_nil), ite_self]) _
  unfold reschedule
  rw [findBag_only hs]
  simp only
  rw [closingChecks_same cleared.windows, behind]
  split
  · rename_i through
    have none : NoWindows s := h.resolve_right fun ⟨k, _, _, _, _, _, _, _, ho⟩ => by
      rw [through.2] at ho
      cases k <;> simp [outletOfDiverter] at ho
    exact ⟨.of_segment hs, fun _ => ⟨none, rfl, fun k n hn => absurd ((none.at k).symm.trans hn) (by simp)⟩⟩
  · split
    · exact ⟨.of_segment queue, fun _ => cleared⟩
    · rename_i k hk
      refine ⟨?_, fun hm => by rw [hm] at hk; exact absurd hk (by simp [diverterOfOutlet])⟩
      split
      · exact .of_segment queue
      · have nothing : nearestBehind (withdrawEverywhere b.slot s) k b.slot = Option.none := by simp [nearestBehind, queue]
        rw [oldestBehind_none cleared.windows.booked (fun r hr => absurd hr List.not_mem_nil), nothing]
        exact placeBag_alone cleared.windows queue k

/-! ## What is read of a record moved -/

/-- A calm operation leaves the tracker but for the records and the history. -/
theorem Calm.tracker_eq (h : Calm s t) (history : t.tracker.history = s.tracker.history) :
    t.tracker = { s.tracker with segment := t.tracker.segment } := by
  have same := congrArg State.tracker h.steady
  calc t.tracker = { (Machine.steady t).tracker with segment := t.tracker.segment, history := t.tracker.history } := rfl
    _ = { (Machine.steady s).tracker with segment := t.tracker.segment, history := s.tracker.history } := by rw [same, history]
    _ = { s.tracker with segment := t.tracker.segment } := rfl

theorem isHeld_offGates (h : offGates t = offGates s) {i : Item} (hi : ∀ o, i ≠ .stopPosition o) : isHeld i t = isHeld i s := by
  have seen (u : State) : isHeld i u = (u.belt.register.filter notStop).any (fun r => decide (r.item = i)) := by
    rw [isHeld, List.any_filter]
    refine congrArg (u.belt.register.any ·) (funext fun r => ?_)
    by_cases hr : r.item = i
    · have : notStop r = true := by
        unfold notStop
        split
        · rename_i o ho
          exact absurd (hr.symm.trans ho) (hi o)
        · rfl
      simp [hr, this]
    · simp [hr]
  have register : t.belt.register.filter notStop = s.belt.register.filter notStop := congrArg OffGates.register h
  rw [seen, seen, register]

/-- R89, R93: the record as it takes another outcome, its stray record made. -/
def takenOutcome (s : State) (r : BagRecord) : State :=
  strayOfOutcome (decideLines s r) r.decision.outlet r
    (updateBag r.slot (fun x => writeOutcome (decideLines s r) (clearOwnStray x)) s)

theorem takeRedecision_eq (s : State) (r : BagRecord) : takeRedecision (decideLines s r) r s =
    handChosen r.slot (reschedule r.slot r.chosen (decideLines s r).outlet (takenOutcome s r)) := rfl

/-- R89: the stray record of an outcome that assigns a reason, unless the exception outlet was the outcome before. -/
theorem takenOutcome_strays (ha : acting s = true) :
    (∀ reason, (decideLines s r).assigned = some reason → r.decision.outlet ≠ some (cfg s).exceptionOutlet →
      MadeStray (bagStray r reason (exceptionDisposition s)) s (takenOutcome s r)) ∧
    ((decideLines s r).assigned = none ∨ r.decision.outlet = some (cfg s).exceptionOutlet →
      (takenOutcome s r).exc.strays = s.exc.strays) := by
  refine ⟨fun reason hr ho => ?_, fun h => ?_⟩
  · unfold takenOutcome strayOfOutcome
    rw [hr]
    simp only
    rw [if_neg (by exact ho)]
    exact handStray_strays _ (s := updateBag r.slot _ s) ha
  · unfold takenOutcome strayOfOutcome
    split
    · rfl
    · rename_i reason hr
      rw [if_pos (by exact h.resolve_left (by simp [hr]))]
      rfl

/-- The record after the outcome is written, as a re-decision leaves it but for its scheduling. -/
theorem writeOutcome_marks (oc : Outcome) (r : BagRecord) : (writeOutcome oc (clearOwnStray r)).slot = r.slot ∧
    (writeOutcome oc (clearOwnStray r)).chosen = some oc.outlet ∧
    (writeOutcome oc (clearOwnStray r)).flags.atRisk = r.flags.atRisk := by
  unfold writeOutcome clearOwnStray setChosen
  simp only
  split <;> split_ifs <;> exact ⟨rfl, rfl, rfl⟩

/-- R89, R93, R108: the only record of a queue moved. -/
theorem redecide_moved (ha : acting s = true) (hs : s.tracker.segment = [r]) (hm : Moves s r) : Moved s r (redecide r.slot s) := by
  have tracker := (redecide_calm r.slot s).tracker_eq (redecide_strayAlone r.slot s).history
  rw [redecide_takes (findBag_only hs) hm.decided hm.differs, takeRedecision_eq] at tracker ⊢
  obtain ⟨slot, chosen, atRisk⟩ := writeOutcome_marks (decideLines s r) r
  obtain ⟨made, none⟩ := takenOutcome_strays (r := r) ha
  obtain ⟨exc, bus, hands⟩ := strayOfOutcome_hands (decideLines s r) r.decision.outlet r
    (updateBag r.slot (fun x => writeOutcome (decideLines s r) (clearOwnStray x)) s)
  have taken : (takenOutcome s r).tracker.segment = [writeOutcome (decideLines s r) (clearOwnStray r)] ∧
      (takenOutcome s r).divert = s.divert := by
    rw [takenOutcome, hands]
    exact ⟨by simp [updateBag, hs], rfl⟩
  obtain ⟨queue, divert⟩ := taken
  have window : OwnWindow (writeOutcome (decideLines s r) (clearOwnStray r)).slot r.chosen (takenOutcome s r) := by
    rw [slot, OwnWindow, NoWindows, divert]
    exact hm.window
  obtain ⟨alone, through⟩ := reschedule_only window queue (decideLines s r).outlet
  rw [slot] at alone through
  have gates := offGates_handChosen r.slot (reschedule r.slot r.chosen (decideLines s r).outlet (takenOutcome s r))
  have strays : (handChosen r.slot (reschedule r.slot r.chosen (decideLines s r).outlet (takenOutcome s r))).exc.strays =
      (takenOutcome s r).exc.strays :=
    congrArg (fun x : Remains => x.strays) ((remains_of_offGates gates).trans (remains_reschedule _ _ _ _))
  obtain ⟨r', hr, rebound⟩ := alone.ungated (congrArg OffGates.segment gates)
  have bound : r'.chosen = some (decideLines s r).outlet ∨ r'.chosen = some .o0 := chosen ▸ rebound.chosen
  refine ⟨r', hr ▸ tracker, rebound.unscheduled.trans (writeOutcome_redecided hm.decided hm.differs),
    rebound.atRisk.trans atRisk, bound, fun ho => ?_, fun reason hreason ho => ?_, fun h => strays.trans (none h)⟩
  · obtain ⟨windows, -, held⟩ := through ho
    rw [divert] at held
    refine ⟨by simpa [ho] using bound, (congrArg (fun x : OffGates => x.divert.windows) gates).trans windows, fun k n hn => ?_⟩
    obtain ⟨fire, release⟩ := held k n hn
    exact ⟨(isHeld_offGates gates (by simp)).trans fire, (isHeld_offGates gates (by simp)).trans release⟩
  · obtain ⟨list, -⟩ := made reason hreason ho
    exact ⟨_, by rw [strays, list]; rfl, rfl, rfl, rfl⟩

end

end Sys2Proof.Machine
end

section
/-! PROOFS. A frame delivered, the records it serves with a manifest part (R66, R70, R74), and what the re-decision that follows
(R90) makes of them. -/

namespace Sys2Proof.Machine

/-! ## A frame whose sender is no peer in state DOWN -/

theorem peerHeard_up {station : Byte} {s : State} (h : peerDown s station = false) : peerHeard station s = s :=
  if_neg (by simp [h])

/-- R174, R178: the frame is counted and its owner takes it; with no report owed that is all. -/
theorem exec_taken {c : Instr} {h : Header} {owner : State → State} {s : State} (ht : Taken h s) (hr : ∀ r, c ≠ .reset r)
    (hn : c ≠ .resetNAsserted) (hc : effect c = deliverFrame h owner) (ho : (owner (counted s)).owed = []) :
    exec c s = .next (drivePins (owner (counted s))) := by
  have here : addressedHere s.loader.station h.dest = true := by
    simp only [addressedHere, Bool.or_eq_true, Bool.and_eq_true, decide_eq_true_eq]
    exact ht.here
  have owned : effect c s = owner (counted s) := by
    rw [hc, deliverFrame_ready ht.listening ht.source ht.other here]
    exact congrArg owner (peerHeard_up ht.up)
  rw [exec_ready hr hn ht.ready.1, owned, settle_of_none ho]

/-! ## Records served (R66) -/

theorem given_repeatable (part : ManifestPart) : Repeatable (BagRecord.given part) (ExpectedEntry.given part) :=
  ⟨fun _ => rfl, fun _ => ⟨rfl, rfl⟩, fun _ => rfl, fun _ => rfl⟩

/-- R66: the live records of a list take a manifest part. -/
def givenTo (part : ManifestPart) (ls : List Live) (s : State) : State :=
  onLives (BagRecord.given part) (ExpectedEntry.given part) ls s

theorem copyPart_given (l : Live) (part : ManifestPart) (s : State) : copyPart l part s = givenTo part [l] s := by
  cases l <;> simp [copyPart, updateBag, updateEntry, givenTo, onLives, BagRecord.given, ExpectedEntry.given]

theorem serveLives_given (part : ManifestPart) (ls : List Live) (s : State) : serveLives part ls s = givenTo part ls s := by
  have each : (fun acc l => copyPart l part acc) = fun acc l => givenTo part [l] acc :=
    funext fun acc => funext fun l => copyPart_given l part acc
  rw [serveLives, each]
  exact onLives_foldl (given_repeatable part) ls s

theorem serveQuery_given (plate : Nat) (part : ManifestPart) (s : State) :
    serveQuery plate part s = givenTo part (waitersFor plate s) (retireQuery plate s) := serveLives_given _ _ _

theorem givenTo_givenTo (part : ManifestPart) (k l : List Live) (s : State) :
    givenTo part l (givenTo part k s) = givenTo part (k ++ l) s := onLives_onLives (given_repeatable part) k l s

/-! ## The order of a rising queue -/

/-- R2, R17: the records of a rising queue stand in distinct slots, each strictly behind those before it. -/
theorem RisingQueue.apart {s : State} (h : RisingQueue s) :
    s.tracker.segment.Pairwise (fun a b => a.slot ≠ b.slot ∧ 0 < posDiff b.entry a.entry) := by
  have distinct : (s.tracker.segment.map BagRecord.slot).Nodup := h.ordered.slots
  have ordered := List.pairwise_iff_getElem.mp h.ordered.ordered
  refine List.pairwise_iff_getElem.mpr fun i j hi hj hij => ?_
  have slots : s.tracker.segment[i].slot ≠ s.tracker.segment[j].slot := fun same =>
    absurd ((List.Nodup.getElem_inj_iff distinct (i := i) (j := j) (hi := by simpa using hi) (hj := by simpa using hj)).mp
      (by simpa using same)) (by omega)
  refine ⟨slots, ?_⟩
  obtain ⟨behind, trailing⟩ := ordered i j hi hj hij
  obtain ⟨nearA, short⟩ := h.near.entries _ (List.getElem_mem hi)
  obtain ⟨nearB, -⟩ := h.near.entries _ (List.getElem_mem hj)
  rcases hl : s.tracker.segment[i].length with _ | l
  · obtain ⟨last, -⟩ := h.ordered.opened _ (List.getElem_mem hi) hl
    rw [List.getLast?_eq_getElem?, List.getElem?_eq_some_iff] at last
    obtain ⟨hk, last⟩ := last
    have same := (List.Nodup.getElem_inj_iff distinct (i := s.tracker.segment.length - 1) (j := i) (hi := by simpa using hk)
      (hj := by simpa using hi)).mp (by simp [last])
    omega
  · have positive : l ≠ 0 := fun h0 => h.closed _ (List.getElem_mem hi) (h0 ▸ hl)
    have swapA := posDiff_swap s.belt.d s.tracker.segment[i].entry (by omega)
    have swapB := posDiff_swap s.belt.d s.tracker.segment[j].entry (by omega)
    have apart := posDiff_from s.tracker.segment[j].entry s.tracker.segment[i].entry s.belt.d (by omega) (by omega)
    have reach := trailing l hl
    rw [posDiff_trailing (short l hl) (by omega)] at reach
    omega

/-! ## The re-decision of the records served (R90) -/

/-- The bag records of a list with their new part. -/
def servedRecords (part : ManifestPart) (ls : List Live) (s : State) : List BagRecord :=
  (s.tracker.segment.filter (fun b => decide (.bag b.slot ∈ ls))).map (BagRecord.given part)

/-- R66, R90: the live records of a list take a part, and the decided ones among them are decided afresh. -/
def servedAfresh (part : ManifestPart) (ls : List Live) (s : State) : State := redecideServed ls (givenTo part ls s)

section
variable {part : ManifestPart} {ls : List Live} {s : State}

theorem givenTo_reads (part : ManifestPart) (ls : List Live) (s : State) : Reads s (givenTo part ls s) := ⟨rfl, rfl, rfl⟩

theorem servedAfresh_strayAlone : StrayAlone (givenTo part ls s) (servedAfresh part ls s) := redecideServed_strayAlone _ _

/-- The decided records among those served, in queue order. -/
def decidedServed (part : ManifestPart) (ls : List Live) (s : State) : List BagRecord :=
  (givenTo part ls s).tracker.segment.filter (fun b => isDecided b && ls.contains (.bag b.slot))

theorem servedAfresh_eq : servedAfresh part ls s = ((decidedServed part ls s).map BagRecord.slot).foldl
    (fun acc slot => redecide slot acc) (givenTo part ls s) := rfl

theorem mem_decidedServed {b : BagRecord} : b ∈ decidedServed part ls s ↔
    b ∈ (givenTo part ls s).tracker.segment ∧ isDecided b = true ∧ .bag b.slot ∈ ls := by
  simp [decidedServed]

/-- A record served is one of the queue with its new part. -/
theorem mem_givenTo {b : BagRecord} (hb : b ∈ (givenTo part ls s).tracker.segment) (hl : .bag b.slot ∈ ls) :
    b ∈ servedRecords part ls s := by
  obtain ⟨x, hx, rfl⟩ := List.mem_map.mp hb
  by_cases hs : .bag x.slot ∈ ls
  · rw [if_pos hs]
    exact List.mem_map_of_mem (List.mem_filter.mpr ⟨hx, decide_eq_true hs⟩)
  · rw [if_neg hs] at hl
    exact absurd hl hs

/-- Where no record served is decided nothing is decided afresh. -/
theorem servedAfresh_undecided (h : ∀ b ∈ s.tracker.segment, .bag b.slot ∈ ls → isDecided b = false) :
    servedAfresh part ls s = givenTo part ls s := by
  have none : decidedServed part ls s = [] := by
    refine List.eq_nil_iff_forall_not_mem.mpr fun b hb => ?_
    obtain ⟨hmem, hd, hl⟩ := mem_decidedServed.mp hb
    obtain ⟨x, hx, rfl⟩ := List.mem_map.mp (mem_givenTo hmem hl)
    obtain ⟨hx, hs⟩ := List.mem_filter.mp hx
    have := h x hx (of_decide_eq_true hs)
    exact Bool.false_ne_true (this.symm.trans hd)
  rw [servedAfresh_eq, none]
  rfl

theorem segmentSlots_givenTo : segmentSlots (givenTo part ls s) = segmentSlots s := by
  show (s.tracker.segment.map _).map BagRecord.slot = _
  rw [List.map_map]
  refine List.map_congr_left fun b _ => ?_
  simp only [Function.comp_apply]
  split <;> rfl

/-- Whether a record of the queue is among those decided afresh. -/
theorem slot_mem_decidedServed (hn : (segmentSlots s).Nodup) {b : BagRecord} (hb : b ∈ (givenTo part ls s).tracker.segment) :
    b.slot ∈ (decidedServed part ls s).map BagRecord.slot ↔ isDecided b = true ∧ .bag b.slot ∈ ls := by
  refine ⟨fun h => ?_, fun h => List.mem_map_of_mem (mem_decidedServed.mpr ⟨hb, h⟩)⟩
  obtain ⟨c, hc, same⟩ := List.mem_map.mp h
  obtain ⟨hc, hd, hl⟩ := mem_decidedServed.mp hc
  have hn' : (segmentSlots (givenTo part ls s)).Nodup := by rw [segmentSlots_givenTo]; exact hn
  obtain rfl : c = b := List.inj_on_of_nodup_map hn' hc hb same
  exact ⟨hd, hl⟩

/-- What a function that leaves undecided records makes of the records decided afresh. -/
theorem afresh_map {α : Type} (view : BagRecord → α) (hn : (segmentSlots s).Nodup) :
    (givenTo part ls s).tracker.segment.map (fun b => view (if b.slot ∈ (decidedServed part ls s).map BagRecord.slot then
      redecided s b else b)) = s.tracker.segment.map (fun b => view (if .bag b.slot ∈ ls then redecided s (b.given part) else b)) := by
  have each (b : BagRecord) (hb : b ∈ (givenTo part ls s).tracker.segment) :
      (if b.slot ∈ (decidedServed part ls s).map BagRecord.slot then redecided s b else b) =
        if .bag b.slot ∈ ls then redecided s b else b := by
    by_cases hl : .bag b.slot ∈ ls
    · rw [if_pos hl]
      split
      · rfl
      · rename_i hd
        have : isDecided b = false := by
          by_contra h
          exact hd ((slot_mem_decidedServed hn hb).mpr ⟨by simpa using h, hl⟩)
        exact (redecided_undecided this).symm
    · rw [if_neg hl, if_neg fun h => hl ((slot_mem_decidedServed hn hb).mp h).2]
  rw [List.map_congr_left fun b hb => congrArg view (each b hb)]
  show (s.tracker.segment.map _).map _ = _
  rw [List.map_map]
  refine List.map_congr_left fun b _ => ?_
  simp only [Function.comp_apply]
  by_cases hl : .bag b.slot ∈ ls
  · rw [if_pos hl, if_pos (by exact hl), if_pos hl]
  · rw [if_neg hl, if_neg hl, if_neg hl]

/-- R92 to R95: in a rising queue with no window each record served takes its outcome. -/
theorem servedAfresh_plan (h : RisingQueue s) (hw : NoWindows s) : plan (servedAfresh part ls s) =
    s.tracker.segment.map (fun b => (if .bag b.slot ∈ ls then redecided s (b.given part) else b).unscheduled) := by
  have hn : (segmentSlots s).Nodup := h.ordered.slots
  have apart : (givenTo part ls s).tracker.segment.Pairwise (fun a b => a.slot ≠ b.slot ∧ 0 < posDiff b.entry a.entry) := by
    refine List.pairwise_map.mpr (h.apart.imp fun {a b} hab => ?_)
    have same (x : BagRecord) : (if .bag x.slot ∈ ls then x.given part else x).slot = x.slot ∧
        (if .bag x.slot ∈ ls then x.given part else x).entry = x.entry := by split <;> exact ⟨rfl, rfl⟩
    rw [(same a).1, (same b).1, (same a).2, (same b).2]
    exact hab
  have windows : NoWindows (givenTo part ls s) := hw
  rw [servedAfresh_eq, redecides_afresh (pre := []) (l := decidedServed part ls s) (by rw [segmentSlots_givenTo]; exact hn) windows.booked
    (apart.sublist List.filter_sublist) (fun b _ r hr => absurd hr List.not_mem_nil)
    (fun b hb => List.mem_map_of_mem (mem_decidedServed.mp hb).1), plan, List.map_map, ← afresh_map BagRecord.unscheduled hn]
  refine List.map_congr_left fun b hb => ?_
  simp only [Function.comp_apply, planAfresh, redecided_congr (givenTo_reads part ls s)]
  by_cases hs : b.slot ∈ (decidedServed part ls s).map BagRecord.slot
  · rw [if_pos hs, if_pos (by exact hs), redecided_unscheduled]
  · rw [if_neg hs, if_neg (by exact hs)]

/-- R92, R95: where every record served keeps its outlet they stand. -/
theorem servedAfresh_stands (hn : (segmentSlots s).Nodup) (hm : movers s (servedRecords part ls s) = []) :
    ∃ bus one two, servedAfresh part ls s = { givenTo part ls s with
      tracker := { s.tracker with segment := s.tracker.segment.map (fun b =>
        if .bag b.slot ∈ ls then redecided s (b.given part) else b) }
      bus := bus, exc := { s.exc with counter1 := one, counter2 := two } } := by
  have hn' : (segmentSlots (givenTo part ls s)).Nodup := by rw [segmentSlots_givenTo]; exact hn
  obtain ⟨bus, one, two, restates⟩ := redecides_restate (l := decidedServed part ls s) hn'
    (hn'.sublist (List.filter_sublist.map _)) (fun b hb => (mem_decidedServed.mp hb).1) (fun b hb => by
      obtain ⟨hb, -, hl⟩ := mem_decidedServed.mp hb
      rw [StandsFor, decideLines_congr (givenTo_reads part ls s)]
      exact movers_nil.mp hm b (mem_givenTo hb hl))
  refine ⟨bus, one, two, ?_⟩
  rw [servedAfresh_eq, restates, restated, redecided_congr (givenTo_reads part ls s)]
  exact congrArg (fun q => { givenTo part ls s with
    tracker := { s.tracker with segment := q }, bus := bus, exc := { s.exc with counter1 := one, counter2 := two } })
    (afresh_map id hn)

theorem Moved.congr {s u t : State} {r : BagRecord} (reads : Reads s u) (hd : u.divert.windows = s.divert.windows)
    (ht : ∀ l, { u.tracker with segment := l } = { s.tracker with segment := l })
    (hx : u.exc = s.exc) (h : Moved u r t) : Moved s r t := by
  unfold Moved at *
  rw [decideLines_congr reads, redecided_congr reads, show cfg u = cfg s by rw [cfg, cfg, reads.loader], hd, hx] at h
  obtain ⟨r', tracker, rest⟩ := h
  exact ⟨r', tracker.trans (ht [r']), rest⟩

/-- R93: the only record of a queue, moved. -/
theorem servedAfresh_moved {b : BagRecord} (ha : acting s = true) (hs : s.tracker.segment = [b]) (hl : .bag b.slot ∈ ls)
    (hm : Moves s (b.given part)) : Moved s (b.given part) (servedAfresh part ls s) := by
  have queue : (givenTo part ls s).tracker.segment = [b.given part] := by
    show s.tracker.segment.map _ = _
    rw [hs]
    simp [hl]
  have decided : decidedServed part ls s = [b.given part] := by
    rw [decidedServed, queue]
    have hd : isDecided (b.given part) = true := by rw [isDecided, hm.decided]
    simp [hd, show Live.bag (b.given part).slot ∈ ls from hl]
  have moves : Moves (givenTo part ls s) (b.given part) :=
    ⟨hm.decided, by rw [decideLines_congr (givenTo_reads part ls s)]; exact hm.differs, hm.window⟩
  have moved := redecide_moved (s := givenTo part ls s) ha queue moves
  rw [servedAfresh_eq, decided]
  exact moved.congr (givenTo_reads part ls s) rfl (fun _ => rfl) rfl

end

end Sys2Proof.Machine
end

section
/-! PROOFS. O36: a new EPOCH (R75) and the walk it starts (R76). -/

namespace Sys2Proof.Machine

/-! ## The walk (R76) -/

/-- R76: what an entry of a set becomes. -/
def swept (epoch : Byte) (e : Option CacheEntry) : Option CacheEntry := if e.any (fun e => decide (e.epoch ≠ epoch)) then none else e

theorem emptyWay_entry (i j : Nat) (ways : List Way) : ((emptyWay i ways)[j]?).map Way.entry =
    if j = i then (ways[j]?).map (fun _ => none) else (ways[j]?).map Way.entry := by
  unfold emptyWay
  split
  · rename_i hi
    split
    · subst j; rw [hi]; rfl
    · rfl
  · rw [List.getElem?_mapIdx, Option.map_map]
    split
    · subst j
      exact congrArg (Option.map · _) (funext fun x => by simp)
    · rename_i hj
      refine congrArg (Option.map · _) (funext fun x => ?_)
      simp only [Function.comp_apply]
      split <;> rfl

/-- R76: one way of a set in its turn. -/
def sweepWay (epoch : Byte) (acc : List Way) (i : Nat) : List Way :=
  if (acc[i]?).any (wayOld epoch) then emptyWay i acc else acc

theorem sweepWay_entry (epoch : Byte) (i j : Nat) (ways : List Way) : ((sweepWay epoch ways i)[j]?).map Way.entry =
    if j = i then (ways[j]?).map (fun w => swept epoch w.entry) else (ways[j]?).map Way.entry := by
  unfold sweepWay
  split
  · rename_i old
    rw [emptyWay_entry]
    split
    · subst j
      rcases hw : ways[i]? with _ | w
      · rfl
      · rw [hw, Option.any_some, wayOld] at old
        exact congrArg some (if_pos old).symm
    · rfl
  · rename_i young
    split
    · subst j
      rcases hw : ways[i]? with _ | w
      · rfl
      · rw [hw, Option.any_some, wayOld] at young
        exact congrArg some (if_neg young).symm
    · rfl

/-- R76: after k turns the first k ways are swept. -/
theorem sweep_entry (epoch : Byte) (k j : Nat) (ways : List Way) : (((List.range k).foldl (sweepWay epoch) ways)[j]?).map Way.entry =
    if j < k then (ways[j]?).map (fun w => swept epoch w.entry) else (ways[j]?).map Way.entry := by
  induction k with
  | zero => rfl
  | succ k ih =>
    rw [List.range_succ, List.foldl_append, List.foldl_cons, List.foldl_nil, sweepWay_entry]
    by_cases hj : j = k
    · subst j
      rw [if_neg (lt_irrefl k)] at ih
      rw [if_pos rfl, if_pos (Nat.lt_succ_self _)]
      have same := congrArg (Option.map (swept epoch)) ih
      rwa [Option.map_map, Option.map_map] at same
    · rw [if_neg hj, ih]
      exact if_congr (by omega) rfl rfl

theorem sweepSet_entries (epoch : Byte) (ways : List Way) :
    (sweepSet epoch ways).map Way.entry = ways.map (fun w => swept epoch w.entry) := by
  refine List.ext_getElem? fun j => ?_
  have turns := sweep_entry epoch ways.length j ways
  rw [List.getElem?_map, List.getElem?_map]
  refine turns.trans ?_
  split
  · rfl
  · rename_i hj
    rw [List.getElem?_eq_none (not_lt.mp hj)]
    rfl

/-- R76: a step of the walk. -/
theorem walkStep_sweeps {i : Nat} {s : State} (hw : s.cache.walk = some i) : walkStep s = { s with cache := { s.cache with
    sets := s.cache.sets.set i (sweepSet s.cache.epoch (getSet s i)), walk := if i + 1 < 64 then some (i + 1) else none } } := by
  unfold walkStep
  rw [hw]
  rfl

theorem exec_epochWalkStep {i : Nat} {s : State} (h : Ready s) (hw : s.cache.walk = some i) (hi : i < 64) :
    ∃ ways, exec .epochWalkStep s = .next (drivePins { s with cache := { s.cache with
        sets := s.cache.sets.set i ways, walk := if i = 63 then none else some (i + 1) } }) ∧
      ways.map Way.entry = (getSet s i).map (fun w => swept s.cache.epoch w.entry) ∧
      (((getSet s i).map Way.rank).Perm [0, 1, 2, 3] → (ways.map Way.rank).Perm [0, 1, 2, 3]) := by
  refine ⟨sweepSet s.cache.epoch (getSet s i), ?_, sweepSet_entries _ _, sweepSet_perm _ _⟩
  have next : (if i + 1 < 64 then some (i + 1) else none) = if i = 63 then none else some (i + 1) := by
    by_cases last : i = 63
    · rw [last]; rfl
    · rw [if_pos (by omega), if_neg last]
  rw [exec_ready (by simp) (by simp) h.1, show effect .epochWalkStep s = walkStep s from rfl, walkStep_sweeps hw, next]
  exact congrArg _ (settle_of_none h.2.1)

/-! ## A new epoch (R75) -/

/-- The epoch alone turned over. -/
def atEpoch (e : Byte) (s : State) : State := { s with cache := { s.cache with epoch := e } }

/-- The walk begun. -/
def walking (s : State) : State := { s with cache := { s.cache with walk := some 0 } }

/-- R75: the query entries that stand in a way of the new epoch. -/
def answeredEntries (e : Byte) (s : State) : List QueryEntry := s.queries.filter (fun q => (cacheHit q.plate (atEpoch e s)).isSome)

theorem newEpoch_eq (e : Byte) (s : State) : newEpoch e s = walking (redecideServed ((answeredEntries e s).flatMap QueryEntry.waiters)
    (((answeredEntries e s).map QueryEntry.plate).foldl (fun acc p => serveFromCache p acc) (atEpoch e s))) := rfl

theorem serveFromCache_keeps (p : Nat) (s : State) : (serveFromCache p s).cache = s.cache ∧ (serveFromCache p s).owed = s.owed := by
  unfold serveFromCache
  split
  · exact ⟨rfl, rfl⟩
  · rw [serveQuery_given]
    exact ⟨rfl, rfl⟩

/-- R75: a new epoch touches no way, and no report is owed for it. -/
theorem newEpoch_keeps (e : Byte) (s : State) :
    (newEpoch e s).cache = { s.cache with epoch := e, walk := some 0 } ∧ (newEpoch e s).owed = s.owed := by
  have served (l : List Nat) (u : State) : (l.foldl (fun acc p => serveFromCache p acc) u).cache = u.cache ∧
      (l.foldl (fun acc p => serveFromCache p acc) u).owed = u.owed := by
    have both := view_foldl (view := fun x : State => (x.cache, x.owed)) (f := fun acc p => serveFromCache p acc)
      (fun a p => Prod.ext (serveFromCache_keeps p a).1 (serveFromCache_keeps p a).2) l u
    exact Prod.mk.inj both
  have alone := redecideServed_strayAlone ((answeredEntries e s).flatMap QueryEntry.waiters)
    (((answeredEntries e s).map QueryEntry.plate).foldl (fun acc p => serveFromCache p acc) (atEpoch e s))
  obtain ⟨cache, owed⟩ := served ((answeredEntries e s).map QueryEntry.plate) (atEpoch e s)
  rw [newEpoch_eq]
  refine ⟨?_, alone.owed.trans owed⟩
  show { (redecideServed _ _).cache with walk := some 0 } = _
  rw [alone.cache, cache]
  rfl

theorem exec_epochReceived {h : Header} {e : Byte} {s : State} (ht : Taken h s) (ha : acting s = true) (he : e ≠ s.cache.epoch) :
    exec (.epochReceived h e) s = .next (drivePins (newEpoch e (counted s))) := by
  have turns : epochTaken e (counted s) = newEpoch e (counted s) := if_pos ⟨ha, he⟩
  rw [← turns]
  refine exec_taken ht (by simp) (by simp) rfl ?_
  rw [turns]
  exact (newEpoch_keeps e (counted s)).2.trans ht.ready.2.1

theorem redecideServed_nil (s : State) : redecideServed [] s = s := by simp [redecideServed]

/-- No way of an epoch holds the plate of a query entry. -/
def NotHeld (e : Byte) (s : State) (q : QueryEntry) : Prop :=
  ∀ w ∈ getSet s (q.plate % 64), ∀ x, w.entry = some x → x.plate = q.plate → x.epoch ≠ e

theorem NotHeld.noHit {e : Byte} {s : State} {q : QueryEntry} (h : NotHeld e s q) : cacheHit q.plate (atEpoch e s) = none :=
  cacheHit_none (s := atEpoch e s) h

/-- R75: with no entry to serve the epoch turns over and the walk begins. -/
theorem newEpoch_none {e : Byte} {s : State} (h : ∀ q ∈ s.queries, NotHeld e s q) : newEpoch e s = walking (atEpoch e s) := by
  have none : answeredEntries e s = [] := List.filter_eq_nil_iff.mpr fun q hq => by simp [(h q hq).noHit]
  rw [newEpoch_eq, none]
  exact congrArg walking (redecideServed_nil _)

section
variable {e : Byte} {s : State} {q : QueryEntry} {pre post : List QueryEntry} {l : Live} {rank : Nat} {part : ManifestPart}

/-- The epoch turned over, with one query entry gone. -/
def servedOut (e : Byte) (queries : List QueryEntry) (s : State) : State := { atEpoch e s with queries := queries }

/-- R75, step 2: one entry is served, its waiter decided afresh where it is decided. -/
theorem newEpoch_serves (hq : s.queries = pre ++ q :: post) (others : ∀ y ∈ pre ++ post, NotHeld e s y ∧ y.plate ≠ q.plate)
    (hl : q.waiters = [l]) (hold : (getSet s (q.plate % 64)).filter (wayHolds q.plate) = [⟨rank, some ⟨q.plate, part, e⟩⟩]) :
    newEpoch e s = walking (servedAfresh part [l] (servedOut e (pre ++ post) s)) := by
  obtain ⟨i, hit⟩ := cacheHit_of_filter (s := atEpoch e s) hold rfl
  have pres := fun y (hy : y ∈ pre) => others y (List.mem_append_left post hy)
  have posts := fun y (hy : y ∈ post) => others y (List.mem_append_right pre hy)
  have one : answeredEntries e s = [q] := by
    rw [answeredEntries, hq, List.filter_append, List.filter_cons, if_pos (by rw [hit]; rfl),
      List.filter_eq_nil_iff.mpr fun y hy => by simp [(pres y hy).1.noHit],
      List.filter_eq_nil_iff.mpr fun y hy => by simp [(posts y hy).1.noHit]]
    rfl
  have entry : queryFor q.plate (atEpoch e s) = some q := by
    show s.queries.find? _ = _
    rw [hq, List.find?_append, List.find?_eq_none.mpr fun y hy => by simpa using (pres y hy).2]
    simp
  have retired : retireQuery q.plate (atEpoch e s) = servedOut e (pre ++ post) s := by
    have left : s.queries.filter (fun y => decide (y.plate ≠ q.plate)) = pre ++ post := by
      rw [hq, List.filter_append, List.filter_cons, if_neg (by simp),
        List.filter_eq_self.mpr fun y hy => decide_eq_true (pres y hy).2,
        List.filter_eq_self.mpr fun y hy => decide_eq_true (posts y hy).2]
    rw [retireQuery, servedOut, ← left]
    rfl
  have serves : serveFromCache q.plate (atEpoch e s) = givenTo part [l] (servedOut e (pre ++ post) s) := by
    rw [serveFromCache, hit]
    simp only
    rw [serveQuery_given, waitersFor, entry, retired, Option.map_some, hl]
    rfl
  rw [newEpoch_eq, one, List.flatMap_singleton, hl]
  exact congrArg (fun u => walking (redecideServed [l] u)) serves

end

/-! ## O36 -/

theorem movers_congr {s t : State} (h : Reads s t) (l : List BagRecord) : movers t l = movers s l := by
  rw [movers, movers, decideLines_congr h]

theorem servedRecords_one {part : ManifestPart} {slot : Nat} {b : BagRecord} {s : State} (hn : (segmentSlots s).Nodup)
    (hb : findBag s slot = some b) : servedRecords part [.bag slot] s = [b.given part] := by
  obtain ⟨rfl, mem⟩ := findBag_slot hb
  have distinct : s.tracker.segment.Nodup := hn.of_map
  have one : s.tracker.segment.filter (fun x => decide (.bag x.slot ∈ [Live.bag b.slot])) = [b] := by
    rw [List.filter_congr fun x hx => show _ = (x == b) by
      by_cases hs : x.slot = b.slot
      · simp [findBag_unique hn hb hx hs]
      · simp [hs, show x ≠ b from fun h => hs (h ▸ rfl)], List.filter_beq, List.count_eq_one_of_mem distinct mem]
    rfl
  rw [servedRecords, one]
  rfl

/-- The records of one slot. -/
theorem map_bag_mem (f : BagRecord → BagRecord) (slot : Nat) (l : List BagRecord) :
    l.map (fun b => if .bag b.slot ∈ [Live.bag slot] then f b else b) = l.map (fun b => if b.slot = slot then f b else b) :=
  List.map_congr_left fun b _ => if_congr (by simp) rfl rfl

/-- A bag record or an expected entry served alone, not decided. -/
theorem servedAfresh_entry (source id : Byte) (part : ManifestPart) (s : State) : servedAfresh part [.entry source id] s =
    { s with handoff := { s.handoff with expected := s.handoff.expected.map (fun x =>
      if x.source = source ∧ x.id = id then { x with part := some part, status := .resolved } else x) } } := by
  rw [servedAfresh_undecided fun b _ hb => by simp at hb]
  simp [givenTo, onLives, ExpectedEntry.given]

theorem servedAfresh_bag {slot : Nat} {b : BagRecord} {s : State} (part : ManifestPart) (hb : findBag s slot = some b)
    (hd : isDecided b = false) : servedAfresh part [.bag slot] s = { s with tracker := { s.tracker with
      segment := s.tracker.segment.map (fun x => if x.slot = slot then x.given part else x) } } := by
  have given : givenTo part [.bag slot] s = { s with tracker := { s.tracker with
      segment := s.tracker.segment.map (fun x => if x.slot = slot then x.given part else x) } } := by
    simp [givenTo, onLives]
  rw [servedAfresh, redecideServed_undecided, given]
  rw [given]
  exact ⟨b.given part, findBag_updateBag_self (f := BagRecord.given part) hb, hd⟩

theorem servedAfresh_bag_stands {slot : Nat} {part : ManifestPart} {s : State} (hn : (segmentSlots s).Nodup)
    (hm : movers s (servedRecords part [.bag slot] s) = []) : (servedAfresh part [.bag slot] s).divert = s.divert ∧
      (servedAfresh part [.bag slot] s).tracker = { s.tracker with
        segment := s.tracker.segment.map (fun x => if x.slot = slot then redecided s (x.given part) else x) } := by
  obtain ⟨_, _, _, stands⟩ := servedAfresh_stands hn hm
  rw [stands, map_bag_mem (fun x => redecided s (x.given part))]
  exact ⟨rfl, rfl⟩

/-- Settles O36: the epoch turns over by `newEpoch_none` or `newEpoch_serves`, and a step of the walk is `exec_epochWalkStep`. -/
theorem epochTurnsOverByTheWalk : Obligations.EpochTurnsOverByTheWalk := by
  refine ⟨fun h e s ht ha => ⟨fun he => ?_, fun he => ⟨fun none => ?_, ⟨_, exec_epochReceived ht ha he, ?_⟩,
    fun pre q post l rank part hq others hl hold => ?_⟩⟩, fun i s h hw hi _ => exec_epochWalkStep h hw hi⟩
  · have same : epochTaken e (counted s) = counted s := if_neg fun h => h.2 he
    refine (exec_taken ht (by simp) (by simp) rfl ?_).trans (by rw [same])
    rw [same]
    exact ht.ready.2.1
  · rw [exec_epochReceived ht ha he, newEpoch_none (s := counted s) none]
    rfl
  · exact (newEpoch_keeps e (counted s)).1
  · have serves := newEpoch_serves (s := counted s) hq others hl hold
    rw [exec_epochReceived ht ha he, serves]
    refine ⟨?_, ?_, ?_⟩
    · rintro source id rfl
      rw [servedAfresh_entry]
      rfl
    · rintro slot b rfl hb hd
      rw [servedAfresh_bag part (s := servedOut e (pre ++ post) (counted s)) hb hd]
      rfl
    · rintro slot b rfl hb hn hd -
      have reads : Reads s (servedOut e (pre ++ post) (counted s)) := ⟨rfl, rfl, rfl⟩
      have one := servedRecords_one (part := part) (s := servedOut e (pre ++ post) (counted s)) hn hb
      refine ⟨_, rfl, servedAfresh_strayAlone.queries, fun hm => ?_, fun hs hm => ?_⟩
      · rw [← movers_congr reads, ← one] at hm
        have stands := servedAfresh_bag_stands (s := servedOut e (pre ++ post) (counted s)) hn hm
        rw [redecided_congr reads] at stands
        exact stands
      · obtain ⟨rfl, -⟩ := findBag_slot hb
        have moves : Moves (servedOut e (pre ++ post) (counted s)) (b.given part) :=
          ⟨hm.decided, by rw [decideLines_congr reads]; exact hm.differs, hm.window⟩
        have moved := servedAfresh_moved (ls := [.bag b.slot]) (s := servedOut e (pre ++ post) (counted s)) ha hs (by simp) moves
        exact moved.congr reads rfl (fun _ => rfl) rfl

end Sys2Proof.Machine
end

section
/-! PROOFS. An offer of a manifest part to the cache (R62, R63, R59, R81). -/

namespace Sys2Proof.Machine

/-! ## An installation (R63) -/

/-- The index of the first element that passes a test. -/
theorem findIdx?_append_cons {α : Type} {test : α → Bool} {pre post : List α} {x : α} (hp : ∀ y ∈ pre, test y = false)
    (hx : test x = true) : (pre ++ x :: post).findIdx? test = some pre.length := by
  rw [List.findIdx?_append, List.findIdx?_eq_none_iff.mpr hp, List.findIdx?_cons, if_pos hx]
  simp

/-- A list changed by index, where the indices fall short of one that is treated apart. -/
theorem mapIdx_of_ne {α : Type} {i k : Nat} {f g : α → α} {l : List α} (h : ∀ j < l.length, j + k ≠ i) :
    l.mapIdx (fun j x => if j + k = i then f x else g x) = l.map g := by
  refine List.ext_getElem (by simp) fun j h1 h2 => ?_
  rw [List.getElem_mapIdx, List.getElem_map, if_neg (h j (by simpa using h1))]

/-- R59, R63: an entry written into a way. -/
theorem writeWay_written (pre post : List Way) (r : Nat) (x : Option CacheEntry) (e : CacheEntry) :
    writeWay pre.length e (pre ++ ⟨r, x⟩ :: post) = written pre r e post := by
  have modified : (pre ++ ⟨r, x⟩ :: post).modify pre.length (fun w => { w with entry := some e }) = pre ++ ⟨r, some e⟩ :: post := by
    rw [List.modify_eq_set_getElem?]
    simp
  have before := mapIdx_of_ne (i := pre.length) (k := 0) (f := fun w : Way => { w with rank := 0 })
    (g := fun w => if w.rank < r then { w with rank := w.rank + 1 } else w) (l := pre) (fun j hj => by omega)
  have behind := mapIdx_of_ne (i := pre.length) (k := pre.length + 1) (f := fun w : Way => { w with rank := 0 })
    (g := fun w => if w.rank < r then { w with rank := w.rank + 1 } else w) (l := post) (fun j _ => by omega)
  rw [writeWay, modified, touch, List.getElem?_append_right (le_refl _), Nat.sub_self, List.getElem?_cons_zero]
  simp only
  rw [List.mapIdx_append, List.mapIdx_cons]
  simp only [Nat.add_zero, Nat.zero_add, if_true, Nat.add_right_comm _ 1] at before behind ⊢
  rw [before]
  simp only [Nat.add_assoc] at behind ⊢
  rw [behind]
  rfl

theorem highestRank_eq {test : Way → Bool} {ways : List Way} {r i : Nat} (hr : r ≤ 3)
    (above : ∀ w ∈ ways, test w = true → w.rank ≤ r) (at_ : ways.findIdx? (fun w => test w && w.rank == r) = some i) :
    highestRank test ways = some i := by
  have none (n : Nat) (hn : r < n) : ways.findIdx? (fun w => test w && w.rank == n) = none :=
    List.findIdx?_eq_none_iff.mpr fun w hw => by
      by_contra h
      simp only [Bool.not_eq_false, Bool.and_eq_true, beq_iff_eq] at h
      exact absurd (above w hw h.1) (by omega)
  interval_cases r <;> simp [highestRank, List.findSome?, at_, none]

theorem highestRank_none {test : Way → Bool} {ways : List Way} (h : ∀ w ∈ ways, test w = false) : highestRank test ways = none := by
  have none (n : Nat) : ways.findIdx? (fun w => test w && w.rank == n) = none :=
    List.findIdx?_eq_none_iff.mpr fun w hw => by simp [h w hw]
  simp [highestRank, List.findSome?, none]

section
variable {epoch : Byte} {e : CacheEntry} {ways : List Way}

theorem installInSet_held {pre post : List Way} {r : Nat} {old : CacheEntry} (hp : old.plate = e.plate)
    (hn : ∀ w ∈ pre, wayHolds e.plate w = false) : installInSet epoch e (pre ++ ⟨r, some old⟩ :: post) =
      if (1 ≤ (e.part.revision - old.part.revision).toNat ∧ (e.part.revision - old.part.revision).toNat ≤ 32767) ∨
        old.epoch ≠ epoch then written pre r e post else pre ++ ⟨r, some old⟩ :: post := by
  rw [installInSet, findIdx?_append_cons hn (by simp [wayHolds, hp])]
  simp only [List.getElem?_append_right (le_refl _), Nat.sub_self, List.getElem?_cons_zero, Option.bind_some, writeWay_written]
  refine if_congr ?_ rfl rfl
  simp [newer]

theorem installInSet_chosen {i : Nat} (hn : ∀ w ∈ ways, wayHolds e.plate w = false) (hc : chooseWay epoch ways = some i) :
    installInSet epoch e ways = writeWay i e ways := by
  rw [installInSet, List.findIdx?_eq_none_iff.mpr hn]
  simp only [hc]

theorem chooseWay_full (hf : ∀ w ∈ ways, w.entry ≠ none) : chooseWay epoch ways =
    (highestRank (wayOld epoch) ways).or (ways.findIdx? (fun w => w.rank == 3)) := by
  rw [chooseWay, List.findIdx?_eq_none_iff.mpr fun w hw => Option.isNone_eq_false_iff.mpr (Option.isSome_iff_ne_none.mpr (hf w hw))]
  simp only
  split <;> simp_all

/-- R63: what an installation makes of a set with ranks 0 to 3. -/
theorem installInSet_installs (hr : ∀ w ∈ ways, w.rank ≤ 3) : Installs epoch e ways (installInSet epoch e ways) := by
  refine ⟨?_, ?_, ?_, ?_⟩
  · rintro pre r old post rfl hp hn
    exact installInSet_held hp hn
  · rintro hn pre r post rfl hf
    have chosen : chooseWay epoch (pre ++ ⟨r, none⟩ :: post) = some pre.length := by
      rw [chooseWay, findIdx?_append_cons (fun w hw => Option.isNone_eq_false_iff.mpr (Option.isSome_iff_ne_none.mpr (hf w hw)))
        (by rfl)]
    rw [installInSet_chosen hn chosen, writeWay_written]
  · rintro hn pre r x post rfl hx hold
    have old : wayOld epoch ⟨r, some x⟩ = true := by simp [wayOld, hx]
    have others (w : Way) (hw : w ∈ pre ++ post) (ho : wayOld epoch w = true) := hold w hw ho
    have highest : highestRank (wayOld epoch) (pre ++ ⟨r, some x⟩ :: post) = some pre.length := by
      refine highestRank_eq (hr ⟨r, some x⟩ (by simp)) (fun w hw ho => ?_) (findIdx?_append_cons (fun w hw => ?_) (by simp [old]))
      · rcases List.mem_append.mp hw with hw | hw
        · exact (others w (List.mem_append_left _ hw) ho).le
        · rcases List.mem_cons.mp hw with rfl | hw
          · exact le_refl _
          · exact (others w (List.mem_append_right _ hw) ho).le
      · by_contra h
        simp only [Bool.not_eq_false, Bool.and_eq_true, beq_iff_eq] at h
        exact absurd (others w (List.mem_append_left _ hw) h.1) (by omega)
    rw [installInSet_chosen (fun w hw => (hn w hw).1) (by rw [chooseWay_full fun w hw => (hn w hw).2, highest]; rfl), writeWay_written]
  · rintro hn pre x post rfl hlow
    have three : (pre ++ ⟨3, some x⟩ :: post).findIdx? (fun w => w.rank == 3) = some pre.length :=
      findIdx?_append_cons (fun w hw => by simpa using (hlow w (List.mem_append_left _ hw)).ne) (by rfl)
    rw [installInSet_chosen (fun w hw => (hn w hw).1) (by
      rw [chooseWay_full fun w hw => (hn w hw).2.1, highestRank_none fun w hw => (hn w hw).2.2, three]; rfl), writeWay_written]

end

/-! ## The interest of a junction (R62, R81) -/

/-- R81: the configured reach of an outlet joined to a set. -/
def joinReach (c : JunctionConfig) (acc : DestSet) (o : Outlet) : DestSet :=
  match c.outlets.get o with
  | none => acc
  | some x => acc ||| x.reach

theorem interestMask_eq (c : JunctionConfig) : interestMask c = allOutlets.foldl (joinReach c) 0 := rfl

theorem foldl_joinReach (c : JunctionConfig) (d : Nat) (l : List Outlet) (acc : DestSet) :
    (l.foldl (joinReach c) acc).getLsbD d = true ↔
      acc.getLsbD d = true ∨ ∃ o ∈ l, ∃ x, c.outlets.get o = some x ∧ x.reach.getLsbD d = true := by
  induction l generalizing acc with
  | nil => simp
  | cons o l ih =>
    rw [List.foldl_cons, ih, joinReach]
    rcases ho : c.outlets.get o with _ | x <;> simp [ho, or_assoc]

theorem interestMask_iff (c : JunctionConfig) (d : Nat) : (interestMask c).getLsbD d = true ↔
    ∃ o x, c.outlets.get o = some x ∧ x.reach.getLsbD d = true := by
  have all (o : Outlet) : o ∈ allOutlets := by cases o <;> decide
  rw [interestMask_eq, foldl_joinReach]
  simp [all]

/-- R62: an offer considered changes the cache alone. -/
def offered (e : CacheEntry) (requested : Bool) (s : State) : RouteCache :=
  if e.epoch = s.cache.epoch ∧ (requested = true ∨ (interestMask (cfg s)).getLsbD e.part.destination = true) then
    { s.cache with sets := s.cache.sets.set (setOf e.plate) (installInSet s.cache.epoch e (getSet s (setOf e.plate))) }
  else s.cache

theorem considerOffer_eq (e : CacheEntry) (requested : Bool) (s : State) :
    considerOffer e requested s = { s with cache := offered e requested s } := by
  unfold considerOffer offered
  split <;> rfl

/-- R62, R63: what an offer makes of the cache. -/
theorem offered_taken {plate : Nat} {part : ManifestPart} {epoch : Byte} {requested : Bool} {s t : State} (h : RankLaw s.cache)
    (ht : t.cache = offered ⟨plate, part, epoch⟩ requested s) : OfferTaken plate part epoch requested s t := by
  have interest : OfInterest s requested part ↔
      (requested = true ∨ (interestMask (cfg s)).getLsbD part.destination = true) := or_congr Iff.rfl (interestMask_iff _ _).symm
  have ranks : ∀ w ∈ getSet s (plate % 64), w.rank ≤ 3 := fun w hw => by
    have := (getSet_perm s (plate % 64) h).subset (List.mem_map_of_mem hw)
    simp at this
    omega
  refine ⟨fun he hi => ⟨_, installInSet_installs (e := ⟨plate, part, epoch⟩) ranks, ?_⟩, fun hf => ?_⟩
  · rw [ht, offered, if_pos ⟨he, interest.mp hi⟩]
    rfl
  · rw [ht, offered, if_neg fun hc => hf.elim (fun he => he hc.1) fun hi => hi (interest.mpr hc.2)]

end Sys2Proof.Machine
end

section
/-! PROOFS. O37 and O38: an ANSWER (R67, R70) and an UPDATE (R72 to R74). -/

namespace Sys2Proof.Machine

/-! ## The live records a frame serves (R70, R74) -/

/-- The waiters of a plate's entry, then the live records that hold the plate and pass a test once these have the part. -/
def servedBy (plate : Nat) (part : ManifestPart) (test : LiveView → Bool) (s : State) : List Live :=
  waitersFor plate s ++ livesHolding plate test (givenTo part (waitersFor plate s) (retireQuery plate s))

section
variable {plate : Nat} {part : ManifestPart} {test : LiveView → Bool} {s : State}

/-- A live record stands on the waiter list of a plate. -/
def waitsFor (plate : Nat) (s : State) (l : Live) : Bool := (queryFor plate s).any (fun q => decide (l ∈ q.waiters))

theorem waitsFor_iff {l : Live} : waitsFor plate s l = true ↔ l ∈ waitersFor plate s := by
  rw [waitsFor, waitersFor]
  rcases queryFor plate s with _ | q <;> simp

theorem mem_liveRecords_bag {b : BagRecord} (hb : b ∈ s.tracker.segment) : Live.bag b.slot ∈ liveRecords s :=
  List.mem_append_left _ (List.mem_map_of_mem (List.mem_map_of_mem hb))

theorem mem_liveRecords_entry {e : ExpectedEntry} (he : e ∈ s.handoff.expected) : Live.entry e.source e.id ∈ liveRecords s :=
  List.mem_append_right _ (List.mem_map.mpr ⟨e, he, rfl⟩)

/-- R70, R74: a bag record is served where it waits, or holds the plate and passes the test. -/
theorem bag_mem_servedBy (hn : (segmentSlots s).Nodup) {b : BagRecord} (hb : b ∈ s.tracker.segment) :
    .bag b.slot ∈ servedBy plate part test s ↔
      .bag b.slot ∈ waitersFor plate s ∨ (b.plate = plate ∧ test ⟨b.plate, b.part, b.status, b.created⟩ = true) := by
  rw [servedBy, List.mem_append]
  by_cases hw : .bag b.slot ∈ waitersFor plate s
  · simp only [hw, true_or]
  · let u := givenTo part (waitersFor plate s) (retireQuery plate s)
    have mem : b ∈ u.tracker.segment := List.mem_map.mpr ⟨b, hb, if_neg hw⟩
    have view : viewLive u (.bag b.slot) = some ⟨b.plate, b.part, b.status, b.created⟩ := by
      rw [viewLive, findBag_of_mem (s := u) (by rw [segmentSlots_givenTo]; exact hn) mem]
      rfl
    refine or_congr_right (List.mem_filter.trans ?_)
    rw [view]
    simpa using fun _ _ => mem_liveRecords_bag mem

theorem entry_mem_servedBy (hp : PairLaw s.handoff) {e : ExpectedEntry} (he : e ∈ s.handoff.expected) :
    .entry e.source e.id ∈ servedBy plate part test s ↔
      .entry e.source e.id ∈ waitersFor plate s ∨ (e.plate = plate ∧ test ⟨e.plate, e.part, e.status, e.created⟩ = true) := by
  rw [servedBy, List.mem_append]
  by_cases hw : .entry e.source e.id ∈ waitersFor plate s
  · simp only [hw, true_or]
  · let u := givenTo part (waitersFor plate s) (retireQuery plate s)
    have mem : e ∈ u.handoff.expected := List.mem_map.mpr ⟨e, he, if_neg hw⟩
    have pairs : PairLaw u.handoff := by
      show ((s.handoff.expected.map _).map _).Nodup
      rw [List.map_map]
      refine (List.map_congr_left fun x _ => ?_) ▸ hp
      simp only [Function.comp_apply]
      split <;> rfl
    have view : viewLive u (.entry e.source e.id) = some ⟨e.plate, e.part, e.status, e.created⟩ := by
      rw [viewLive, findEntry_of_mem pairs mem]
      rfl
    refine or_congr_right (List.mem_filter.trans ?_)
    rw [view]
    simpa using fun _ _ => mem_liveRecords_entry mem

end

/-! ## What a frame gives (GivesPart) -/

/-- The frame counted, the entry of its plate gone, the cache as it may be. -/
def retired (plate : Nat) (c : RouteCache) (s : State) : State := { retireQuery plate (counted s) with cache := c }

section
variable {plate : Nat} {part : ManifestPart} {ls : List Live} {c c' : RouteCache} {s : State}

theorem retired_reads (plate : Nat) (c : RouteCache) (s : State) : Reads s (retired plate c s) := ⟨rfl, rfl, rfl⟩

theorem RisingQueue.retired (h : RisingQueue s) : RisingQueue (retired plate c s) :=
  ⟨⟨h.ordered.idle, h.ordered.slots, h.ordered.ordered, h.ordered.floor, h.ordered.empty, h.ordered.opened⟩,
    ⟨h.near.entries, h.near.floor⟩, h.closed⟩

/-- What stands where no record served is moved. -/
theorem servedAfresh_standing (hn : (segmentSlots s).Nodup) (hm : movers s (servedRecords part ls s) = []) :
    (servedAfresh part ls s).tracker = { s.tracker with segment := s.tracker.segment.map (fun b =>
      if .bag b.slot ∈ ls then redecided s (b.given part) else b) } ∧
    (servedAfresh part ls s).divert = s.divert ∧ (servedAfresh part ls s).flow = s.flow ∧
    (servedAfresh part ls s).belt = s.belt ∧ (servedAfresh part ls s).drive = s.drive ∧
    (servedAfresh part ls s).routes = s.routes := by
  obtain ⟨_, _, _, stands⟩ := servedAfresh_stands hn hm
  rw [stands]
  exact ⟨rfl, rfl, rfl, rfl, rfl, rfl⟩

/-- R66, R70, R73, R74, R90: the records that a frame serves, named by two tests. -/
theorem servedAfresh_gives {bags : BagRecord → Bool} {entries : ExpectedEntry → Bool} (hn : (segmentSlots s).Nodup)
    (ha : acting s = true) (hb : ∀ b ∈ s.tracker.segment, .bag b.slot ∈ ls ↔ bags b = true)
    (he : ∀ e ∈ s.handoff.expected, .entry e.source e.id ∈ ls ↔ entries e = true) :
    GivesPart plate part bags entries s
      (drivePins { servedAfresh part ls (retired plate c s) with cache := c' }) := by
  have reads := retired_reads plate c s
  have alone : StrayAlone (givenTo part ls (retired plate c s)) (servedAfresh part ls (retired plate c s)) :=
    servedAfresh_strayAlone
  have expected : s.handoff.expected.map (fun e => if .entry e.source e.id ∈ ls then e.given part else e) =
      s.handoff.expected.map (fun e => if entries e then e.given part else e) :=
    List.map_congr_left fun e hmem => if_congr (he e hmem) rfl rfl
  have records : servedRecords part ls (retired plate c s) = (s.tracker.segment.filter bags).map (BagRecord.given part) := by
    refine congrArg _ (List.filter_congr fun b hmem => ?_)
    rw [Bool.eq_iff_iff, decide_eq_true_eq]
    exact hb b hmem
  have queue (f : BagRecord → BagRecord) : s.tracker.segment.map (fun b => if .bag b.slot ∈ ls then f b else b) =
      s.tracker.segment.map (fun b => if bags b then f b else b) :=
    List.map_congr_left fun b hmem => if_congr (hb b hmem) rfl rfl
  refine ⟨alone.queries, alone.handoff.trans (congrArg (fun l => { s.handoff with expected := l }) expected), fun h => ?_,
    fun hr hw _ => ?_, fun _ hm => ?_, fun _ b hs hbag hm => ?_⟩
  · have same := servedAfresh_undecided (part := part) (s := retired plate c s) fun b hmem hl => h b hmem ((hb b hmem).mp hl)
    rw [same]
    refine ⟨congrArg (fun l => { s.tracker with segment := l }) (queue (BagRecord.given part)), ?_⟩
    simp only [drivePins, givenTo, onLives, retired, retireQuery, counted]
  · have planned := servedAfresh_plan (part := part) (ls := ls) (s := retired plate c s) hr.retired hw
    rw [redecided_congr reads] at planned
    refine planned.trans (List.map_congr_left fun b hmem => ?_)
    exact congrArg BagRecord.unscheduled (if_congr (hb b hmem) rfl rfl)
  · rw [← movers_congr reads, ← records] at hm
    obtain ⟨tracker, rest⟩ := servedAfresh_standing (s := retired plate c s) hn hm
    rw [redecided_congr reads] at tracker
    exact ⟨tracker.trans (congrArg (fun l => { s.tracker with segment := l }) (queue _)), rest⟩
  · have moves : Moves (retired plate c s) (b.given part) :=
      ⟨hm.decided, by rw [decideLines_congr reads]; exact hm.differs, hm.window⟩
    have moved := servedAfresh_moved (ls := ls) (s := retired plate c s) ha hs ((hb b (by rw [hs]; exact List.mem_singleton.mpr rfl)).mpr hbag) moves
    exact moved.congr reads rfl (fun _ => rfl) rfl

end

/-! ## An ANSWER (R67, R70) -/

section
variable {h : Header} {s : State} {plate : Nat} {part : ManifestPart} {epoch : Byte}

/-- R70: an ANSWER of kind found. -/
theorem answerFound_eq (plate : Nat) (part : ManifestPart) (epoch : Byte) (s : State) : answerFound plate part epoch s =
    considerOffer ⟨plate, part, epoch⟩ (queryFor plate s).isSome
      (servedAfresh part (servedBy plate part answerApplies s) (retireQuery plate s)) := by
  unfold answerFound
  simp only [serveQuery_given, serveLives_given, givenTo_givenTo]
  rfl

/-- R72 to R74: an UPDATE. -/
theorem applyUpdate_eq (plate : Nat) (part : ManifestPart) (epoch : Byte) (s : State) : applyUpdate plate part epoch s =
    servedAfresh part (servedBy plate part (updateApplies part) s) { retireQuery plate s with
      cache := offered ⟨plate, part, epoch⟩ (queryFor plate s).isSome s } := by
  unfold applyUpdate
  simp only [serveQuery_given, serveLives_given, considerOffer_eq]
  rw [servedAfresh, servedBy, ← givenTo_givenTo]
  rfl

end

/-- R62: an offer reads the cache and the configuration alone. -/
theorem offered_congr {e : CacheEntry} {r : Bool} {s t : State} (hc : t.cache = s.cache) (hl : t.loader = s.loader) :
    offered e r t = offered e r s := by
  unfold offered getSet
  rw [hc, cfg, cfg, hl]

/-- R70: what an ANSWER of kind found makes of the part. -/
theorem answerFound_served (plate : Nat) (part : ManifestPart) (epoch : Byte) (s : State) : answerFound plate part epoch s =
    { servedAfresh part (servedBy plate part answerApplies s) (retireQuery plate s) with
      cache := offered ⟨plate, part, epoch⟩ (queryFor plate s).isSome s } := by
  have alone : StrayAlone (givenTo part (servedBy plate part answerApplies s) (retireQuery plate s)) _ := servedAfresh_strayAlone
  rw [answerFound_eq, considerOffer_eq, offered_congr (s := s) alone.cache alone.reads.loader]

/-- The two tests that name the records an ANSWER serves, and those an UPDATE serves. -/
theorem answerApplies_iff (v : LiveView) : answerApplies v = true ↔ v.status = .unresolved := decide_eq_true_iff

theorem updateApplies_iff (part : ManifestPart) (v : LiveView) : updateApplies part v = true ↔
    (decide (v.status = .unresolved) || (decide (v.status = .resolved) && v.part.any (newerThan part))) = true := by
  unfold updateApplies
  rcases v with ⟨_, _ | old, _ | _ | _ | _, _⟩ <;> simp [newer, newerThan]

/-- R67: the answer of an unknown plate. -/
theorem failQuery_unknown (plate : Nat) (s : State) :
    (failQuery plate s).tracker = { s.tracker with segment := s.tracker.segment.map (fun x =>
      if waitsFor plate s (.bag x.slot) then { x with status := .unresolved } else x) } ∧
    (failQuery plate s).handoff = { s.handoff with expected := s.handoff.expected.map (fun e =>
      if waitsFor plate s (.entry e.source e.id) then { e with status := .unresolved } else e) } ∧
    (failQuery plate s).queries = s.queries.filter (fun x => decide (x.plate ≠ plate)) ∧
    (failQuery plate s).cache = s.cache ∧ (failQuery plate s).owed = s.owed := by
  rcases hq : queryFor plate s with _ | q
  · have none : ∀ x ∈ s.queries, decide (x.plate ≠ plate) = true := by
      simpa [queryFor, List.find?_eq_none] using hq
    rw [List.filter_eq_self.mpr none]
    simp [failQuery, waitsFor, hq]
  · obtain ⟨bus, one, two, fails⟩ := failQuery_fails hq
    rw [fails]
    simp only [waitsFor, hq, Option.any_some, decide_eq_true_eq]
    exact ⟨rfl, rfl, rfl, rfl, rfl⟩

/-- Settles O37: an ANSWER found is `answerFound_served`, one of an unknown plate `failQuery_unknown`; any other is no answer. -/
theorem answerServesTheWaiter : Obligations.AnswerServesTheWaiter := by
  intro h p s ht ha hplate hn hp
  have acts : acting (counted s) = true ∧ plateValid p.plate.toNat = true := ⟨ha, hplate⟩
  have owed : s.owed = [] := ht.ready.2.1
  have delivered (ho : (answerTaken p (counted s)).owed = []) :
      exec (.answerReceived h p) s = .next (drivePins (answerTaken p (counted s))) := exec_taken ht (by simp) (by simp) rfl ho
  refine ⟨fun part hf hpart hr _ => ?_, fun hf _ => ?_, fun h0 h1 => ?_⟩
  · have taken : answerTaken p (counted s) = answerFound p.plate.toNat part p.epoch (counted s) := by
      unfold answerTaken
      rw [if_pos acts, if_pos hf, hpart]
    rw [taken, answerFound_served] at delivered
    refine ⟨_, delivered (servedAfresh_strayAlone.owed.trans owed), offered_taken hr rfl,
      servedAfresh_gives (c := s.cache) hn ha (fun b hb => ?_) (fun e he => ?_)⟩
    · rw [bag_mem_servedBy (s := counted s) hn hb, answerApplies_iff, Bool.or_eq_true, decide_eq_true_eq]
      exact or_congr_left waitsFor_iff.symm
    · rw [entry_mem_servedBy (s := counted s) hp he, answerApplies_iff, Bool.or_eq_true, decide_eq_true_eq]
      exact or_congr_left waitsFor_iff.symm
  · have taken : answerTaken p (counted s) = failQuery p.plate.toNat (counted s) := by
      unfold answerTaken
      rw [if_pos acts, if_neg (by rw [hf]; decide), if_pos hf]
    obtain ⟨tracker, handoff, queries, cache, same⟩ := failQuery_unknown p.plate.toNat (counted s)
    have calm := (failQuery_calm p.plate.toNat (counted s)).trans (drivePins_calm _)
    rw [taken] at delivered
    exact ⟨_, delivered (same.trans owed), tracker, handoff, queries, cache, calm.steady⟩
  · have taken : answerTaken p (counted s) = counted s := by
      unfold answerTaken
      rw [if_pos acts]
      by_cases hf : p.found = 1
      · rw [if_pos hf, h1 hf]
      · rw [if_neg hf, if_neg h0]
    rw [taken] at delivered
    exact delivered owed

/-- A record waits, or holds the plate and passes the test. -/
theorem served_iff {waiting holds : Prop} [Decidable holds] {waits passes : Bool} (h : waits = true ↔ waiting) :
    waiting ∨ (holds ∧ passes = true) ↔ (waits || (decide holds && passes)) = true := by
  rw [Bool.or_eq_true, Bool.and_eq_true, decide_eq_true_eq, h]

/-- Settles O38: an UPDATE is `applyUpdate_eq`, its offer `offered_taken`, what it gives `servedAfresh_gives`. -/
theorem updateReplacesOlderParts : Obligations.UpdateReplacesOlderParts := by
  intro h p s ht ha hplate hn hp
  have acts : acting (counted s) = true ∧ plateValid p.plate.toNat = true := ⟨ha, hplate⟩
  have owed : s.owed = [] := ht.ready.2.1
  have delivered (ho : (updateTaken p (counted s)).owed = []) :
      exec (.updateReceived h p) s = .next (drivePins (updateTaken p (counted s))) := exec_taken ht (by simp) (by simp) rfl ho
  refine ⟨fun part hpart hr _ => ?_, fun hpart => ?_⟩
  · have taken : updateTaken p (counted s) = applyUpdate p.plate.toNat part p.epoch (counted s) := by
      unfold updateTaken
      rw [if_pos acts, hpart]
    have alone {ls : List Live} {u : State} : StrayAlone (givenTo part ls u) (servedAfresh part ls u) := servedAfresh_strayAlone
    rw [taken, applyUpdate_eq] at delivered
    refine ⟨_, delivered (alone.owed.trans owed), offered_taken hr alone.cache, ?_⟩
    refine servedAfresh_gives (c := offered ⟨p.plate.toNat, part, p.epoch⟩ (queryFor p.plate.toNat s).isSome (counted s))
      (c' := (servedAfresh part (servedBy p.plate.toNat part (updateApplies part) (counted s)) _).cache) hn ha
      (fun b hb => ?_) (fun e he => ?_)
    · rw [bag_mem_servedBy (s := counted s) hn hb, updateApplies_iff]
      exact served_iff waitsFor_iff
    · rw [entry_mem_servedBy (s := counted s) hp he, updateApplies_iff]
      exact served_iff waitsFor_iff
  · have taken : updateTaken p (counted s) = counted s := by
      unfold updateTaken
      rw [if_pos acts, hpart]
    rw [taken] at delivered
    exact delivered owed

end Sys2Proof.Machine
end

section
/-! PROOFS. O45: the best candidate (R87, R79), a TERMINAL outlet before any PEER one, the first in the preferred order among equals. -/

namespace Sys2Proof.Machine

/-! ## What makes an outlet a candidate (R79, R87) -/

/-- R87, R79: an outlet that may take a RESOLVED bag, by the fields of its row. -/
def Usable (s : State) (p : ManifestPart) (o : Outlet) : Prop :=
  o ≠ (cfg s).exceptionOutlet ∧ ∃ r, row s o = some r ∧
    r.reach.getLsbD p.destination = true ∧ (r.narrow = true → p.cls ≠ .oversize) ∧
    (r.kind = .terminal → r.closed = false) ∧
    (r.kind = .peer → r.learned.getLsbD p.destination = true ∧ peerDown s r.peer = false)

section
variable {s : State} {p : ManifestPart} {o o' : Outlet}

/-- R79: an empty learned reach holds no destination, so a row that reaches one is blocked by its peer's state alone. -/
theorem candidate_iff : candidate s p o = true ↔ Usable s p o := by
  unfold candidate Usable
  rcases row s o with _ | r
  · simp
  · simp only [Option.some.injEq, exists_eq_left']
    cases hk : r.kind with
    | terminal =>
      simp only [effectiveReach, blockedRow, hk]
      by_cases hn : r.narrow = true <;> simp [hn] <;> tauto
    | peer =>
      have reaches : r.learned.getLsbD p.destination = true → r.learned ≠ 0 := fun h h0 => by simp [h0] at h
      simp only [effectiveReach, blockedRow, hk]
      by_cases hn : r.narrow = true <;> simp [hn] <;> tauto

theorem mem_candidates : o ∈ candidates s p ↔ o ∈ (cfg s).preferred ∧ Usable s p o := by
  rw [candidates, List.mem_filter, candidate_iff]

/-! ## The choice among the candidates (R87) -/

/-- The first of a list to pass a test stands before every other that passes it. -/
theorem mem_before_of_find? {α : Type} {test : α → Bool} {pre post : List α} {x y : α}
    (h : (pre ++ y :: post).find? test = some x) (hy : test y = true) (hne : y ≠ x) : x ∈ pre := by
  rw [List.find?_append] at h
  rcases hp : pre.find? test with _ | z
  · rw [hp, Option.none_or, List.find?_cons_of_pos hy] at h
    exact absurd (Option.some.inj h) hne
  · rw [hp, Option.some_or] at h
    exact Option.some.inj h ▸ List.mem_of_find?_eq_some hp

/-- R87: a TERMINAL candidate, or any where no candidate is TERMINAL; in either case the first of its sort in the order. -/
theorem bestCandidate_cases (h : bestCandidate s p = some o) :
    (isTerminal s o = true ∧ (candidates s p).find? (isTerminal s) = some o) ∨
    ((∀ x ∈ candidates s p, isTerminal s x = false) ∧ (candidates s p).find? (fun _ => true) = some o) := by
  unfold bestCandidate at h
  split at h
  · rename_i x hx
    obtain rfl := Option.some.inj h
    exact .inl ⟨List.find?_some hx, hx⟩
  · rename_i hnone
    refine .inr ⟨fun x hx => by simpa using List.find?_eq_none.mp hnone x hx, ?_⟩
    rcases hc : candidates s p with _ | ⟨x, l⟩
    · rw [hc] at h; cases h
    · rw [hc] at h; exact h

/-- R87: of two usable outlets the TERMINAL one is preferred, of two of a kind the one earlier in the order. -/
theorem bestCandidate_first {pre post : List Outlet} (h : bestCandidate s p = some o)
    (hp : (cfg s).preferred = pre ++ o' :: post) (hu : Usable s p o') (hne : o' ≠ o) :
    (isTerminal s o = true ∧ isTerminal s o' = false) ∨ (isTerminal s o = isTerminal s o' ∧ o ∈ pre) := by
  have split : candidates s p = pre.filter (candidate s p) ++ o' :: post.filter (candidate s p) := by
    rw [candidates, hp, List.filter_append, List.filter_cons_of_pos (candidate_iff.mpr hu)]
  rcases bestCandidate_cases h with ⟨terminal, found⟩ | ⟨none, found⟩ <;> rw [split] at found
  · cases ht : isTerminal s o' with
    | false => exact .inl ⟨terminal, rfl⟩
    | true => exact .inr ⟨terminal, (List.mem_filter.mp (mem_before_of_find? found ht hne)).1⟩
  · have o_mem : o ∈ candidates s p := split ▸ List.mem_of_find?_eq_some found
    have o'_mem : o' ∈ candidates s p := by rw [split]; simp
    exact .inr ⟨(none o o_mem).trans (none o' o'_mem).symm, (List.mem_filter.mp (mem_before_of_find? found rfl hne)).1⟩

theorem bestCandidate_mem (h : bestCandidate s p = some o) : o ∈ candidates s p := by
  rcases bestCandidate_cases h with ⟨-, found⟩ | ⟨-, found⟩ <;> exact List.mem_of_find?_eq_some found

theorem bestCandidate_exists (h : candidates s p ≠ []) : ∃ o, bestCandidate s p = some o := by
  unfold bestCandidate
  split
  · exact ⟨_, rfl⟩
  · exact ⟨_, List.head?_eq_some_head h⟩

end

/-- Settles O45: the candidates are the usable outlets of the preferred order, and the best of them is the first of its sort. -/
theorem bestCandidateIsTerminalFirst : Obligations.BestCandidateIsTerminalFirst := by
  intro p s
  refine ⟨fun o h => ?_, fun ⟨o, ho, usable⟩ => ?_⟩
  · obtain ⟨preferred, usable⟩ := mem_candidates.mp (bestCandidate_mem h)
    exact ⟨preferred, usable, fun pre post o' hp _ hu hne => bestCandidate_first h hp hu hne⟩
  · exact bestCandidate_exists (List.ne_nil_of_mem (mem_candidates.mpr ⟨ho, usable⟩))

end Sys2Proof.Machine
end

section
/-! PROOFS. What the gates and the Divert Scheduler can do (R97 to R111, R145 to R150), said once as chains of four kinds of change,
and what every such chain offers to the transmit queue: ALERT frames alone. -/

namespace Sys2Proof.Machine

/-! ## The changes -/

/-- A record without what the gates and the Divert Scheduler write: its chosen outlet, its place in their work, its marks. -/
def BagRecord.unplaced (b : BagRecord) : BagRecord :=
  { b with chosen := none, gatePassed := none, tracking := .entering, confirm := none
           flags := { b.flags with atRisk := false, overrideLate := false } }

/-- A change of a record that the gates or the Divert Scheduler may make; none makes a record DECIDED. -/
def Places (f : BagRecord → BagRecord) : Prop :=
  ∀ b, (f b).unplaced = b.unplaced ∧ ((f b).tracking = .decided → b.tracking = .decided)

/-- What the gates and the Divert Scheduler write beside the records. -/
structure Workings where
  drive : Drive
  register : List Registration
  divert : Divert
  serial : Serial
  gates : PerOutlet (Option Gate)
  overruns : Count

def withWorkings (w : Workings) (s : State) : State :=
  { s with drive := w.drive, belt := { s.belt with register := w.register }, divert := w.divert, serial := w.serial
           flow := { s.flow with gates := w.gates, overruns := w.overruns } }

/-- A chain of changes by the gates and the Divert Scheduler: events counted, records placed, and their own workings. -/
inductive Schedules (s : State) : State → Prop where
  | refl : Schedules s s
  | event {t : State} (h : Schedules s t) (e : CounterEvent) : Schedules s (countEvent e t)
  | record {t : State} (h : Schedules s t) (slot : Nat) {f : BagRecord → BagRecord} (hf : Places f) :
      Schedules s (updateBag slot f t)
  | workings {t : State} (h : Schedules s t) (w : Workings) : Schedules s (withWorkings w t)

namespace Schedules

variable {s t u : State}

theorem trans (h : Schedules s t) (k : Schedules t u) : Schedules s u := by
  induction k with
  | refl => exact h
  | event _ e ih => exact ih.event e
  | record _ slot hf ih => exact ih.record slot hf
  | workings _ w ih => exact ih.workings w

/-- A change of the workings alone. -/
theorem work (w : Workings) (h : t = withWorkings w s) : Schedules s t := h ▸ .workings .refl w

theorem ite {p : Prop} [Decidable p] (ht : Schedules s t) (hu : Schedules s u) : Schedules s (if p then t else u) := by
  split
  · exact ht
  · exact hu

theorem iteElse {p : Prop} [Decidable p] (h : Schedules s t) (k : Schedules t u) : Schedules s (if p then t else u) :=
  .ite h (h.trans k)

theorem iteThen {p : Prop} [Decidable p] (h : Schedules s t) (k : Schedules t u) : Schedules s (if p then u else t) :=
  .ite (h.trans k) h

theorem foldl {α : Type} {f : State → α → State} (h : ∀ a x, Schedules a (f a x)) (l : List α) (s : State) :
    Schedules s (l.foldl f s) := by
  induction l generalizing s with
  | nil => exact .refl
  | cons x l ih => exact (h s x).trans (ih _)

end Schedules

theorem countEvent_schedules (e : CounterEvent) (s : State) : Schedules s (countEvent e s) := .event .refl e

theorem updateBag_schedules (slot : Nat) {f : BagRecord → BagRecord} (s : State) (hf : Places f) :
    Schedules s (updateBag slot f s) :=
  .record .refl slot hf

theorem withdraw_schedules (i : Item) (s : State) : Schedules s (withdraw i s) := .work ⟨_, _, _, _, _, _⟩ rfl

theorem holdPosition_schedules (i : Item) (p : Pos) (s : State) : Schedules s (holdPosition i p s) := .work ⟨_, _, _, _, _, _⟩ rfl

theorem offerPosition_schedules (i : Item) (p : Pos) {report : State → State} (s : State) (h : ∀ t, Schedules t (report t)) :
    Schedules s (offerPosition i p report s) :=
  .ite ((withdraw_schedules i s).trans (h _)) ((withdraw_schedules i s).trans (holdPosition_schedules i p _))

/-! ## The gates (R145 to R150) -/

theorem putReason_schedules (x : StopReason) (b : Bool) (s : State) : Schedules s (putReason x b s) := .work ⟨_, _, _, _, _, _⟩ rfl

theorem putGate_schedules (o : Outlet) (g : Option Gate) (s : State) : Schedules s (putGate o g s) := .work ⟨_, _, _, _, _, _⟩ rfl

theorem syncStops_schedules (s : State) : Schedules s (syncStops s) := by
  unfold syncStops
  simp only
  exact .trans (.ite (putReason_schedules _ _ s) .refl) (.trans (.ite (putReason_schedules _ _ _) .refl)
    (.trans (.ite .refl (putReason_schedules _ _ _)) (.ite .refl (putReason_schedules _ _ _))))

theorem passOverrun_schedules (o : Outlet) (slot : Nat) (s : State) : Schedules s (passOverrun o slot s) := by
  have passed : Schedules s (updateBag slot (fun b => { b with gatePassed := some o }) s) :=
    updateBag_schedules slot s (fun _ => ⟨rfl, id⟩)
  exact (passed.trans (.work ⟨_, _, _, _, _, _⟩ rfl)).event _

theorem takeUp_schedules (o : Outlet) (g : Gate) (l : List BagRecord) (s : State) : Schedules s (takeUp o g l s) := by
  induction l generalizing s with
  | nil => exact (withdraw_schedules _ s).trans (putGate_schedules _ _ _)
  | cons b rest ih =>
    unfold takeUp
    split
    · split
      · exact ih s
      · exact .ite .refl (.ite ((passOverrun_schedules o b.slot s).trans (ih _))
          ((withdraw_schedules _ s).trans ((holdPosition_schedules _ _ _).trans (putGate_schedules _ _ _))))
    · exact ih s

theorem determineStop_schedules (o : Outlet) (s : State) : Schedules s (determineStop o s) := by
  unfold determineStop; split
  · exact .refl
  · exact (takeUp_schedules _ _ _ s).trans (syncStops_schedules _)

theorem refreshGate_schedules (o : Outlet) (s : State) : Schedules s (refreshGate o s) := by
  unfold refreshGate; split
  · exact .iteThen .refl ((putGate_schedules _ _ s).trans (determineStop_schedules _ _))
  · exact .ite (syncStops_schedules s)
      ((withdraw_schedules _ s).trans ((putGate_schedules _ _ _).trans (syncStops_schedules _)))

theorem refreshGates_schedules (s : State) : Schedules s (refreshGates s) := .foldl (fun a o => refreshGate_schedules o a) _ s

theorem latchGate_schedules (o : Outlet) (s : State) : Schedules s (latchGate o s) := by
  unfold latchGate; split
  · exact .refl
  · exact .ite ((putGate_schedules _ _ s).trans (syncStops_schedules _)) .refl

theorem recomputeStop_schedules (o : Outlet) (s : State) : Schedules s (recomputeStop o s) := by
  unfold recomputeStop
  repeat' split
  any_goals exact .refl
  exact (putGate_schedules _ _ s).trans (offerPosition_schedules _ _ _ (latchGate_schedules o))

theorem fireMoved_schedules (k : Diverter) (w : Nat) (s : State) : Schedules s (fireMoved k w s) := by
  unfold fireMoved
  simp only
  repeat' split
  any_goals exact .refl
  exact recomputeStop_schedules _ s

theorem stoppersGone_schedules (l : List Nat) (o : Outlet) (s : State) : Schedules s (stoppersGone l o s) := by
  unfold stoppersGone; split
  · exact .refl
  · exact .ite (determineStop_schedules _ s) .refl

theorem handChosen_schedules (slot : Nat) (s : State) : Schedules s (handChosen slot s) := by
  unfold handChosen; split
  · exact .refl
  · rename_i b _
    have gone : Schedules s (allOutlets.foldl (fun acc o => if b.chosen = some o then acc else stoppersGone [slot] o acc) s) :=
      .foldl (fun a o => .ite .refl (stoppersGone_schedules _ _ a)) _ s
    simp only
    split
    · exact gone
    · exact gone.trans (determineStop_schedules _ _)

/-! ## The windows (R97 to R111) -/

theorem updateWindow_schedules (k : Diverter) (n : Nat) (f : Window → Window) (s : State) : Schedules s (updateWindow k n f s) :=
  .work ⟨_, _, _, _, _, _⟩ rfl

theorem putWindows_schedules (k : Diverter) (w : DiverterWindows) (s : State) : Schedules s (putWindows k w s) :=
  .work ⟨_, _, _, _, _, _⟩ rfl

theorem dropWindow_schedules (k : Diverter) (n : Nat) (s : State) : Schedules s (dropWindow k n s) := by
  have withdrawn := (withdraw_schedules (.releasePoint k n) s).trans (withdraw_schedules (.firePoint k n) _)
  exact .ite (withdrawn.trans (putWindows_schedules _ _ _)) (.ite (withdrawn.trans (putWindows_schedules _ _ _)) withdrawn)

theorem passReached_schedules (k : Diverter) (slot : Nat) (s : State) : Schedules s (passReached k slot s) := by
  unfold passReached; split
  · exact .refl
  · refine updateBag_schedules slot s fun b => ?_
    split
    · exact ⟨rfl, id⟩
    · exact ⟨rfl, id⟩

theorem bagFires_schedules (k : Diverter) (slot : Nat) (s : State) : Schedules s (bagFires k slot s) := by
  unfold bagFires; split
  · refine .trans (updateBag_schedules slot s fun b => ?_) (offerPosition_schedules _ _ _ (passReached_schedules k slot))
    split
    · exact ⟨rfl, fun h => by cases h⟩
    · exact ⟨rfl, id⟩
  · exact .refl

theorem fireWindow_schedules (k : Diverter) (n : Nat) (s : State) : Schedules s (fireWindow k n s) := by
  unfold fireWindow; split
  · exact .refl
  · exact .ite .refl ((updateWindow_schedules _ _ _ s).trans
      (Schedules.trans (.foldl (fun a slot => bagFires_schedules k slot a) _ _) (stoppersGone_schedules _ _ _)))

theorem setFire_schedules (k : Diverter) (n : Nat) (s : State) : Schedules s (setFire k n s) := by
  unfold setFire; split
  · split
    · exact (updateWindow_schedules _ _ _ s).trans
        ((offerPosition_schedules _ _ _ (fireWindow_schedules k n)).trans (fireMoved_schedules _ _ _))
    · exact .refl
  · exact .refl

theorem setRelease_schedules (k : Diverter) (n : Nat) (s : State) : Schedules s (setRelease k n s) := by
  unfold setRelease; split
  · simp only
    split
    · exact (updateWindow_schedules _ _ _ s).trans (withdraw_schedules _ _)
    · exact (updateWindow_schedules _ _ _ s).trans (offerPosition_schedules _ _ _ (dropWindow_schedules k n))
  · exact .refl

theorem withdrawBag_schedules (k : Diverter) (slot : Nat) (s : State) : Schedules s (withdrawBag k slot s) := by
  unfold withdrawBag; split
  · exact .refl
  · exact .ite .refl (.ite (dropWindow_schedules _ _ s)
      (((updateWindow_schedules _ _ _ s).iteElse (setFire_schedules _ _ _)).iteElse (setRelease_schedules _ _ _)))

theorem withdrawEverywhere_schedules (slot : Nat) (s : State) : Schedules s (withdrawEverywhere slot s) :=
  .foldl (fun a k => withdrawBag_schedules k slot a) _ s

theorem markRisk_schedules (slot : Nat) (s : State) : Schedules s (markRisk slot s) := by
  unfold markRisk; split
  · exact .refl
  · have marked : Schedules s (updateBag slot (fun b => { b with flags := { b.flags with atRisk := true } }) s) :=
      updateBag_schedules slot s (fun _ => ⟨rfl, id⟩)
    exact .ite .refl (marked.trans (.work ⟨_, _, _, _, _, _⟩ rfl))

theorem countThrough_schedules (c : ThroughCause) (slot : Nat) (s : State) : Schedules s (countThrough c slot s) := by
  have counts (d : Divert) : Schedules s { s with divert := d } := .work ⟨_, _, _, _, _, _⟩ rfl
  unfold countThrough; split
  · exact (counts _).event _
  · exact (counts _).event _
  · have marked (u : State) : Schedules u (updateBag slot (fun b => { b with flags := { b.flags with overrideLate := true } }) u) :=
      updateBag_schedules slot u (fun _ => ⟨rfl, id⟩)
    exact .ite ((counts _).trans (marked _)) (((counts _).trans (marked _)).event _)

theorem riskCheck_schedules (slot : Nat) (e : Pos) (j : Diverter) (s : State) : Schedules s (riskCheck slot e j s) := by
  unfold riskCheck; split
  · exact .ite (markRisk_schedules _ s) .refl
  · exact .refl

theorem sendThrough_schedules (c : ThroughCause) (busy slot : Nat) (s : State) : Schedules s (sendThrough c busy slot s) := by
  unfold sendThrough; split
  · exact .refl
  · rename_i b _
    have checks (u : State) : Schedules u (allDiverters.foldl (fun acc j =>
        if passes acc b.entry .o0 j && !passesFor acc b.entry b.chosen j then riskCheck slot b.entry j acc else acc) u) :=
      .foldl (fun a j => .ite (riskCheck_schedules _ _ _ a) .refl) _ _
    have through : Schedules s (updateBag slot (setChosen .o0) s) := updateBag_schedules slot s (fun _ => ⟨rfl, id⟩)
    exact through.trans
      ((countThrough_schedules c slot _).trans ((checks _).iteElse (handChosen_schedules _ _)))

theorem closingCheck_schedules (fuel slot : Nat) (e : Pos) (j : Diverter) (s : State) :
    Schedules s (closingCheck fuel slot e j s) := by
  induction fuel generalizing s with
  | zero => exact .refl
  | succ fuel ih =>
    unfold closingCheck; split
    · exact .ite (.ite (markRisk_schedules _ s)
        ((withdrawBag_schedules _ _ s).trans ((sendThrough_schedules _ _ _ _).trans (ih _)))) .refl
    · exact .refl

theorem closingChecks_schedules (slot : Nat) (e : Pos) (o : Outlet) (s : State) : Schedules s (closingChecks slot e o s) :=
  .foldl (fun a j => .ite (closingCheck_schedules 9 slot e j a) .refl) _ s

theorem joinWindow_schedules (k : Diverter) (w : Window) (b : BagRecord) (s : State) : Schedules s (joinWindow k w b s) :=
  ((updateWindow_schedules _ _ _ s).trans (setRelease_schedules _ _ _)).iteThen (bagFires_schedules _ _ _)

theorem openWindow_schedules (k : Diverter) (b : BagRecord) (s : State) : Schedules s (openWindow k b s) := by
  have own : Schedules s (withOwnWindow k b s) := .work ⟨_, _, _, _, _, _⟩ rfl
  exact own.trans ((setFire_schedules k s.serial.window _).trans (setRelease_schedules k s.serial.window _))

theorem newWindow_schedules (k : Diverter) (x : DiverterConfig) (b : BagRecord) (s : State) : Schedules s (newWindow k x b s) :=
  .ite (sendThrough_schedules _ _ _ s) (.ite (sendThrough_schedules _ _ _ s)
    (.ite (sendThrough_schedules _ _ _ s) (openWindow_schedules _ _ s)))

theorem placeBag_schedules (k : Diverter) (b : BagRecord) (s : State) : Schedules s (placeBag k b s) := by
  unfold placeBag; split
  · exact .refl
  · simp only
    split
    · exact .ite (.ite (joinWindow_schedules _ _ _ s) (sendThrough_schedules _ _ _ s)) (newWindow_schedules _ _ _ s)
    · exact newWindow_schedules _ _ _ s

theorem behindCheck_schedules (slot : Nat) (e : Pos) (len : Option Nat) (j : Diverter) (s : State) :
    Schedules s (behindCheck slot e len j s) := by
  unfold behindCheck; split
  · exact .ite (.ite (markRisk_schedules _ s) ((withdrawBag_schedules _ _ s).trans (sendThrough_schedules _ _ _ _))) .refl
  · exact .refl

/-- R109: a record is moved. -/
theorem reschedule_schedules (slot : Nat) (old : Option Outlet) (m : Outlet) (s : State) :
    Schedules s (reschedule slot old m s) := by
  unfold reschedule; split
  · exact .refl
  · rename_i b _
    have checks (u : State) : Schedules u (allDiverters.foldl (fun acc j => if passes acc b.entry m j && !passesFor acc b.entry old j
        then behindCheck slot b.entry b.length j acc else acc) u) :=
      .foldl (fun a j => .ite (behindCheck_schedules _ _ _ _ a) .refl) _ _
    have checked := (withdrawEverywhere_schedules slot s).trans ((closingChecks_schedules slot b.entry m _).trans (checks _))
    simp only
    split
    · exact .refl
    · split
      · exact checked
      · split
        · exact checked
        · exact checked.trans (.ite (sendThrough_schedules _ _ _ _) (.ite (sendThrough_schedules _ _ _ _) (placeBag_schedules _ _ _)))

/-! ## What such a chain leaves of the records -/

/-- Every record comes from one in its slot with the same decision, which was DECIDED if it is. -/
theorem Schedules.follows {s t : State} (h : Schedules s t) : ∀ c ∈ t.tracker.segment,
    ∃ b ∈ s.tracker.segment, b.slot = c.slot ∧ c.unplaced = b.unplaced ∧ (c.tracking = .decided → b.tracking = .decided) := by
  induction h with
  | refl => exact fun c hc => ⟨c, hc, rfl, rfl, id⟩
  | event _ e ih =>
    obtain ⟨_, _, _, _, counts⟩ := countEvent_counts e _
    rw [counts]
    exact ih
  | workings _ w ih => exact ih
  | @record t _ slot f hf ih =>
    rw [updateBag_tracker]
    intro c hc
    obtain ⟨b, hb, rfl⟩ := List.mem_map.mp hc
    obtain ⟨a, ha, slots, same, decided⟩ := ih b hb
    split
    · obtain ⟨placed, kept⟩ := hf b
      exact ⟨a, ha, slots.trans (congrArg BagRecord.slot placed :).symm, placed.trans same, decided ∘ kept⟩
    · exact ⟨a, ha, slots, same, decided⟩

/-! ## What it offers to the transmit queue -/

/-- At most `k` frames are offered beside an ALERT for each counter that freezes; no queued frame above class 8 leaves, and the
remembered reach stands. -/
structure Tells (k : Nat) (s t : State) : Prop where
  pays : Pays k s t
  frames : ∀ q ∈ s.bus.waiting, queuedClass q < 8 → q ∈ t.bus.waiting
  reach : t.flow.reach = s.flow.reach

namespace Tells

variable {s t u : State} {j k : Nat}

theorem refl (s : State) : Tells 0 s s := ⟨.refl s, fun _ hq _ => hq, rfl⟩

theorem trans (h : Tells j s t) (g : Tells k t u) : Tells (j + k) s u :=
  ⟨h.pays.trans g.pays, fun q hq hc => g.frames q (h.frames q hq hc) hc, g.reach.trans h.reach⟩

theorem mono (h : Tells j s t) (hk : j ≤ k) : Tells k s t := ⟨h.pays.mono hk, h.frames, h.reach⟩

/-- A change beside the transmit queue, the reports owed, the event counters and the remembered reach. -/
theorem beside (h : (t.bus, t.owed, t.exc, t.flow.reach) = (s.bus, s.owed, s.exc, s.flow.reach)) : Tells 0 s t := by
  obtain ⟨hb, ho, hx, hr⟩ := by simpa only [Prod.mk.injEq] using h
  exact ⟨.beside hb ho (by rw [hx]), fun q hq _ => by rw [hb]; exact hq, hr⟩

end Tells

theorem replaces_low {q x : Queued} (h : 5 ≤ queuedClass q) : replaces q.dest q.payload x = false := by
  obtain ⟨dest, p, tag⟩ := q
  cases p
  case hold => simp [queuedClass, payloadClass] at h
  case path => simp [queuedClass, payloadClass] at h
  all_goals simp [replaces]

/-- R168: an offered frame of class 7 or 8 displaces one of class 8 at most. -/
theorem offerFrame_frames {q x : Queued} {s : State} (hq : 7 ≤ queuedClass q) (hx : x ∈ s.bus.waiting) (hc : queuedClass x < 8) :
    x ∈ (offerFrame q s).bus.waiting := by
  have alone : s.bus.waiting.any (replaces q.dest q.payload) = false :=
    List.any_eq_false.mpr fun y _ => by rw [replaces_low (by omega)]; exact Bool.false_ne_true
  unfold offerFrame
  rw [alone]
  simp only [Bool.false_eq_true, if_false]
  split
  · exact hx
  split
  · exact List.mem_append_left _ hx
  split
  · refine List.mem_append_left _ ?_
    rw [displaceFrame_bus, dropYoungest, List.mem_reverse]
    exact (List.mem_eraseP_of_neg (by simp; omega)).mpr (List.mem_reverse.mpr hx)
  · unfold refuseFrame
    simp only
    split
    · exact hx
    · split
      · unfold setPending
        split
        · exact hx
        · exact hx
      · exact hx

theorem broadcast_tells {p : Payload} (hp : 7 ≤ payloadClass p) (s : State) : Tells 1 s (broadcast p s) := by
  refine ⟨broadcast_pays p s, fun x hx hc => ?_, ?_⟩
  · unfold broadcast
    split
    · exact offerFrame_frames (by exact hp) hx hc
    · exact hx
  · obtain ⟨_, _, offers⟩ := broadcast_offers p s
    rw [offers]

/-- R160, R161: an event counted offers ALERT frames alone. -/
theorem countEvent_tells (e : CounterEvent) (s : State) : Tells 0 s (countEvent e s) := by
  have alert (n : Byte) (x y : EventCounter) (u : State) : ∀ q ∈ u.bus.waiting, queuedClass q < 8 →
      q ∈ (alertFreeze n x y u).bus.waiting := by
    unfold alertFreeze
    split
    · exact (broadcast_tells (by exact show 7 ≤ 8 by decide) u).frames
    · exact fun _ hq _ => hq
  refine ⟨countEvent_pays e s, fun q hq hc => ?_, ?_⟩
  · unfold countEvent
    split
    · exact alert _ _ _ _ q (alert _ _ _ _ q hq hc) hc
    · exact hq
  · obtain ⟨_, _, _, _, counts⟩ := countEvent_counts e s
    rw [counts]

theorem Schedules.tells {s t : State} (h : Schedules s t) : Tells 0 s t := by
  induction h with
  | refl => exact .refl s
  | event _ e ih => exact ih.trans (countEvent_tells e _)
  | record _ slot _ ih => exact (ih.trans (.beside (by rfl))).mono le_rfl
  | workings _ w ih => exact (ih.trans (.beside (by rfl))).mono le_rfl

/-- R152: a stray record handed over offers its STRAY frame. -/
theorem handStray_tells (i : StrayInfo) (s : State) : Tells 1 s (handStray i s) := by
  unfold handStray
  split
  · have entered : Tells 0 s (enterStray (stampStray i s) s) :=
      ⟨.beside rfl rfl rfl, fun _ hq _ => hq, rfl⟩
    exact (entered.trans (countEvent_tells .strays _)).trans (broadcast_tells (by exact show 7 ≤ 7 by decide) _)
  · exact (Tells.refl s).mono (by omega)

end Sys2Proof.Machine
end

section
/-! PROOFS. What the re-decision of a whole queue offers to the transmit queue: a STRAY frame for each record moved, and ALERT frames
(R89, R92 to R95). -/

namespace Sys2Proof.Machine

/-- A record that a re-decision moves (R92). -/
def moved (s : State) (b : BagRecord) : Bool := decide (b.tracking = .decided ∧ b.decision.outlet ≠ some (decideLines s b).outlet)

theorem movers_eq (s : State) (l : List BagRecord) : movers s l = l.filter (moved s) := rfl

/-- R84 to R88: the decision lines read nothing that the gates and the Divert Scheduler write. -/
theorem decideLines_unplaced (s : State) (b : BagRecord) : decideLines s b.unplaced = decideLines s b := rfl

/-- A change between two records that leaves the decision and makes none DECIDED moves no record more. -/
theorem moved_of_unplaced {s t : State} {b c : BagRecord} (reads : Reads s t) (h : c.unplaced = b.unplaced)
    (hd : c.tracking = .decided → b.tracking = .decided) (hc : moved t c = true) : moved s b = true := by
  obtain ⟨decided, differs⟩ := of_decide_eq_true hc
  have decision : c.decision = b.decision := (congrArg BagRecord.decision h :)
  rw [decideLines_congr reads, ← decideLines_unplaced, h, decideLines_unplaced, decision] at differs
  exact decide_eq_true ⟨hd decided, differs⟩

/-- The records of a queue in a slot are changed, the others stand. -/
theorem mem_updateBag {slot : Nat} {f : BagRecord → BagRecord} {s : State} {c : BagRecord}
    (hf : ∀ b, (f b).slot = b.slot) (hc : c ∈ (updateBag slot f s).tracker.segment) (hn : c.slot ≠ slot) :
    c ∈ s.tracker.segment := by
  rw [updateBag_tracker] at hc
  obtain ⟨b, hb, rfl⟩ := List.mem_map.mp hc
  by_cases h : b.slot = slot
  · rw [if_pos h, hf] at hn
    exact absurd h hn
  · rw [if_neg h]
    exact hb

theorem strayOfOutcome_tells (oc : Outcome) (p : Option Outlet) (b : BagRecord) (s : State) : Tells 1 s (strayOfOutcome oc p b s) := by
  have none : Tells 1 s s := (Tells.refl s).mono (by omega)
  unfold strayOfOutcome
  split
  · exact none
  · split
    · exact none
    · exact handStray_tells _ s

/-- R92 to R95: what the re-decision of the record in a slot does before the Divert Scheduler and the gates take it. -/
structure Redecides (slot : Nat) (s t : State) : Prop where
  change : ∃ f : BagRecord → BagRecord, (∀ b, (f b).slot = b.slot) ∧ t.tracker.segment = (updateBag slot f s).tracker.segment
  tells : Tells (if (findBag s slot).any (moved s) then 1 else 0) s t

theorem keepOutcome_slot (s : State) (oc : Outcome) (b : BagRecord) : (keepOutcome s oc b).slot = b.slot := by
  unfold keepOutcome
  split
  · split <;> rfl
  · rfl

theorem redecide_schedules (slot : Nat) (s : State) : ∃ u, Redecides slot s u ∧ Schedules u (redecide slot s) := by
  have written (k : Nat) (f : BagRecord → BagRecord) (hf : ∀ b, (f b).slot = b.slot) : Tells k s (updateBag slot f s) ∧
      ∃ g : BagRecord → BagRecord, (∀ b, (g b).slot = b.slot) ∧
        (updateBag slot f s).tracker.segment = (updateBag slot g s).tracker.segment :=
    ⟨(Tells.beside (by rfl)).mono (by omega), f, hf, rfl⟩
  have same (h : redecide slot s = s) : ∃ u, Redecides slot s u ∧ Schedules u (redecide slot s) :=
    ⟨s, ⟨⟨id, fun _ => rfl, by simp [updateBag]⟩, (Tells.refl s).mono (by omega)⟩, h.symm ▸ .refl⟩
  rcases hb : findBag s slot with _ | b
  · exact same (by simp [redecide, hb])
  obtain ⟨rfl, -⟩ := findBag_slot hb
  by_cases ht : b.tracking = .decided
  · by_cases ho : b.decision.outlet = some (decideLines s b).outlet
    · obtain ⟨tells, change⟩ := written _ _ (keepOutcome_slot s (decideLines s b))
      exact ⟨_, ⟨change, tells⟩, by rw [redecide_keeps hb ht ho]; exact .refl⟩
    · obtain ⟨tells, change⟩ := written 0 (fun x => writeOutcome (decideLines s b) (clearOwnStray x))
        (fun x => (writeOutcome_marks _ x).1)
      have mover : (findBag s b.slot).any (moved s) = true := by rw [hb]; exact decide_eq_true ⟨ht, ho⟩
      have offered := tells.trans (strayOfOutcome_tells (decideLines s b) b.decision.outlet b _)
      obtain ⟨exc, bus, hands⟩ := strayOfOutcome_hands (decideLines s b) b.decision.outlet b
        (updateBag b.slot (fun x => writeOutcome (decideLines s b) (clearOwnStray x)) s)
      refine ⟨takenOutcome s b, ⟨?_, ?_⟩, ?_⟩
      · rw [takenOutcome, hands]
        exact change
      · rw [mover]
        exact offered.mono le_rfl
      · rw [redecide_takes hb ht ho, takeRedecision_eq]
        exact (reschedule_schedules _ _ _ _).trans (handChosen_schedules _ _)
  · by_cases hr : (b.tracking = .diverting ∨ b.tracking = .releasedUnconfirmed) ∧
      b.decision.outlet ≠ some (decideLines s b).outlet
    · obtain ⟨tells, change⟩ := written _ (fun x => { x with flags := { x.flags with overrideLate := true } }) (fun _ => rfl)
      refine ⟨_, ⟨change, tells⟩, ?_⟩
      rw [redecide_refuses hb hr.1 hr.2]
      exact .ite .refl (countEvent_schedules _ _)
    · exact same (redecide_same hb ht (fun hf => by_contra fun ho => hr ⟨hf, ho⟩)).1

/-- R92: no record but the one decided afresh is moved by it. -/
theorem redecide_movers {slot n : Nat} {s : State} (hn : (segmentSlots s).Nodup) (hne : n ≠ slot)
    (h : (findBag (redecide slot s) n).any (moved (redecide slot s)) = true) : (findBag s n).any (moved s) = true := by
  obtain ⟨u, ⟨⟨f, hf, change⟩, -⟩, chain⟩ := redecide_schedules slot s
  rcases hc : findBag (redecide slot s) n with _ | c
  · rw [hc] at h
    cases h
  rw [hc, Option.any_some] at h
  obtain ⟨rfl, mem⟩ := findBag_slot hc
  obtain ⟨b, hb, slots, follows⟩ := chain.follows c mem
  have old : b ∈ s.tracker.segment := mem_updateBag hf (change ▸ hb) (slots ▸ hne)
  rw [← slots, findBag_of_mem hn old]
  exact moved_of_unplaced (redecide_strayAlone slot s).reads follows.1 follows.2 h

theorem redecides_tells {l : List Nat} {s : State} (hn : (segmentSlots s).Nodup) (hl : l.Nodup) :
    Tells (l.countP (fun n => (findBag s n).any (moved s))) s (l.foldl (fun acc slot => redecide slot acc) s) := by
  induction l generalizing s with
  | nil => exact .refl s
  | cons slot l ih =>
    obtain ⟨fresh, rest⟩ := List.nodup_cons.mp hl
    have slots : segmentSlots (redecide slot s) = segmentSlots s := (redecide_calm slot s).level.slots
    obtain ⟨u, ⟨-, tells⟩, chain⟩ := redecide_schedules slot s
    have fewer : l.countP (fun n => (findBag (redecide slot s) n).any (moved (redecide slot s))) ≤
        l.countP (fun n => (findBag s n).any (moved s)) :=
      List.countP_mono_left fun n hm h => redecide_movers hn (by rintro rfl; exact fresh hm) h
    refine ((tells.trans chain.tells).trans (ih (slots ▸ hn) rest)).mono ?_
    rw [List.countP_cons]
    omega

/-- R89, R92 to R95: the frames that the re-decision of a queue may offer. -/
theorem redecideAll_tells {s : State} (hn : (segmentSlots s).Nodup) :
    Tells (movers s s.tracker.segment).length s (redecideAll s) := by
  have count : (segmentSlots s).countP (fun n => (findBag s n).any (moved s)) = (movers s s.tracker.segment).length := by
    rw [segmentSlots, List.countP_map, movers_eq, ← List.countP_eq_length_filter]
    refine List.countP_congr fun b hb => ?_
    rw [Function.comp_apply, findBag_of_mem hn hb, Option.any_some]
  exact count ▸ redecides_tells hn hn

/-- R90: with no decided record nothing is decided afresh. -/
theorem redecideAll_undecided {s : State} (h : ∀ b ∈ s.tracker.segment, isDecided b = false) : redecideAll s = s := by
  refine List.foldl_fixed' (fun slot => ?_) _
  rcases hb : findBag s slot with _ | b
  · simp [redecide, hb]
  · have undecided := h b (findBag_slot hb).2
    unfold redecide
    rw [hb]
    unfold isDecided at undecided
    rcases ht : b.tracking <;> simp_all

end Sys2Proof.Machine
end

section
/-! PROOFS. A change of the route table (R79): the rows written, the gates that follow, the advertised reach and its PATH frames. -/

namespace Sys2Proof.Machine

theorem mem_allOutlets (o : Outlet) : o ∈ allOutlets := by cases o <;> decide

theorem PerOutlet_set_get {α : Type} (p : PerOutlet α) (o : Outlet) : p.set o (p.get o) = p := by cases o <;> rfl

theorem PerOutlet_get_set {α : Type} (p : PerOutlet α) (j o : Outlet) (x : α) :
    (p.set o x).get j = if j = o then x else p.get j := by cases j <;> cases o <;> rfl

theorem gateOf_putGate (j o : Outlet) (g : Option Gate) (s : State) :
    gateOf (putGate o g s) j = if j = o then g else gateOf s j := PerOutlet_get_set _ j o g

/-! ## The rows of a peer's outlets (R140, R144) -/

/-- A row changed where it is that of a PEER outlet with a station as its peer. -/
def onPeer (station : Byte) (f : RouteRow → RouteRow) (r : RouteRow) : RouteRow :=
  if r.kind = .peer ∧ r.peer = station then f r else r

/-- The rows of every outlet that names a station, changed. -/
def peerRows (station : Byte) (f : RouteRow → RouteRow) (p : PerOutlet (Option RouteRow)) : PerOutlet (Option RouteRow) :=
  ⟨p.o0.map (onPeer station f), p.o1.map (onPeer station f), p.o2.map (onPeer station f), p.o3.map (onPeer station f)⟩

theorem updatePeerRow_eq (station : Byte) (f : RouteRow → RouteRow) (o : Outlet) (s : State) :
    (if namesPeer s station o then updateRow o f s else s) =
      { s with routes := { s.routes with rows := s.routes.rows.set o ((s.routes.rows.get o).map (onPeer station f)) } } := by
  rcases hr : s.routes.rows.get o with _ | r
  · have same : s.routes.rows.set o none = s.routes.rows := by
      rw [← hr]
      exact PerOutlet_set_get _ o
    simp [namesPeer, row, hr, same]
  · by_cases hp : r.kind = .peer ∧ r.peer = station
    · simp [namesPeer, row, hr, hp, updateRow, onPeer]
    · have same : s.routes.rows.set o (some r) = s.routes.rows := by rw [← hr]; exact PerOutlet_set_get _ o
      simp [namesPeer, row, hr, onPeer, same, hp]

theorem updatePeerRows_eq (station : Byte) (f : RouteRow → RouteRow) (s : State) :
    updatePeerRows station f s = { s with routes := { s.routes with rows := peerRows station f s.routes.rows } } := by
  have steps : updatePeerRows station f s = allOutlets.foldl (fun acc o =>
      { acc with routes := { acc.routes with
          rows := acc.routes.rows.set o ((acc.routes.rows.get o).map (onPeer station f)) } }) s := by
    unfold updatePeerRows
    exact congrArg (fun g => allOutlets.foldl g s) (funext fun acc => funext fun o => updatePeerRow_eq station f o acc)
  rw [steps]
  rfl

/-! ## The gates that follow (R145) -/

/-- The gates turned: their stop reasons, their registrations and the gates themselves alone. -/
def Turns (s t : State) : Prop := ∃ drive register gates, t =
  { s with drive := drive, belt := { s.belt with register := register }, flow := { s.flow with gates := gates } }

/-- No record of the queue may stop at an outlet (R146). -/
def NoStopper (s : State) (o : Outlet) : Prop := ∀ b ∈ s.tracker.segment, mayStop o b = false

/-- A gate newly made has no record to take up. -/
def NoneStops (s : State) (o : Outlet) : Prop := gated s o = true → gateOf s o = none → NoStopper s o

theorem Turns.trans {s t u : State} (h : Turns s t) (k : Turns t u) : Turns s u := by
  obtain ⟨_, _, _, rfl⟩ := h
  obtain ⟨_, _, _, rfl⟩ := k
  exact ⟨_, _, _, rfl⟩

theorem syncStops_drive (s : State) : ∃ d, syncStops s = { s with drive := d } := by
  have step (x : StopReason) (v p : Bool) (u : State) (h : ∃ d, u = { s with drive := d }) :
      ∃ d, (if p then putReason x v u else u) = { s with drive := d } := by
    obtain ⟨d, rfl⟩ := h
    split
    · exact ⟨_, rfl⟩
    · exact ⟨_, rfl⟩
  have stepNot (x : StopReason) (v p : Bool) (u : State) (h : ∃ d, u = { s with drive := d }) :
      ∃ d, (if p then u else putReason x v u) = { s with drive := d } := by
    obtain ⟨d, rfl⟩ := h
    split
    · exact ⟨_, rfl⟩
    · exact ⟨_, rfl⟩
  exact stepNot _ _ _ _ (stepNot _ _ _ _ (step _ _ _ _ (step _ _ _ s ⟨_, rfl⟩)))

theorem takeUp_none {o : Outlet} {g : Gate} {l : List BagRecord} (h : ∀ b ∈ l, mayStop o b = false) (s : State) :
    takeUp o g l s = putGate o (some ⟨none, none, false⟩) (withdraw (.stopPosition o) s) := by
  induction l with
  | nil => rfl
  | cons b l ih =>
    unfold takeUp
    rw [if_neg (by simp [h b List.mem_cons_self])]
    exact ih fun c hc => h c (List.mem_cons_of_mem b hc)

/-- A gate turned leaves the others. -/
theorem refreshGate_turns {o : Outlet} {s : State} (h : NoneStops s o) :
    Turns s (refreshGate o s) ∧ ∀ j, j ≠ o → gateOf (refreshGate o s) j = gateOf s j := by
  have put (g : Option Gate) (u : State) (j : Outlet) (hj : j ≠ o) : gateOf (putGate o g u) j = gateOf u j :=
    (gateOf_putGate j o g u).trans (if_neg hj)
  have sync (u : State) (j : Outlet) : gateOf (syncStops u) j = gateOf u j := by
    obtain ⟨d, same⟩ := syncStops_drive u
    rw [same]
    rfl
  have synced {u : State} (hu : Turns s u) : Turns s (syncStops u) := by
    obtain ⟨d, same⟩ := syncStops_drive u
    rw [same]
    exact hu.trans ⟨_, _, _, rfl⟩
  unfold refreshGate
  rcases hg : gateOf s o with _ | g
  · by_cases gate : gated s o = true
    · have made : gateOf (putGate o (some ⟨none, none, false⟩) s) o = some ⟨none, none, false⟩ := by
        show (s.flow.gates.set o _).get o = _
        cases o <;> rfl
      simp only [if_pos gate, determineStop, made]
      have empty : ∀ b ∈ (putGate o (some ⟨none, none, false⟩) s).tracker.segment, mayStop o b = false := h gate hg
      rw [takeUp_none empty]
      exact ⟨synced ⟨_, _, _, rfl⟩, fun j hj => (sync _ j).trans ((put _ _ j hj).trans (put _ _ j hj))⟩
    · simp only [if_neg gate]
      exact ⟨⟨_, _, _, rfl⟩, fun _ _ => trivial⟩
  · simp only
    split
    · exact ⟨synced ⟨_, _, _, rfl⟩, fun j _ => sync _ j⟩
    · exact ⟨synced ⟨_, _, _, rfl⟩, fun j hj => (sync _ j).trans (put _ _ j hj)⟩

/-- R145: with no record for a gate newly made the gates alone turn. -/
theorem refreshGates_turns {s : State} (h : ∀ o, NoneStops s o) : Turns s (refreshGates s) := by
  have all (l : List Outlet) (hl : l.Nodup) (u : State) (hu : ∀ o ∈ l, NoneStops u o) :
      Turns u (l.foldl (fun acc o => refreshGate o acc) u) := by
    induction l generalizing u with
    | nil => exact ⟨_, _, _, rfl⟩
    | cons o l ih =>
      obtain ⟨fresh, rest⟩ := List.nodup_cons.mp hl
      obtain ⟨turns, others⟩ := refreshGate_turns (hu o List.mem_cons_self)
      refine turns.trans (ih rest _ fun j hj => ?_)
      have before := hu j (List.mem_cons_of_mem o hj)
      have gate := others j (by rintro rfl; exact fresh hj)
      obtain ⟨_, _, _, same⟩ := turns
      intro hd hn
      rw [gate] at hn
      rw [same] at hd ⊢
      exact before hd hn
  exact all allOutlets (by decide) s fun o _ => h o

theorem NoneStops.undecided {s : State} (h : ∀ b ∈ s.tracker.segment, isDecided b = false) (o : Outlet) : NoneStops s o :=
  fun _ _ b hb => by
    have undecided := h b hb
    unfold isDecided at undecided
    unfold mayStop
    rcases ht : b.tracking <;> simp_all

theorem offGates_refreshGate (o : Outlet) (s : State) : offGates (refreshGate o s) = offGates s := by
  unfold refreshGate
  split
  · simp only [apply_ite offGates, offGates_determineStop, offGates_putGate, ite_self]
  · simp only [apply_ite offGates, offGates_syncStops, offGates_putGate, offGates_withdraw, ite_self]

/-- R145 to R150: what the gates leave. -/
theorem offGates_refreshGates (s : State) : offGates (refreshGates s) = offGates s :=
  view_foldl (fun a o => offGates_refreshGate o a) _ s

/-! ## The advertised reach (R96, R138) -/

/-- R96: the reach of an outlet joined to the advertised reach. -/
def joinAdvertised (s : State) (acc : DestSet) (o : Outlet) : DestSet :=
  match row s o with
  | none => acc
  | some r => if advertises s o r then acc ||| effectiveReach r else acc

theorem advertises_iff {s : State} {o : Outlet} {r : RouteRow} {d : Nat} :
    advertises s o r = true ∧ (effectiveReach r).getLsbD d = true ↔
      o ≠ (cfg s).exceptionOutlet ∧ r.reach.getLsbD d = true ∧ (r.kind = .terminal → r.closed = false) ∧
        (r.kind = .peer → r.learned.getLsbD d = true ∧ peerDown s r.peer = false) := by
  unfold advertises effectiveReach
  rcases r.kind <;> simp <;> tauto

theorem foldl_joinAdvertised (s : State) (d : Nat) (l : List Outlet) (acc : DestSet) :
    (l.foldl (joinAdvertised s) acc).getLsbD d = true ↔ acc.getLsbD d = true ∨
      ∃ o ∈ l, ∃ r, row s o = some r ∧ advertises s o r = true ∧ (effectiveReach r).getLsbD d = true := by
  induction l generalizing acc with
  | nil => simp
  | cons o l ih =>
    rw [List.foldl_cons, ih, joinAdvertised]
    rcases ho : row s o with _ | r
    · simp [ho]
    · rcases ha : advertises s o r <;> simp [ho, ha, or_assoc]

theorem reachNow_iff (s : State) (d : Nat) : (reachNow s).getLsbD d = true ↔ Advertised s d := by
  rw [show reachNow s = allOutlets.foldl (joinAdvertised s) 0 from rfl, foldl_joinAdvertised]
  have none : ¬ (0 : DestSet).getLsbD d = true := by simp
  refine (or_iff_right none).trans ?_
  simp only [mem_allOutlets, true_and, Advertised]
  exact exists_congr fun o => exists_congr fun r => and_congr_right fun _ => advertises_iff

/-- R96: the advertised reach reads the Loader, the rows and the peer states. -/
theorem advertised_congr {s t : State} (reads : Reads s t) (d : Nat) : Advertised t d ↔ Advertised s d := by
  have same : Advertised t d = Advertised { s with
      loader := t.loader, routes := t.routes, handoff := { s.handoff with peers := t.handoff.peers } } d := rfl
  rw [same, reads.loader, reads.routes, reads.peers]

/-! ## The PATH frames (R138, R167 to R169) -/

theorem Waits.kept {dest : Byte} {p : Payload} {s t : State} (h : Waits dest p s) (hc : payloadClass p < 8)
    (hk : ∀ q ∈ s.bus.waiting, queuedClass q < 8 → q ∈ t.bus.waiting) : Waits dest p t := by
  obtain ⟨q, hq, hd, hp⟩ := h
  exact ⟨q, hk q hq (by rw [queuedClass, hp]; exact hc), hd, hp⟩

/-- R167, R169: with room a PATH waits for its station, and one with the same reach that waited still does. -/
theorem offer_path {station : Byte} {reach : DestSet} {s : State} (hn : s.loader.node ≠ .duplicate) (hr : Room 1 s) :
    Waits station (.path reach) (offer station (.path reach) s) ∧
      ∀ dest, Waits dest (.path reach) s → Waits dest (.path reach) (offer station (.path reach) s) := by
  have room : queueLength s.bus < Config.transmitQueue := hr
  unfold offer offerFrame
  rw [if_neg hn]
  split
  · rename_i waits
    let written (x : Queued) : Queued := if replaces station (.path reach) x then { x with payload := .path reach } else x
    obtain ⟨x, hx, hm⟩ := List.any_eq_true.mp waits
    have dest : x.dest = station := by
      unfold replaces at hm
      exact of_decide_eq_true (Bool.and_eq_true_iff.mp hm).1
    refine ⟨⟨written x, List.mem_map_of_mem hx, ?_⟩, fun d ⟨y, hy, hd, hp⟩ => ⟨written y, List.mem_map_of_mem hy, ?_⟩⟩
    · simp [written, hm, dest]
    · simp only [written]
      split
      · exact ⟨hd, rfl⟩
      · exact ⟨hd, hp⟩
  · exact ⟨⟨_, List.mem_append_right _ (List.mem_singleton.mpr rfl), rfl, rfl⟩,
      fun d ⟨y, hy, hd, hp⟩ => ⟨y, List.mem_append_left _ hy, hd, hp⟩⟩

theorem offer_fits (station : Byte) (p : Payload) (s : State) : Fits 1 s (offer station p s) := offerFrame_fits _ s

/-- R138: with room for them a PATH waits for every source. -/
theorem toSources_waits {reach : DestSet} {s : State} (hn : s.loader.node ≠ .duplicate) (hr : Room (cfg s).sources.length s) :
    ∀ x ∈ (cfg s).sources, Waits x.station (.path reach) (toSources (.path reach) s) := by
  have all (l : List SourceConfig) (u : State) (hu : u.loader.node ≠ .duplicate) (room : Room l.length u) :
      (∀ x ∈ l, Waits x.station (.path reach) (l.foldl (fun acc x => offer x.station (.path reach) acc) u)) ∧
      ∀ d, Waits d (.path reach) u → Waits d (.path reach) (l.foldl (fun acc x => offer x.station (.path reach) acc) u) := by
    induction l generalizing u with
    | nil => exact ⟨fun _ hx => absurd hx List.not_mem_nil, fun _ h => h⟩
    | cons y l ih =>
      have room' : Room (1 + l.length) u := le_trans (by rw [List.length_cons]; omega) room
      obtain ⟨waits, kept⟩ := offer_path (station := y.station) (reach := reach) hu (le_trans (by omega) room')
      have node : (offer y.station (.path reach) u).loader = u.loader := (offer_sends _ _ u).loader
      obtain ⟨rest, later⟩ := ih _ (node ▸ hu) (offer_fits y.station (.path reach) u l.length room').2
      refine ⟨fun x hx => ?_, fun d hd => later d (kept d hd)⟩
      rcases List.mem_cons.mp hx with rfl | hx
      · exact later _ waits
      · exact rest x hx
  exact (all _ s hn hr).1

/-- R79, R96, R138: the advertised reach recomputed. -/
theorem recomputeReach_eq (s : State) : ∃ bus owed, recomputeReach s =
    { s with routes := { s.routes with advertised := reachNow s }
             flow := { s.flow with reach := if reachNow s = s.routes.advertised then s.flow.reach else reachNow s }
             bus := bus, owed := owed } := by
  unfold recomputeReach
  simp only
  split
  · rename_i same
    exact ⟨s.bus, s.owed, by rw [same]⟩
  · unfold handReach
    simp only
    split
    · obtain ⟨bus, owed, sent⟩ := toSources_offers (.path (reachNow s)) { s with
        routes := { s.routes with advertised := reachNow s }, flow := { s.flow with reach := reachNow s } }
      exact ⟨bus, owed, sent⟩
    · exact ⟨_, _, rfl⟩

theorem recomputeReach_fits (s : State) : Fits (cfg s).sources.length s (recomputeReach s) := by
  unfold recomputeReach handReach
  simp only
  refine .ite ((Fits.refl s).mono (by omega)) (.ite ?_ ((Fits.beside rfl rfl).mono (by omega)))
  let handed : State := { s with routes := { s.routes with advertised := reachNow s }, flow := { s.flow with reach := reachNow s } }
  have before : Fits 0 s handed := .beside rfl rfl
  exact (before.trans (toSources_fits (.path (reachNow s)) handed)).mono (by rw [Nat.zero_add]; exact le_rfl)

theorem recomputeReach_waits {s : State} (hr : Room (cfg s).sources.length s) (hn : s.loader.node = .running)
    (hc : reachNow s ≠ s.routes.advertised) :
    ∀ x ∈ (cfg s).sources, Waits x.station (.path (reachNow s)) (recomputeReach s) := by
  unfold recomputeReach handReach
  simp only [if_neg hc]
  rw [if_pos (by exact hn)]
  exact toSources_waits (s := { s with
    routes := { s.routes with advertised := reachNow s }, flow := { s.flow with reach := reachNow s } }) (by simp [hn]) hr

end Sys2Proof.Machine
end

section
/-! PROOFS. Every decided record decided afresh after a route table change or a change of the late set (R90, R92, R93, R95). -/

namespace Sys2Proof.Machine

/-! ## What stands before the re-decision -/

/-- What the gates and the advertised reach make of a route table change before the re-decision: the decision lines, the windows,
the exception list and, but for the gates that have passed it, every record are as the change left them. -/
structure Prepares (u s : State) : Prop where
  reads : Reads { u with routes := { u.routes with advertised := s.routes.advertised } } s
  divert : s.divert = u.divert
  queue : s.tracker.segment.map BagRecord.ungated = u.tracker.segment.map BagRecord.ungated
  tracker : s.tracker = { u.tracker with segment := s.tracker.segment }
  strays : s.exc.strays = u.exc.strays ∧ s.exc.nextSeq = u.exc.nextSeq
  still : (∀ o, NoneStops u o) → s.tracker = u.tracker

theorem Prepares.refl (u : State) : Prepares u u := ⟨⟨rfl, rfl, rfl⟩, rfl, rfl, rfl, ⟨rfl, rfl⟩, fun _ => rfl⟩

theorem refreshGates_prepares (u : State) : Prepares u (refreshGates u) := by
  have gates := offGates_refreshGates u
  have kept := remains_of_offGates gates
  have routes : (refreshGates u).routes = u.routes := congrArg (fun r : Remains => r.routes) kept
  refine ⟨⟨congrArg (fun r : Remains => r.loader) kept, by rw [routes], congrArg (fun r : Remains => r.handoff.peers) kept⟩,
    congrArg OffGates.divert gates, congrArg OffGates.segment gates,
    (refreshGates_calm u).tracker_eq (congrArg (fun r : Remains => r.history) kept),
    ⟨congrArg (fun r : Remains => r.strays) kept, congrArg (fun r : Remains => r.nextSeq) kept⟩, fun h => ?_⟩
  obtain ⟨_, _, _, turns⟩ := refreshGates_turns h
  rw [turns]

theorem Prepares.recomputed {u s : State} (h : Prepares u s) : Prepares u (recomputeReach s) := by
  obtain ⟨reads, divert, queue, tracker, strays, still⟩ := h
  obtain ⟨bus, owed, recomputed⟩ := recomputeReach_eq s
  rw [recomputed]
  exact ⟨⟨reads.loader, by rw [reads.routes], reads.peers⟩, divert, queue, tracker, strays, still⟩

section
variable {u s : State}

/-- The decision lines do not read the advertised reach. -/
theorem Prepares.lines (h : Prepares u s) : decideLines s = decideLines u :=
  (decideLines_congr h.reads).trans rfl

theorem Prepares.config (h : Prepares u s) : cfg s = cfg u := by rw [cfg, cfg, h.reads.loader]

theorem Prepares.redecided (h : Prepares u s) : redecided s = redecided u := by
  funext b
  rw [Machine.redecided, Machine.redecided, h.lines, h.config]

theorem Prepares.plan (h : Prepares u s) : plan s = plan u := by
  have both := congrArg (List.map BagRecord.unscheduled) h.queue
  rwa [List.map_map, List.map_map] at both

theorem Prepares.slots (h : Prepares u s) : segmentSlots s = segmentSlots u := by rw [← plan_slots, h.plan, plan_slots]

theorem Prepares.apart (h : Prepares u s)
    (hu : u.tracker.segment.Pairwise (fun a b => a.slot ≠ b.slot ∧ 0 < posDiff b.entry a.entry)) :
    s.tracker.segment.Pairwise (fun a b => a.slot ≠ b.slot ∧ 0 < posDiff b.entry a.entry) := by
  have seen (l : List BagRecord) :
      (l.map BagRecord.ungated).Pairwise (fun a b => a.slot ≠ b.slot ∧ 0 < posDiff b.entry a.entry) ↔
      l.Pairwise (fun a b => a.slot ≠ b.slot ∧ 0 < posDiff b.entry a.entry) := List.pairwise_map
  exact (seen _).mp (h.queue ▸ (seen _).mpr hu)

/-- The same records are moved. -/
theorem Prepares.movers (h : Prepares u s) : (movers s s.tracker.segment).length = (movers u u.tracker.segment).length := by
  have seen (l : List BagRecord) : (Machine.movers u l).length = (l.map BagRecord.ungated).countP (moved u) := by
    rw [List.countP_map, movers_eq, ← List.countP_eq_length_filter]
    rfl
  have same : Machine.movers s s.tracker.segment = Machine.movers u s.tracker.segment := by
    rw [Machine.movers, Machine.movers, h.lines]
  rw [same, seen, seen, h.queue]

theorem Prepares.undecided (h : Prepares u s) (hu : ∀ b ∈ u.tracker.segment, isDecided b = false) :
    redecideAll s = s := by
  refine redecideAll_undecided ?_
  rw [h.still (NoneStops.undecided hu)]
  exact hu

/-! ## The re-decision -/

/-- R92 to R95: in a rising queue with no window each record takes its outcome. -/
theorem Prepares.every (h : Prepares u s) (hr : RisingQueue u) (hw : NoWindows u) :
    Machine.plan (redecideAll s) = u.tracker.segment.map (fun b => (Machine.redecided u b).unscheduled) := by
  have hn : (segmentSlots s).Nodup := h.slots ▸ hr.ordered.slots
  have windows : NoWindows s := by rw [NoWindows, h.divert]; exact hw
  have all := redecides_afresh (pre := []) (l := s.tracker.segment) hn windows.booked (h.apart hr.apart)
    (fun _ _ r hr => absurd hr List.not_mem_nil) (fun b hb => List.mem_map_of_mem hb)
  refine all.trans ?_
  rw [h.plan, Machine.plan, List.map_map]
  refine List.map_congr_left fun b hb => ?_
  have here : b.unscheduled.slot ∈ s.tracker.segment.map BagRecord.slot := by
    rw [show s.tracker.segment.map BagRecord.slot = segmentSlots u from h.slots]
    show b.slot ∈ _
    exact List.mem_map_of_mem hb
  rw [Function.comp_apply, planAfresh, if_pos here, h.redecided, redecided_unscheduled]

/-- R92, R95: where every record keeps its outlet they stand. -/
theorem Prepares.stand (h : Prepares u s) (hn : (segmentSlots u).Nodup) (hm : Machine.movers u u.tracker.segment = [])
    (hg : ∀ o, NoneStops u o) :
    (redecideAll s).tracker = { u.tracker with segment := u.tracker.segment.map (Machine.redecided u) } ∧
      (redecideAll s).divert = u.divert := by
  have queue : s.tracker.segment = u.tracker.segment := congrArg Tracker.segment (h.still hg)
  have distinct : (segmentSlots s).Nodup := h.slots ▸ hn
  obtain ⟨bus, one, two, restates⟩ := redecides_restate (s := s) (l := s.tracker.segment) distinct distinct
    (fun _ hb => hb) (fun b hb => by
      rw [StandsFor, h.lines]
      exact movers_nil.mp hm b (queue ▸ hb))
  have all : s.tracker.segment.map (fun x => if x.slot ∈ s.tracker.segment.map BagRecord.slot then Machine.redecided s x else x) =
      u.tracker.segment.map (Machine.redecided u) := by
    rw [← queue, ← h.redecided]
    exact List.map_congr_left fun b hb => if_pos (List.mem_map_of_mem hb)
  have same : redecideAll s = _ := restates
  rw [same]
  exact ⟨(congrArg (fun l => { s.tracker with segment := l }) all).trans (by rw [h.still hg]), h.divert⟩

/-- R93: the only record of a queue, moved. -/
theorem Prepares.moved {b : BagRecord} (h : Prepares u s) (ha : acting u = true) (hs : u.tracker.segment = [b]) (hm : Moves u b) :
    Moved u b (redecideAll s) := by
  have queue := h.queue
  rw [hs] at queue
  obtain ⟨c, hc, same⟩ := List.map_eq_singleton_iff.mp queue
  have slot : c.slot = b.slot := (congrArg BagRecord.slot same :)
  have decision : c.decision = b.decision := (congrArg BagRecord.decision same :)
  have chosen : c.chosen = b.chosen := (congrArg BagRecord.chosen same :)
  have tracking : c.tracking = b.tracking := (congrArg BagRecord.tracking same :)
  have lines : decideLines s c = decideLines u b := by
    have reads (x : BagRecord) : decideLines u x = decideLines u x.ungated := rfl
    rw [h.lines, reads c, same, ← reads b]
  have outcome : (Machine.redecided s c).unscheduled = (Machine.redecided u b).unscheduled := by
    have plain : c.unscheduled = b.unscheduled := (congrArg BagRecord.unscheduled same :)
    rw [h.redecided, ← redecided_unscheduled, plain, redecided_unscheduled]
  have moves : Moves s c := ⟨tracking.trans hm.decided, by rw [lines, decision]; exact hm.differs, by
    rw [h.divert, slot, chosen]
    exact hm.window⟩
  have moved := redecide_moved (s := s) (by rw [acting, h.reads.loader]; exact ha) hc moves
  have one : redecideAll s = redecide c.slot s := by rw [redecideAll, segmentSlots, hc]; rfl
  have atRisk : c.flags.atRisk = b.flags.atRisk := (congrArg (fun x : BagRecord => x.flags.atRisk) same :)
  unfold Moved at moved ⊢
  rw [lines, outcome, h.config, h.divert, h.strays.1, h.strays.2, atRisk, slot, decision] at moved
  rw [one, slot]
  obtain ⟨r', tracker, rest⟩ := moved
  refine ⟨r', tracker.trans ?_, rest⟩
  rw [h.tracker]

/-- R90, R92, R93, R95: every decided record is decided afresh. -/
theorem Prepares.decidedAfresh (h : Prepares u s) (ha : acting u = true) (hn : (segmentSlots u).Nodup) :
    DecidedAfresh u (drivePins (redecideAll s)) := by
  refine ⟨h.every, fun hm hg => h.stand hn hm fun o gate none b hb => ?_, fun b hs hm => h.moved ha hs hm⟩
  simp [mayStop, hg o gate none b hb]

end

end Sys2Proof.Machine
end

section
/-! PROOFS. A route table change as a whole (R79, R90, R96, R138), and a frame that is delivered to its owner. -/

namespace Sys2Proof.Machine

/-! ## A route table change (R79) -/

theorem redecideAll_strayAlone (s : State) : StrayAlone s (redecideAll s) := .foldl (fun a slot => redecide_strayAlone slot a) _ s

theorem redecideAll_reach (s : State) : (redecideAll s).flow.reach = s.flow.reach := by
  refine view_foldl (view := fun u : State => u.flow.reach) (fun a slot => ?_) _ s
  obtain ⟨u, ⟨-, tells⟩, chain⟩ := redecide_schedules slot a
  exact chain.tells.reach.trans tells.reach


section
variable {u : State}

theorem refreshGates_reads (u : State) : Reads u (refreshGates u) := by
  have kept := remains_of_offGates (offGates_refreshGates u)
  exact ⟨congrArg (fun r : Remains => r.loader) kept, congrArg (fun r : Remains => r.routes) kept,
    congrArg (fun r : Remains => r.handoff.peers) kept⟩

theorem routeChanged_prepares (u : State) : Prepares u (recomputeReach (refreshGates u)) := (refreshGates_prepares u).recomputed

/-- R96: the advertised reach is that of the rows. -/
theorem routeChanged_advertised (u : State) : (routeChanged u).routes = { u.routes with advertised := reachNow (refreshGates u) } := by
  obtain ⟨_, _, recomputed⟩ := recomputeReach_eq (refreshGates u)
  have kept : (routeChanged u).routes = (recomputeReach (refreshGates u)).routes := (redecideAll_strayAlone _).reads.routes
  rw [kept, recomputed, ← (refreshGates_reads u).routes]

theorem recomputeReach_keeps (s : State) : (recomputeReach s).loader = s.loader ∧ (recomputeReach s).handoff = s.handoff ∧
    (recomputeReach s).exc = s.exc := by
  obtain ⟨_, _, recomputed⟩ := recomputeReach_eq s
  rw [recomputed]
  exact ⟨rfl, rfl, rfl⟩

theorem routeChanged_keeps (u : State) : (routeChanged u).loader = u.loader ∧ (routeChanged u).handoff = u.handoff := by
  have after := redecideAll_strayAlone (recomputeReach (refreshGates u))
  have before := remains_of_offGates (offGates_refreshGates u)
  obtain ⟨loader, handoff, -⟩ := recomputeReach_keeps (refreshGates u)
  exact ⟨(after.reads.loader.trans loader).trans (congrArg (fun r : Remains => r.loader) before),
    (after.handoff.trans handoff).trans (congrArg (fun r : Remains => r.handoff) before)⟩

/-- R138: the frames of a route table change find room: no report is owed, and the PATH frames wait. -/
structure Travels (u t : State) : Prop where
  owed : t.owed = u.owed
  path : reachNow (refreshGates u) ≠ u.routes.advertised → u.loader.node = .running →
    ∀ x ∈ (cfg u).sources, Waits x.station (.path (reachNow (refreshGates u))) t

theorem routeChanged_travels (hn : (segmentSlots u).Nodup)
    (hr : Room ((cfg u).sources.length + redecisionFrames u u.tracker.segment) u) : Travels u (routeChanged u) := by
  have reads := refreshGates_reads u
  have config : cfg (refreshGates u) = cfg u := by rw [cfg, cfg, reads.loader]
  have ready := routeChanged_prepares u
  by_cases hd : u.tracker.segment.any isDecided = true
  · have room : Room ((cfg u).sources.length + ((movers u u.tracker.segment).length + 2)) u := by
      rwa [redecisionFrames, if_pos hd] at hr
    have gates : Tells 0 u (refreshGates u) := (refreshGates_schedules u).tells
    obtain ⟨-, -, exc⟩ := recomputeReach_keeps (refreshGates u)
    have told : Pays (cfg u).sources.length (refreshGates u) (recomputeReach (refreshGates u)) :=
      .of_fits (config ▸ recomputeReach_fits (refreshGates u)) (by rw [exc])
    have decided : Tells (movers u u.tracker.segment).length _ (routeChanged u) :=
      ready.movers ▸ redecideAll_tells (ready.slots ▸ hn)
    refine ⟨((gates.pays.trans told).trans decided.pays).owed (le_trans (by omega) room), fun hc hrun x hx => ?_⟩
    have waits := recomputeReach_waits (s := refreshGates u)
      (gates.pays.room (le_trans (by rw [config]; omega) room)) (by rw [reads.loader]; exact hrun) (by rw [reads.routes]; exact hc)
    exact (waits x (by rw [config]; exact hx)).kept (by show 4 < 8; decide) decided.frames
  · have undecided : ∀ b ∈ u.tracker.segment, isDecided b = false := by simpa using hd
    have room : Room (cfg u).sources.length u := le_trans (by omega) hr
    have same : routeChanged u = recomputeReach (refreshGates u) := ready.undecided undecided
    obtain ⟨_, _, _, turns⟩ := refreshGates_turns (NoneStops.undecided undecided)
    have bus : (refreshGates u).bus = u.bus ∧ (refreshGates u).owed = u.owed := by rw [turns]; exact ⟨rfl, rfl⟩
    have room' : Room (cfg (refreshGates u)).sources.length (refreshGates u) := by rw [Room, bus.1, config]; exact room
    rw [same]
    exact ⟨((recomputeReach_fits _).owed room').trans bus.2, fun hc hrun x hx =>
      recomputeReach_waits room' (by rw [reads.loader]; exact hrun) (by rw [reads.routes]; exact hc) x (by rw [config]; exact hx)⟩

/-- R79, R96, R138. -/
theorem routeChanged_follows (ht : Travels u (routeChanged u)) : ReachFollows u (drivePins (routeChanged u)) := by
  have routes := routeChanged_advertised u
  have rows : Reads u (refreshGates u) := refreshGates_reads u
  obtain ⟨loader, handoff⟩ := routeChanged_keeps u
  have reach : (routeChanged u).flow.reach =
      if reachNow (refreshGates u) = u.routes.advertised then u.flow.reach else reachNow (refreshGates u) := by
    obtain ⟨_, _, recomputed⟩ := recomputeReach_eq (refreshGates u)
    have kept : (routeChanged u).flow.reach = (recomputeReach (refreshGates u)).flow.reach := redecideAll_reach _
    rw [kept, recomputed, (refreshGates_schedules u).tells.reach, rows.routes]
  have advertised : (routeChanged u).routes.advertised = reachNow (refreshGates u) := by rw [routes]
  refine ⟨fun d _ => ?_, fun h => ?_, fun h => ?_, fun h hrun => ?_⟩
  · have same : Advertised (routeChanged u) d ↔ Advertised u d := by
      let v : State := { u with routes := { u.routes with advertised := reachNow (refreshGates u) } }
      have plain : Advertised u d = Advertised v d := rfl
      rw [plain]
      exact advertised_congr (s := v) ⟨loader, routes, congrArg Handoff.peers handoff⟩ d
    have seen : Advertised (drivePins (routeChanged u)) d = Advertised (routeChanged u) d := rfl
    show (routeChanged u).routes.advertised.getLsbD d = true ↔ _
    rw [advertised, reachNow_iff, seen, same]
    exact advertised_congr rows d
  · exact reach.trans (if_pos (advertised.symm.trans h))
  · exact (reach.trans (if_neg (advertised ▸ h))).trans advertised.symm
  · intro x hx
    show Waits x.station (.path (routeChanged u).routes.advertised) (routeChanged u)
    rw [advertised]
    exact ht.path (advertised ▸ h) hrun x hx

/-- R79, R90, R96, R138: a route table change, its fields written into a state s. -/
theorem routeChanged_changed {s : State} (ha : acting u = true) (hn : (segmentSlots u).Nodup) (ht : Travels u (routeChanged u))
    (hl : u.loader = s.loader) (hr : u.routes.advertised = s.routes.advertised) (hf : u.flow.reach = s.flow.reach) :
    TableChanged s u (drivePins (routeChanged u)) := by
  obtain ⟨reach, same, handed, sent⟩ := routeChanged_follows ht
  have config : cfg u = cfg s := by rw [cfg, cfg, hl]
  rw [hr] at same handed sent
  rw [hf] at same
  rw [config, hl] at sent
  exact ⟨(routeChanged_keeps u).2, ⟨reach, same, handed, sent⟩, (routeChanged_prepares u).decidedAfresh ha hn⟩

end

/-! ## A frame taken, and one that is only counted -/

theorem exec_delivered {c : Instr} {h : Header} {owner : State → State} {s : State} (hd : Delivered h s) (hr : Ready s)
    (hu : peerHeard h.src (counted s) = counted s) (h1 : ∀ r, c ≠ .reset r) (h2 : c ≠ .resetNAsserted)
    (hc : effect c = deliverFrame h owner) : exec c s = .next (settle (owner (counted s))) := by
  have here : addressedHere s.loader.station h.dest = true := by
    simp only [addressedHere, Bool.or_eq_true, Bool.and_eq_true, decide_eq_true_eq]
    exact hd.here
  have owned : effect c s = owner (counted s) := by
    rw [hc, deliverFrame_ready hd.listening hd.source hd.other here]
    exact congrArg owner hu
  rw [exec_ready h1 h2 hr.1, owned]

/-- An owner that takes no frame where no part acts. -/
theorem exec_only_counted {c : Instr} {h : Header} {owner : State → State} {s : State} (hd : Delivered h s) (hr : Ready s)
    (ha : acting s = false) (h1 : ∀ r, c ≠ .reset r) (h2 : c ≠ .resetNAsserted) (hc : effect c = deliverFrame h owner)
    (ho : ∀ u, acting u = false → owner u = u) : exec c s = .next (drivePins (counted s)) := by
  have silent : peerHeard h.src (counted s) = counted s := if_neg fun up => Bool.false_ne_true (ha.symm.trans up.1)
  rw [exec_delivered hd hr silent h1 h2 hc, ho (counted s) ha]
  exact congrArg _ (settle_of_none hr.2.1)

end Sys2Proof.Machine
end

section
/-! PROOFS. O40: the frames that write the route table and the late set, PATH, HOLD and DEST_CLOSE (R80, R140, R144). -/

namespace Sys2Proof.Machine

section
variable {h : Header} {s : State}

theorem peerRows_same {station : Byte} {f : RouteRow → RouteRow} {p : PerOutlet (Option RouteRow)}
    (hf : ∀ o r, p.get o = some r → r.kind = .peer → r.peer = station → f r = r) : peerRows station f p = p := by
  have each (o : Outlet) : (p.get o).map (onPeer station f) = p.get o := by
    rcases hr : p.get o with _ | r
    · rfl
    · refine congrArg some ?_
      unfold onPeer
      split
      · rename_i here
        exact hf o r hr here.1 here.2
      · rfl
  unfold peerRows
  rw [show p.o0.map (onPeer station f) = p.o0 from each .o0, show p.o1.map (onPeer station f) = p.o1 from each .o1,
    show p.o2.map (onPeer station f) = p.o2 from each .o2, show p.o3.map (onPeer station f) = p.o3 from each .o3]

/-- The frame counted, the rows of its sender's outlets changed. -/
def peerWritten (h : Header) (f : RouteRow → RouteRow) (s : State) : State :=
  { counted s with routes := { s.routes with rows := peerRows h.src f s.routes.rows } }

/-- R140: a PATH changes the learned reach of an outlet. -/
def PathChanges (h : Header) (reach : DestSet) (s : State) : Prop :=
  ∃ o r, row s o = some r ∧ r.kind = .peer ∧ r.peer = h.src ∧ r.learned ≠ reach

theorem pathTaken_eq (reach : DestSet) (ha : acting s = true) : (PathChanges h reach s →
      pathTaken h.src reach (counted s) = routeChanged (peerWritten h (fun r => { r with learned := reach }) s)) ∧
    (¬ PathChanges h reach s → pathTaken h.src reach (counted s) = counted s) := by
  have changes : (allOutlets.any fun o => (row s o).any fun r =>
      decide (r.kind = .peer ∧ r.peer = h.src ∧ r.learned ≠ reach)) = true ↔ PathChanges h reach s := by
    simp [PathChanges, List.any_eq_true, mem_allOutlets, Option.any_eq_true]
  have taken : pathTaken h.src reach (counted s) = putLearned h.src reach (counted s) := if_pos ha
  rw [taken, putLearned, updatePeerRows_eq]
  exact ⟨fun hc => if_pos (changes.mpr hc), fun hc => if_neg (mt changes.mp hc)⟩

/-- R80: a late set written. -/
def lateWritten (late : DestSet) (s : State) : State := { counted s with routes := { s.routes with late := late } }

theorem putLate_eq (late : DestSet) (s : State) :
    putLate late (counted s) = if late = s.routes.late then counted s else redecideAll (lateWritten late s) := rfl

/-- R80: what DEST_CLOSE makes of the late set. -/
def lateAfter (d : DestSet) (action : Byte) (s : State) : DestSet :=
  if action = 1 then s.routes.late ||| d else if action = 0 then s.routes.late &&& ~~~d else s.routes.late

theorem destCloseTaken_eq (d : DestSet) (action : Byte) (ha : acting s = true) :
    destCloseTaken d action (counted s) = putLate (lateAfter d action s) (counted s) := by
  have same : putLate s.routes.late (counted s) = counted s := if_pos rfl
  unfold destCloseTaken lateAfter
  rw [if_pos (by exact ha)]
  split_ifs
  · rfl
  · rfl
  · exact same.symm

/-- R80, R90: what a write of the late set leaves. -/
theorem putLate_leaves (late : DestSet) (s : State) :
    StrayAlone (lateWritten late s) (putLate late (counted s)) ∧ Calm (lateWritten late s) (putLate late (counted s)) ∧
      (putLate late (counted s)).flow.reach = s.flow.reach := by
  rw [putLate_eq]
  split
  · rename_i same
    subst same
    exact ⟨.of_remains rfl, .refl _, rfl⟩
  · exact ⟨redecideAll_strayAlone _, redecideAll_calm _, redecideAll_reach _⟩

theorem putLate_undecided {late : DestSet} (hu : late = s.routes.late ∨ ∀ b ∈ s.tracker.segment, isDecided b = false) :
    (putLate late (counted s)).bus = (counted s).bus := by
  rw [putLate_eq]
  split
  · rfl
  · rename_i hc
    rw [redecideAll_undecided (s := lateWritten late s) (hu.resolve_left hc)]
    rfl

/-- R144: a HOLD gives its expiry to the outlets of its sender, and the gates follow. -/
theorem holdTaken_eq (quanta : Byte) (ha : acting s = true) : holdTaken h.src quanta (counted s) =
    refreshGates (peerWritten h (fun r => { r with holdExpiry := if quanta = 0 then none else some (s.time + quanta.toNat * 20) }) s) := by
  have taken : holdTaken h.src quanta (counted s) =
      refreshGates (updatePeerRows h.src (fun r => { r with holdExpiry := holdExpiryFor (counted s) quanta }) (counted s)) := if_pos ha
  rw [taken, updatePeerRows_eq]
  rfl

/-! ## The three frames -/

theorem exec_pathReceived (reach : DestSet) (ht : Taken h s) (ha : acting s = true) : ∃ t, exec (.pathReceived h reach) s = .next t ∧
    steady t = steady (peerWritten h (fun r => { r with learned := reach }) s) ∧
    (¬ PathChanges h reach s → t = drivePins (counted s)) ∧
    (PathChanges h reach s → (segmentSlots s).Nodup → Room ((cfg s).sources.length +
        redecisionFrames (peerWritten h (fun r => { r with learned := reach }) s) s.tracker.segment) s →
      TableChanged s (peerWritten h (fun r => { r with learned := reach }) s) t) := by
  obtain ⟨changed, same⟩ := pathTaken_eq (h := h) reach ha
  refine ⟨_, exec_delivered ht.toDelivered ht.ready (peerHeard_up ht.up) (by simp) (by simp) rfl, ?_, fun hs => ?_, fun hc hn hroom => ?_⟩
  · by_cases hc : PathChanges h reach s
    · rw [changed hc]
      exact ((routeChanged_calm _).trans (settle_calm _)).steady
    · have rows : peerRows h.src (fun r => { r with learned := reach }) s.routes.rows = s.routes.rows :=
        peerRows_same fun o r ho hk hp => by
          have : r.learned = reach := by_contra fun hl => hc ⟨o, r, ho, hk, hp, hl⟩
          rw [← this]
      have plain : peerWritten h (fun r => { r with learned := reach }) s = counted s := by rw [peerWritten, rows]; rfl
      rw [same hc]
      exact (settle_calm _).steady.trans (congrArg steady plain.symm)
  · rw [same hs]
    exact settle_of_none ht.ready.2.1
  · have travels := routeChanged_travels (u := peerWritten h (fun r => { r with learned := reach }) s) hn hroom
    rw [changed hc, settle_of_none (travels.owed.trans ht.ready.2.1)]
    exact routeChanged_changed ha hn travels rfl rfl rfl

theorem exec_holdReceived (quanta : Byte) (ht : Taken h s) (ha : acting s = true) :
    let written := peerWritten h (fun r => { r with holdExpiry := if quanta = 0 then none else some (s.time + quanta.toNat * 20) }) s
    ∃ t, exec (.holdReceived h quanta) s = .next t ∧ steady t = steady written ∧
      ((∀ b ∈ s.tracker.segment, isDecided b = false) → t.routes.advertised = s.routes.advertised ∧
        t.flow.reach = s.flow.reach ∧ t.bus = (counted s).bus) := by
  intro written
  have taken : exec (.holdReceived h quanta) s = .next (settle (holdTaken h.src quanta (counted s))) :=
    exec_delivered ht.toDelivered ht.ready (peerHeard_up ht.up) (by simp) (by simp) rfl
  rw [holdTaken_eq quanta ha] at taken
  refine ⟨_, taken, ((refreshGates_calm _).trans (settle_calm _)).steady, fun hu => ?_⟩
  obtain ⟨_, _, _, turns⟩ := refreshGates_turns (s := written) (NoneStops.undecided hu)
  rw [turns, settle_of_none (by exact ht.ready.2.1)]
  exact ⟨rfl, rfl, rfl⟩

theorem exec_destCloseReceived (d : DestSet) (action : Byte) (ht : Taken h s) (ha : acting s = true) :
    exec (.destCloseReceived h d action) s = .next (drivePins (putLate (lateAfter d action s) (counted s))) := by
  rw [exec_delivered ht.toDelivered ht.ready (peerHeard_up ht.up) (by simp) (by simp) rfl, destCloseTaken_eq d action ha]
  have owed := (putLate_leaves (lateAfter d action s) s).1.owed.trans ht.ready.2.1
  exact congrArg _ (settle_of_none owed)

/-- R80, R90: every decided record is decided afresh where the late set changes. -/
theorem putLate_afresh {late : DestSet} (ha : acting s = true) (hc : late ≠ s.routes.late) (hn : (segmentSlots s).Nodup) :
    DecidedAfresh (lateWritten late s) (drivePins (putLate late (counted s))) := by
  rw [putLate_eq, if_neg hc]
  exact (Prepares.refl (lateWritten late s)).decidedAfresh ha hn

/-! ## LOADING and CONFIG_FAULT -/

/-- The frames that reach an owner only where the part acts, each with its owner. -/
inductive ActsAlone (h : Header) : Instr → (State → State) → Prop where
  | accept (id : Byte) : ActsAlone h (.acceptReceived h id) (acceptReceived h.src id)
  | retry (id : Byte) : ActsAlone h (.retryReceived h id) (retryReceived h.src id)
  | path (reach : DestSet) : ActsAlone h (.pathReceived h reach) (pathTaken h.src reach)
  | hold (quanta : Byte) : ActsAlone h (.holdReceived h quanta) (holdTaken h.src quanta)
  | answer (p : AnswerPayload) : ActsAlone h (.answerReceived h p) (answerTaken p)
  | update (p : UpdatePayload) : ActsAlone h (.updateReceived h p) (updateTaken p)
  | epoch (e : Byte) : ActsAlone h (.epochReceived h e) (epochTaken e)
  | destClose (d : DestSet) (a : Byte) : ActsAlone h (.destCloseReceived h d a) (destCloseTaken d a)
  | missing (p : BitVec 40) (r : Byte) : ActsAlone h (.missingReceived h p r) (missingTaken p r)
  | found (p : FoundPayload) : ActsAlone h (.foundReceived h p) (foundTaken p)
  | handoff (p : HandoffPayload) : ActsAlone h (.handoffReceived h p) (handoffTaken h.src p)

variable {c : Instr} {owner : State → State}

theorem ActsAlone.delivers (hc : ActsAlone h c owner) : (∀ r, c ≠ .reset r) ∧ c ≠ .resetNAsserted ∧ effect c = deliverFrame h owner := by
  cases hc <;> exact ⟨fun _ => nofun, nofun, rfl⟩

theorem ActsAlone.leaves (hc : ActsAlone h c owner) {u : State} (hu : acting u = false) : owner u = u := by
  have plain : ¬ acting u = true := by simp [hu]
  have guarded (p : Prop) : ¬ (acting u = true ∧ p) := fun both => plain both.1
  have mute : ¬ speaks u = true := by
    unfold acting at hu
    unfold speaks
    rcases hn : u.loader.node <;> simp_all
  cases hc with
  | accept _ => exact if_neg plain
  | retry _ => exact if_neg plain
  | path _ => exact if_neg plain
  | hold _ => exact if_neg plain
  | destClose _ _ => exact if_neg plain
  | answer _ => exact if_neg (guarded _)
  | update _ => exact if_neg (guarded _)
  | epoch _ => exact if_neg (guarded _)
  | missing _ _ => exact if_neg (guarded _)
  | found _ => exact if_neg (guarded _)
  | handoff _ => exact if_neg mute

/-- R58, R118, R120, R121, R153: such a frame is counted and no more. -/
theorem ActsAlone.exec (hc : ActsAlone h c owner) (hd : Delivered h s) (hr : Ready s)
    (hl : s.loader.node = .loading ∨ s.loader.node = .configFault) : Machine.exec c s = .next (drivePins (counted s)) := by
  obtain ⟨h1, h2, delivers⟩ := hc.delivers
  have idle : acting s = false := by
    unfold acting
    rcases hl with hl | hl <;> rw [hl]
  exact exec_only_counted hd hr idle h1 h2 delivers fun _ hu => hc.leaves hu

end

/-- Settles O40: a PATH is `exec_pathReceived`, a HOLD `exec_holdReceived`, a DEST_CLOSE `exec_destCloseReceived` with
`putLate_afresh`, and a frame where no part acts `ActsAlone.exec`. -/
theorem framesWriteTheRouteTable : Obligations.FramesWriteTheRouteTable := by
  refine ⟨fun h s ht ha => ⟨fun reach => ?_, fun quanta => exec_holdReceived quanta ht ha, fun d action => ⟨?_, fun h0 h1 => ?_⟩⟩,
    fun h c s hr hd hl hc => ?_⟩
  · obtain ⟨t, taken, stands, same, changed⟩ := exec_pathReceived reach ht ha
    refine ⟨t, taken, stands, fun hs => ?_, changed⟩
    rw [same fun ⟨o, r, ho, hk, hp, hl⟩ => hl (hs o r ho hk hp)]
    exact ⟨rfl, rfl, rfl⟩
  · obtain ⟨alone, calm, reach⟩ := putLate_leaves (lateAfter d action s) s
    exact ⟨_, exec_destCloseReceived d action ht ha, (calm.trans (drivePins_calm _)).steady, alone.reads.routes, reach,
      putLate_undecided, fun hc hn _ => putLate_afresh ha hc hn⟩
  · rw [exec_destCloseReceived d action ht ha, lateAfter, if_neg h1, if_neg h0]
    exact congrArg (fun u => Host.Outcome.next (drivePins u)) (if_pos rfl)
  · rcases hc with ⟨id, rfl | rfl⟩ | ⟨reach, rfl⟩ | ⟨quanta, rfl⟩ | ⟨p, rfl⟩ | ⟨p, rfl⟩ | ⟨e, rfl⟩ | ⟨d, a, rfl⟩ | ⟨p, r, rfl⟩ |
      ⟨p, rfl⟩ | ⟨p, rfl⟩
    · exact (ActsAlone.accept id).exec hd hr hl
    · exact (ActsAlone.retry id).exec hd hr hl
    · exact (ActsAlone.path reach).exec hd hr hl
    · exact (ActsAlone.hold quanta).exec hd hr hl
    · exact (ActsAlone.answer p).exec hd hr hl
    · exact (ActsAlone.update p).exec hd hr hl
    · exact (ActsAlone.epoch e).exec hd hr hl
    · exact (ActsAlone.destClose d a).exec hd hr hl
    · exact (ActsAlone.missing p r).exec hd hr hl
    · exact (ActsAlone.found p).exec hd hr hl
    · exact (ActsAlone.handoff p).exec hd hr hl

end Sys2Proof.Machine
end

section
/-! PROOFS. The decision lines (R84 to R88), an equation for each line that applies. -/

namespace Sys2Proof.Machine

section
variable {s : State} {b : BagRecord}

theorem decideLines_foreign (hf : foreignStray b = true) : decideLines s b = ⟨(cfg s).exceptionOutlet, none⟩ := if_pos hf

/-- R84: the first of the refusing conditions gives the reason. -/
theorem decideLines_refused (hf : foreignStray b = false) {reason : StrayReason} (hr : refusalReason s b = some reason) :
    decideLines s b = ⟨(cfg s).exceptionOutlet, some reason⟩ := by
  unfold decideLines
  simp only [hf, hr, Bool.false_eq_true, if_false]

/-- R85. -/
theorem decideLines_limit (hf : foreignStray b = false) (hr : refusalReason s b = none) (hp : (cfg s).passLimit ≤ b.passCount) :
    decideLines s b = ⟨(cfg s).exceptionOutlet, some .recircLimit⟩ := by
  unfold decideLines
  simp only [hf, hr, if_pos hp, Bool.false_eq_true, if_false]

/-- R86. -/
theorem decideLines_unresolved (hf : foreignStray b = false) (hr : refusalReason s b = none) (hp : b.passCount < (cfg s).passLimit)
    (hu : b.status ≠ .resolved ∨ b.part = none) : decideLines s b =
      if throughOpen s then ⟨.o0, none⟩ else ⟨(cfg s).exceptionOutlet, some (unresolvedReason b)⟩ := by
  unfold decideLines
  simp only [hf, hr, if_neg (not_le.mpr hp), Bool.false_eq_true, if_false]
  split
  · rename_i hs part
    rcases hu with hu | hu
    · exact absurd hs hu
    · rw [hu] at part; cases part
  · rfl

/-- R87, R88. -/
theorem decideLines_resolved (hf : foreignStray b = false) (hr : refusalReason s b = none) (hp : b.passCount < (cfg s).passLimit)
    (hs : b.status = .resolved) {p : ManifestPart} (hpart : b.part = some p) :
    (∀ o, bestCandidate s p = some o → decideLines s b = ⟨o, none⟩) ∧
    (bestCandidate s p = none → decideLines s b =
      if throughOpen s then ⟨.o0, none⟩ else ⟨(cfg s).exceptionOutlet, some .noRoute⟩) := by
  unfold decideLines
  simp only [hf, hr, if_neg (not_le.mpr hp), hs, hpart, Bool.false_eq_true, if_false]
  exact ⟨fun o ho => by rw [ho], fun hn => by rw [hn]⟩

/-- R84, conditions 2 to 4. -/
theorem refusalReason_marked : (b.flags.duplicate = true → refusalReason s b = some .duplicate) ∧
    (b.flags.duplicate = false → b.flags.mismatch = true → refusalReason s b = some .mismatch) ∧
    (b.flags.duplicate = false → b.flags.mismatch = false → b.flags.ambiguous = true → refusalReason s b = some .ambiguous) := by
  unfold refusalReason
  exact ⟨fun h => by rw [if_pos h], fun h h' => by rw [if_neg (by simp [h]), if_pos h'],
    fun h h' h'' => by rw [if_neg (by simp [h]), if_neg (by simp [h']), if_pos h'']⟩

/-- R84, condition 7: a bag of another ship. -/
def WrongShip (s : State) (p : ManifestPart) : Prop := p.ship = 0 ∨ (cfg s).ships.getLsbD p.ship = false

/-- Neither DUPLICATE nor MISMATCH nor AMBIGUOUS. -/
def Unmarked (b : BagRecord) : Prop := ¬ (b.flags.duplicate = true ∨ b.flags.mismatch = true ∨ b.flags.ambiguous = true)

theorem refusalReason_unmarked_none (hm : Unmarked b) (hp : b.part = none) : refusalReason s b = none := by
  simp only [Unmarked, not_or, Bool.not_eq_true] at hm
  simp [refusalReason, hm, hp]

/-- R84, conditions 5 to 8. -/
theorem refusalReason_unmarked (hm : Unmarked b) {p : ManifestPart} (hp : b.part = some p) :
    (p.cls = .cancelled → refusalReason s b = some .cancelled) ∧ (p.cls = .inspect → refusalReason s b = some .inspect) ∧
    (p.cls ≠ .cancelled → p.cls ≠ .inspect → WrongShip s p → refusalReason s b = some .wrongShip) ∧
    (p.cls ≠ .cancelled → p.cls ≠ .inspect → ¬ WrongShip s p → s.routes.late.getLsbD p.destination = true →
      refusalReason s b = some .late) ∧
    (p.cls ≠ .cancelled → p.cls ≠ .inspect → ¬ WrongShip s p → s.routes.late.getLsbD p.destination = false →
      refusalReason s b = none) := by
  simp only [Unmarked, not_or, Bool.not_eq_true] at hm
  simp only [WrongShip, not_or, Bool.not_eq_false]
  refine ⟨fun hc => ?_, fun hc => ?_, fun h1 h2 h3 => ?_, fun h1 h2 h3 h4 => ?_, fun h1 h2 h3 h4 => ?_⟩
  · simp [refusalReason, hm, hp, hc]
  · simp [refusalReason, hm, hp, hc]
  · simp only [refusalReason, hm, hp, h1, h2, if_false, Bool.false_eq_true, if_pos h3.symm]
  · simp [refusalReason, hm, hp, h1, h2, h3, h4]
  · simp [refusalReason, hm, hp, h1, h2, h3, h4]

/-- R84: a part that none of the conditions holds back. -/
def HeldBack (s : State) (p : ManifestPart) : Prop :=
  p.cls = .cancelled ∨ p.cls = .inspect ∨ WrongShip s p ∨ s.routes.late.getLsbD p.destination = true

/-- R84: with none of the conditions the next lines are taken. -/
theorem refusalReason_clear (hm : Unmarked b) (hp : ∀ p, b.part = some p → ¬ HeldBack s p) : refusalReason s b = none := by
  rcases hb : b.part with _ | p
  · exact refusalReason_unmarked_none hm hb
  · obtain ⟨-, -, -, -, clear⟩ := refusalReason_unmarked (s := s) hm hb
    have passes := hp p hb
    simp only [HeldBack, not_or, Bool.not_eq_true] at passes
    obtain ⟨cancelled, inspect, ship, late⟩ := passes
    exact clear cancelled inspect ship late

/-- R86, R88: outlet 0 is open to a bag without a route. -/
theorem throughOpen_iff (s : State) :
    throughOpen s = true ↔ (∃ r, row s .o0 = some r ∧ r.kind = .peer) ∧ (cfg s).exceptionOutlet ≠ .o0 := by
  unfold throughOpen peerOf
  rcases row s .o0 with _ | r
  · simp
  · by_cases hk : r.kind = .peer <;> simp [hk]

/-- R84: a standard bag of a ship of this junction, its destination not late. -/
theorem not_heldBack {p : ManifestPart} (hc : p.cls = .standard) (h0 : p.ship ≠ 0) (hs : (cfg s).ships.getLsbD p.ship = true)
    (hl : s.routes.late.getLsbD p.destination = false) : ¬ HeldBack s p := by simp [HeldBack, WrongShip, hc, h0, hs, hl]

/-- R86, R88: a line that goes through where outlet 0 is open, and else assigns a reason. -/
theorem throughOpen_cases {oc one two : Outcome} (line : oc = if throughOpen s then one else two) :
    ((∃ r, row s .o0 = some r ∧ r.kind = .peer) ∧ (cfg s).exceptionOutlet ≠ .o0 → oc = one) ∧
    (¬ ((∃ r, row s .o0 = some r ∧ r.kind = .peer) ∧ (cfg s).exceptionOutlet ≠ .o0) → oc = two) :=
  ⟨fun h => line.trans (if_pos ((throughOpen_iff s).mpr h)), fun h => line.trans (if_neg (mt (throughOpen_iff s).mp h))⟩

theorem unresolvedReason_eq (b : BagRecord) : unresolvedReason b =
    if b.plate ≠ 0 then .noManifest else if b.source ≠ 0 then .noRead else .unannounced := by
  simp [unresolvedReason]

/-- R87: a bag without marks that is held back by nothing takes its best candidate. -/
theorem decideLines_best (hm : b.flags = {}) {p : ManifestPart} (hp : b.part = some p) (hs : b.status = .resolved)
    (hh : ¬ HeldBack s p) (hl : b.passCount < (cfg s).passLimit) {o : Outlet} (ho : bestCandidate s p = some o) :
    decideLines s b = ⟨o, none⟩ := by
  have clear : refusalReason s b = none := refusalReason_clear (by simp [Unmarked, hm]) fun q hq => by
    obtain rfl : p = q := Option.some.inj (hp.symm.trans hq)
    exact hh
  exact (decideLines_resolved (by simp [foreignStray, hm]) clear hl hs hp).1 o ho

theorem not_foreignStray (h : b.flags.stray = false ∨ b.decision.straySet = true) : foreignStray b = false := by
  rcases h with h | h <;> simp [foreignStray, h]

end

end Sys2Proof.Machine
end

section
/-! PROOFS. The scheduling of a record by its cases (R99 to R108), where no gate stands: a bag sent through, the closing checks, the
fire and the release point of a window, a window of its own. -/

namespace Sys2Proof.Machine

section
variable {s : State}

/-! ## Events and marks (R107) -/

/-- R160: an event counted changes the event counters and the transmit queue. -/
theorem countEvent_alone (e : CounterEvent) (s : State) : ∃ bus one two,
    countEvent e s = { s with bus := bus, exc := { s.exc with counter1 := one, counter2 := two } } := by
  obtain ⟨bus, owed, one, two, counts⟩ := countEvent_counts e s
  have same := countEvent_owed e s
  rw [counts] at same ⊢
  obtain rfl : owed = s.owed := same
  exact ⟨_, _, _, rfl⟩

/-- R107: what the cause of a send-through counts, and OVERRIDE_LATE for a late one. -/
def tallied (c : ThroughCause) (slot : Nat) (s : State) : State :=
  match c with
  | .gapConflict => { s with divert := { s.divert with gapConflict := s.divert.gapConflict + 1 } }
  | .diverterBusy => { s with divert := { s.divert with busy := s.divert.busy + 1 } }
  | .overrideLate => updateBag slot (fun b => { b with flags := { b.flags with overrideLate := true } })
      { s with divert := { s.divert with lateDivert := s.divert.lateDivert + 1 } }

theorem countThrough_tallies (c : ThroughCause) (slot : Nat) (s : State) : ∃ bus one two, countThrough c slot s =
    { tallied c slot s with bus := bus, exc := { s.exc with counter1 := one, counter2 := two } } := by
  cases c with
  | gapConflict => exact countEvent_alone .gapConflict (tallied .gapConflict slot s)
  | diverterBusy => exact countEvent_alone .diverterBusy (tallied .diverterBusy slot s)
  | overrideLate => exact countThrough_late slot s

theorem handChosen_no_gates (slot : Nat) (h : NoGates s) : handChosen slot s = s := by
  have gone (a : Option Outlet) : allOutlets.foldl (fun acc o => if a = some o then acc else stoppersGone [slot] o acc) s = s :=
    List.foldl_fixed' (fun o => by simp only [stoppersGone_no_gates _ _ h, ite_self]) _
  unfold handChosen
  split
  · rfl
  · simp only [gone]
    split
    · rfl
    · simp [determineStop, h.gate]

/-- R107: with neither window nor gate a bag sent through has its chosen outlet and its tally changed. -/
theorem sendThrough_clear {slot : Nat} {b : BagRecord} (hw : NoWindows s) (hg : NoGates s) (hb : findBag s slot = some b)
    (c : ThroughCause) (busy : Nat) :
    sendThrough c busy slot s = countThrough c slot (updateBag slot (setChosen .o0) s) := by
  obtain ⟨_, _, _, counts⟩ := countThrough_tallies c slot (updateBag slot (setChosen .o0) s)
  have clear : NoWindows (countThrough c slot (updateBag slot (setChosen .o0) s)) := by rw [counts]; cases c <;> exact hw
  have gates : NoGates (countThrough c slot (updateBag slot (setChosen .o0) s)) := by rw [counts]; cases c <;> exact hg
  have checked : allDiverters.foldl (fun acc j => if passes acc b.entry .o0 j && !passesFor acc b.entry b.chosen j then
      riskCheck slot b.entry j acc else acc) (countThrough c slot (updateBag slot (setChosen .o0) s)) =
      countThrough c slot (updateBag slot (setChosen .o0) s) :=
    List.foldl_fixed' (fun j => by simp only [riskCheck_same clear, ite_self]) _
  unfold sendThrough
  rw [hb]
  simp only [checked, handChosen_no_gates slot gates, ite_self]

/-! ## The closing checks (R104) -/

theorem closingCheck_empty {j : Diverter} (h : windowsOf s j = {}) (n slot : Nat) (e : Pos) : closingCheck n slot e j s = s := by
  have none : latestAhead (windowsOf s j) e = none := by rw [h]; rfl
  cases n with
  | zero => rfl
  | succ n =>
    unfold closingCheck
    rw [none]
    split <;> simp_all

/-- R104: a bag that passes no diverter with a window meets no check. -/
theorem closingChecks_clear {e : Pos} {o : Outlet} (h : ∀ j, passes s e o j = true → windowsOf s j = {}) (slot : Nat) :
    closingChecks slot e o s = s := by
  refine List.foldl_fixed' (fun j => ?_) _
  split
  · rename_i hp
    exact closingCheck_empty (h j hp) 9 slot e
  · rfl

/-- R102: a bag bound for a diverter does not pass it. -/
theorem passes_own {k : Diverter} {x : DiverterConfig} (hx : diverterCfg s k = some x) (e : Pos) :
    passes s e (outletOfDiverter k) k = false := by
  have position : outletPosition s (outletOfDiverter k) = some x.position := by
    have own : diverterOfOutlet (outletOfDiverter k) = some k := by cases k <;> rfl
    rw [outletPosition, own, Option.bind_some, hx]
    rfl
  simp [passes, hx, position]

/-! ## The windows of one diverter -/

theorem windowsAt_get (k j : Diverter) (w : DiverterWindows) : (windowsAt k w).get j = if j = k then w else {} := by
  rw [windowsAt, PerDiverter_get_set]
  cases j <;> rfl

theorem windowsAt_set (k : Diverter) (v w : DiverterWindows) : (windowsAt k v).set k w = windowsAt k w := by cases k <;> rfl

theorem windowsAt_none (k : Diverter) : windowsAt k {} = ⟨{}, {}, {}⟩ := by cases k <;> rfl

/-- The windows stand at one diverter. -/
def WindowsAt (k : Diverter) (w : DiverterWindows) (s : State) : Prop := s.divert.windows = windowsAt k w

theorem NoWindows.windowsAt (h : NoWindows s) (k : Diverter) : WindowsAt k {} s := h.trans (windowsAt_none k).symm

theorem WindowsAt.at {k : Diverter} {w : DiverterWindows} (h : WindowsAt k w s) : windowsOf s k = w := by
  rw [windowsOf, h, windowsAt_get, if_pos rfl]

theorem WindowsAt.other {k j : Diverter} {w : DiverterWindows} (h : WindowsAt k w s) (hj : j ≠ k) : windowsOf s j = {} := by
  rw [windowsOf, h, windowsAt_get, if_neg hj]

/-- The windows of a diverter put in place of those that stand there. -/
theorem WindowsAt.putWindows_eq {k : Diverter} {v : DiverterWindows} (h : WindowsAt k v s) (w : DiverterWindows) :
    putWindows k w s = { s with divert := { s.divert with windows := windowsAt k w } } := by
  rw [putWindows, show s.divert.windows = _ from h, windowsAt_set]

/-! ## The points of a window (R99, R100) -/

theorem mem_holdPosition_self (i : Item) (p : Pos) (s : State) : (⟨i, p⟩ : Registration) ∈ (holdPosition i p s).belt.register :=
  List.mem_append_right _ (List.mem_singleton.mpr rfl)

theorem mem_holdPosition_of_mem {i : Item} {p : Pos} {y : Registration} (hy : y ∈ s.belt.register) :
    y ∈ (holdPosition i p s).belt.register := List.mem_append_left _ hy

theorem mem_withdraw {i : Item} {y : Registration} (hy : y ∈ s.belt.register) (hi : y.item ≠ i) :
    y ∈ (withdraw i s).belt.register := List.mem_filter.mpr ⟨hy, decide_eq_true hi⟩

/-- A window changed, and the register as it then is. -/
def windowWritten (k : Diverter) (n : Nat) (f : Window → Window) (register : List Registration) (s : State) : State :=
  { updateWindow k n f s with belt := { s.belt with register := register } }

/-- R99: the fire point of a window, not reached and with no gate, is registered. -/
theorem setFire_registers {k : Diverter} {n : Nat} {x : DiverterConfig} {w : Window} {h : WindowBag} (hg : NoGates s)
    (hx : diverterCfg s k = some x) (hw : windowNumbered s k n = some w) (hf : w.fired = false) (hh : w.bags.head? = some h)
    (hr : reached s.belt.d (fireFor s x h.entry) = false) : ∃ register,
    setFire k n s = windowWritten k n (fun y => { y with fire := fireFor s x h.entry }) register s ∧
      (⟨.firePoint k n, fireFor s x h.entry⟩ : Registration) ∈ register := by
  let aims := updateWindow k n (fun y => { y with fire := fireFor s x h.entry }) s
  refine ⟨(holdPosition (.firePoint k n) (fireFor s x h.entry) (withdraw (.firePoint k n) aims)).belt.register, ?_,
    mem_holdPosition_self _ _ _⟩
  have ahead : reached aims.belt.d (fireFor s x h.entry) = false := hr
  have registered : offerPosition (.firePoint k n) (fireFor s x h.entry) (fireWindow k n) aims =
      holdPosition (.firePoint k n) (fireFor s x h.entry) (withdraw (.firePoint k n) aims) :=
    if_neg (by rw [ahead]; exact Bool.false_ne_true)
  have fires : setFire k n s =
      fireMoved k n (offerPosition (.firePoint k n) (fireFor s x h.entry) (fireWindow k n) aims) := by
    unfold setFire
    simp only [hx, hw, hf, hh]
    rfl
  have clear : NoGates (holdPosition (.firePoint k n) (fireFor s x h.entry) (withdraw (.firePoint k n) aims)) := hg
  rw [fires, registered, fireMoved_no_gates k n clear]
  rfl

/-- R100: the release point of a window, not reached, is registered. -/
theorem setRelease_registers {k : Diverter} {n : Nat} {x : DiverterConfig} {w : Window} {p : Option Pos}
    (hx : diverterCfg s k = some x) (hw : windowNumbered s k n = some w) (hp : w.bags.getLast?.bind (releaseFor x) = p)
    (hr : ∀ q, p = some q → reached s.belt.d q = false) : ∃ register,
    setRelease k n s = windowWritten k n (fun y => { y with release := p }) register s ∧
      (∀ q, p = some q → (⟨.releasePoint k n, q⟩ : Registration) ∈ register) ∧
      ∀ y ∈ s.belt.register, y.item ≠ .releasePoint k n → y ∈ register := by
  let ends := updateWindow k n (fun y => { y with release := p }) s
  cases p with
  | none =>
    have withdrawn : setRelease k n s = withdraw (.releasePoint k n) ends := by
      unfold setRelease
      simp only [hx, hw, hp]
      rfl
    exact ⟨_, withdrawn, fun _ h => (by cases h), fun y hy hi => mem_withdraw (s := ends) hy hi⟩
  | some q =>
    have ahead : reached ends.belt.d q = false := hr q rfl
    have registered : setRelease k n s = holdPosition (.releasePoint k n) q (withdraw (.releasePoint k n) ends) := by
      have offered : setRelease k n s = offerPosition (.releasePoint k n) q (releaseWindow k n) ends := by
        unfold setRelease
        simp only [hx, hw, hp]
        rfl
      exact offered.trans (if_neg (by rw [ahead]; exact Bool.false_ne_true))
    refine ⟨_, registered, fun q' h => ?_, fun y hy hi => ?_⟩
    · cases h
      exact mem_holdPosition_self _ _ _
    · exact mem_holdPosition_of_mem (mem_withdraw (s := ends) hy hi)

end

end Sys2Proof.Machine
end

section
/-! PROOFS. A window opened and a window joined, written out (R99, R100, R105, R106), and the record nearest ahead (R106). -/

namespace Sys2Proof.Machine

section
variable {s : State} {k : Diverter} {x : DiverterConfig}

/-! ## The window list of a diverter -/

/-- A window placed behind the one that may stand. -/
def opened (before : Option Window) (made : Window) : DiverterWindows :=
  match before with
  | none => ⟨some made, none⟩
  | some w => ⟨some w, some made⟩

/-- The windows of a diverter with the one of a number changed. -/
def changedWindow (n : Nat) (f : Window → Window) (v : DiverterWindows) : DiverterWindows :=
  ⟨v.active.map (fun w => if w.number = n then f w else w), v.next.map (fun w => if w.number = n then f w else w)⟩

theorem windowWritten_at {v : DiverterWindows} (h : WindowsAt k v s) (n : Nat) (f : Window → Window)
    (register : List Registration) :
    windowWritten k n f register s = { s with
      belt := { s.belt with register := register }
      divert := { s.divert with windows := windowsAt k (changedWindow n f v) } } := by
  have put : updateWindow k n f s = putWindows k (changedWindow n f v) s := by
    unfold updateWindow changedWindow
    rw [h.at]
  rw [windowWritten, put, h.putWindows_eq]

/-- A window that may stand has another number. -/
def OtherNumber (n : Nat) (before : Option Window) : Prop := ∀ w, before = some w → w.number ≠ n

theorem changedWindow_opened {n : Nat} {before : Option Window} {made : Window} (hb : OtherNumber n before) (hm : made.number = n)
    (f : Window → Window) : changedWindow n f (opened before made) = opened before (f made) := by
  cases before with
  | none => simp [changedWindow, opened, hm]
  | some w => simp [changedWindow, opened, hm, hb w rfl]

theorem windowNumbered_opened {n : Nat} {before : Option Window} {made : Window} (h : WindowsAt k (opened before made) s)
    (hb : OtherNumber n before) (hm : made.number = n) : windowNumbered s k n = some made := by
  rw [windowNumbered, h.at]
  cases before with
  | none => simp [opened, windowList, hm]
  | some w => simp [opened, windowList, hm, hb w rfl]

/-! ## A window of its own (R106) -/

/-- R99, R100, R106: the window of a bag, its points computed. -/
def madeWindow (x : DiverterConfig) (b : BagRecord) (s : State) : Window :=
  { ownWindow b s with fire := fireFor s x b.entry, release := releaseFor x ⟨b.slot, b.entry, b.length, false⟩ }

theorem withOwnWindow_opened {before : Option Window} (h : WindowsAt k ⟨before, none⟩ s) (b : BagRecord) :
    withOwnWindow k b s = { s with
      serial := { s.serial with window := s.serial.window + 1 }
      divert := { s.divert with windows := windowsAt k (opened before (ownWindow b s)) } } := by
  unfold withOwnWindow
  rw [h.at]
  have placed : (if before.isNone then (⟨some (ownWindow b s), none⟩ : DiverterWindows) else ⟨before, some (ownWindow b s)⟩) =
      opened before (ownWindow b s) := by cases before <;> rfl
  simp only [placed]
  exact WindowsAt.putWindows_eq (s := { s with serial := { s.serial with window := s.serial.window + 1 } }) h _

theorem openWindow_opens {before : Option Window} {b : BagRecord} (hg : NoGates s) (hx : diverterCfg s k = some x)
    (h : WindowsAt k ⟨before, none⟩ s) (hb : OtherNumber s.serial.window before)
    (hf : reached s.belt.d (fireFor s x b.entry) = false)
    (hr : ∀ q, releaseFor x ⟨b.slot, b.entry, b.length, false⟩ = some q → reached s.belt.d q = false) : ∃ register,
    openWindow k b s = { s with
      serial := { s.serial with window := s.serial.window + 1 }
      belt := { s.belt with register := register }
      divert := { s.divert with windows := windowsAt k (opened before (madeWindow x b s)) } } ∧
    (⟨.firePoint k s.serial.window, fireFor s x b.entry⟩ : Registration) ∈ register ∧
    ∀ q, releaseFor x ⟨b.slot, b.entry, b.length, false⟩ = some q →
      (⟨.releasePoint k s.serial.window, q⟩ : Registration) ∈ register := by
  have own := withOwnWindow_opened h b
  have at1 : WindowsAt k (opened before (ownWindow b s)) (withOwnWindow k b s) := by rw [own]; rfl
  obtain ⟨register, fires, aimed⟩ := setFire_registers (s := withOwnWindow k b s) (k := k) (n := s.serial.window) (x := x)
    (w := ownWindow b s) (h := ⟨b.slot, b.entry, b.length, false⟩) (by rw [own]; exact hg) (by rw [own]; exact hx)
    (windowNumbered_opened at1 hb rfl) rfl rfl (by rw [own]; exact hf)
  rw [windowWritten_at at1, changedWindow_opened hb rfl, own] at fires
  have at2 : WindowsAt k (opened before { ownWindow b s with fire := fireFor s x b.entry })
      (setFire k s.serial.window (withOwnWindow k b s)) := by rw [own, fires]; rfl
  obtain ⟨register', releases, points, others⟩ := setRelease_registers (s := setFire k s.serial.window (withOwnWindow k b s))
    (k := k) (n := s.serial.window) (x := x) (w := { ownWindow b s with fire := fireFor s x b.entry })
    (p := releaseFor x ⟨b.slot, b.entry, b.length, false⟩) (by rw [own, fires]; exact hx)
    (windowNumbered_opened at2 hb rfl) rfl (by rw [own, fires]; exact hr)
  refine ⟨register', ?_, others _ (by rw [own, fires]; rw [own] at aimed; exact aimed) (by simp), points⟩
  rw [openWindow_eq, releases, windowWritten_at at2, changedWindow_opened hb rfl, own, fires]
  rfl

/-! ## A window joined (R105) -/

theorem joinWindow_joins {w : Window} {b : BagRecord} (hx : diverterCfg s k = some x) (h : WindowsAt k ⟨some w, none⟩ s)
    (hf : w.fired = false) (hr : ∀ q, releaseFor x ⟨b.slot, b.entry, b.length, false⟩ = some q → reached s.belt.d q = false) :
    ∃ register, joinWindow k w b s = { s with
      belt := { s.belt with register := register }
      divert := { s.divert with windows := windowsAt k ⟨some { w with
        bags := w.bags ++ [⟨b.slot, b.entry, b.length, false⟩]
        release := releaseFor x ⟨b.slot, b.entry, b.length, false⟩ }, none⟩ } } ∧
    ∀ q, releaseFor x ⟨b.slot, b.entry, b.length, false⟩ = some q → (⟨.releasePoint k w.number, q⟩ : Registration) ∈ register := by
  let joined : Window := { w with bags := w.bags ++ [⟨b.slot, b.entry, b.length, false⟩] }
  let s1 := updateWindow k w.number (fun y => { y with bags := y.bags ++ [⟨b.slot, b.entry, b.length, false⟩] }) s
  have other : OtherNumber w.number none := fun _ h => by cases h
  have written : s1 = windowWritten k w.number (fun y => { y with bags := y.bags ++ [⟨b.slot, b.entry, b.length, false⟩] })
      s.belt.register s := rfl
  rw [windowWritten_at h, show (⟨some w, none⟩ : DiverterWindows) = opened none w from rfl,
    changedWindow_opened other rfl] at written
  have at1 : WindowsAt k (opened none joined) s1 := by rw [written]; rfl
  obtain ⟨register, releases, points, -⟩ := setRelease_registers (s := s1) (k := k) (n := w.number) (x := x) (w := joined)
    (p := releaseFor x ⟨b.slot, b.entry, b.length, false⟩) (by rw [written]; exact hx)
    (windowNumbered_opened at1 other rfl) (by simp [joined]) (by rw [written]; exact hr)
  refine ⟨register, ?_, points⟩
  have joins : joinWindow k w b s = setRelease k w.number s1 := if_neg (by simp [hf])
  rw [joins, releases, windowWritten_at at1, changedWindow_opened (made := joined) other (show joined.number = w.number from rfl),
    written]
  rfl

/-! ## The record nearest ahead (R106) -/

theorem FirstOf.find_eq {α : Type} {test : α → Prop} {check : α → Bool} {l : List α} (hc : ∀ y ∈ l, check y = true ↔ test y)
    (y : α) : FirstOf test l y ↔ l.find? check = some y := by
  rw [List.find?_eq_some_iff_append]
  constructor
  · rintro ⟨pre, post, rfl, ht, hn⟩
    exact ⟨(hc y (by simp)).mpr ht, pre, post, rfl, fun z hz => by
      rw [Bool.not_eq_true']
      exact Bool.eq_false_iff.mpr fun h => hn z hz ((hc z (by simp [hz])).mp h)⟩
  · rintro ⟨ht, pre, post, rfl, hn⟩
    exact ⟨pre, post, rfl, (hc y (by simp)).mp ht, fun z hz h => by
      have := hn z hz
      rw [Bool.not_eq_true', (hc z (by simp [hz])).mpr h] at this
      cases this⟩

theorem boundBefore_iff {position : Nat} {a : BagRecord} :
    ((a.chosen.bind (outletPosition s)).any (fun l => decide (l < position))) = true ↔ BoundBefore s position a := by
  have diverter (o : Outlet) (j : Diverter) : diverterOfOutlet o = some j ↔ o = outletOfDiverter j := by
    cases o <;> cases j <;> simp [diverterOfOutlet, outletOfDiverter]
  unfold BoundBefore
  simp only [Option.any_eq_true, Option.bind_eq_some_iff, outletPosition, Option.map_eq_some_iff, decide_eq_true_eq, diverter]
  constructor
  · rintro ⟨_, ⟨o, ho, j, rfl, y, hy, rfl⟩, hl⟩
    exact ⟨j, y, ho, hy, hl⟩
  · rintro ⟨j, y, ho, hy, hl⟩
    exact ⟨_, ⟨_, ho, j, rfl, y, hy, rfl⟩, hl⟩

theorem takeWhile_slot {pre post : List BagRecord} {r : BagRecord} {slot : Nat} (hr : r.slot = slot)
    (hn : ∀ y ∈ pre, y.slot ≠ slot) :
    (pre ++ r :: post).takeWhile (fun b => decide (b.slot ≠ slot)) = pre := by
  rw [List.takeWhile_append_of_pos (fun y hy => decide_eq_true (hn y hy)), List.takeWhile_cons_of_neg (by simp [hr]),
    List.append_nil]

/-- R106: of the records ahead of one in the queue, the nearest that is in no window here and not bound for a diverter before. -/
theorem nearestAhead_eq {pre post : List BagRecord} {r : BagRecord} {slot : Nat} (hs : s.tracker.segment = pre ++ r :: post)
    (hr : r.slot = slot) (hn : ∀ y ∈ pre, y.slot ≠ slot) : nearestAhead s k x slot = pre.reverse.find? (fun a =>
      (windowOfBag s k a.slot).isNone && !((a.chosen.bind (outletPosition s)).any (fun l => decide (l < x.position)))) := by
  rw [nearestAhead, hs, takeWhile_slot hr hn]

end

end Sys2Proof.Machine
end

section
/-! PROOFS. The decision position of an undecided record is reached (R82, R89): its outcome is written, its stray record made, and
it is handed to the Divert Scheduler. -/

namespace Sys2Proof.Machine

section
variable {s : State} {r : BagRecord} {slot : Nat} {a b forward : Bool} {p : Pos}

/-- R82, R83: the outcome of a record at its decision position. -/
def outcomeAt (s : State) (r : BagRecord) : Outcome := decideLines s (countPass s r)

/-- R82, R89: the record with its outcome. -/
def decidedAt (s : State) (r : BagRecord) : BagRecord := writeOutcome (outcomeAt s r) (countPass s r)

theorem countPass_marks (s : State) (r : BagRecord) : countPass s r = { r with passCount := (countPass s r).passCount } := by
  unfold countPass
  split <;> rfl

/-- R82, R89: what the decision makes of the record. -/
theorem decidedAt_marks (s : State) (r : BagRecord) : (decidedAt s r).slot = r.slot ∧ (decidedAt s r).tracking = .decided ∧
    (decidedAt s r).entry = r.entry ∧ (decidedAt s r).length = r.length ∧ (decidedAt s r).chosen = some (outcomeAt s r).outlet ∧
    (decidedAt s r).flags.atRisk = r.flags.atRisk ∧ (decidedAt s r).flags.overrideLate = r.flags.overrideLate := by
  unfold decidedAt
  rw [countPass_marks]
  unfold writeOutcome setChosen
  simp only
  split <;> exact ⟨rfl, rfl, rfl, rfl, rfl, rfl, rfl⟩

/-- R82, R89: the parts of the record that the outcome writes, and those it leaves. -/
theorem decidedAt_outcome (s : State) (r : BagRecord) : (decidedAt s r).passCount = (countPass s r).passCount ∧
    (decidedAt s r).plate = r.plate ∧ (decidedAt s r).part = r.part ∧
    (decidedAt s r).decision = ⟨some (outcomeAt s r).outlet, (outcomeAt s r).assigned, (outcomeAt s r).assigned.isSome⟩ ∧
    (decidedAt s r).flags.stray = (r.flags.stray || (outcomeAt s r).assigned.isSome) ∧
    (decidedAt s r).reason = (outcomeAt s r).assigned.or r.reason := by
  unfold decidedAt
  rw [countPass_marks]
  unfold writeOutcome setChosen
  simp only
  split
  · rename_i none
    simp [none]
  · rename_i reason some
    simp [some]

/-- R82, R89: the count taken, the record written and its stray record made, nothing scheduled yet. -/
def decisionTaken (a b forward : Bool) (slot : Nat) (r : BagRecord) (s : State) : State :=
  strayOfOutcome (outcomeAt s r) r.decision.outlet (countPass s r)
    (updateBag slot (fun _ => decidedAt s r) (withdraw (.decisionPosition slot) (countTaken a b forward s)))

/-- A count reaches the decision position of an undecided record, with no gate and no trailing edge to come. -/
structure Decides (a b forward : Bool) (slot : Nat) (p : Pos) (r : BagRecord) (s : State) : Prop where
  comes : CountComes a b forward s
  trailing : ∀ e, (eyeOf s e).trailing = none
  gates : NoGates s
  only : ReachesOnly (.decisionPosition slot) p forward s
  found : findBag s slot = some r
  undecided : isDecided r = false

theorem remains_schedule (slot : Nat) (o : Outlet) (s : State) : remains (schedule slot o s) = remains s := by
  unfold schedule
  split
  · rfl
  · simp only
    split
    · exact remains_closingChecks _ _ _ s
    · exact (remains_placeBag _ _ _).trans (remains_closingChecks _ _ _ s)

theorem decisionTaken_hands (a b forward : Bool) (slot : Nat) (r : BagRecord) (s : State) : ∃ exc bus,
    decisionTaken a b forward slot r s =
      { updateBag slot (fun _ => decidedAt s r) (withdraw (.decisionPosition slot) (countTaken a b forward s)) with
        exc := exc, bus := bus } := strayOfOutcome_hands _ _ _ _

/-- R82: the decision hands the record to the Divert Scheduler with its outcome. -/
theorem Decides.exec (h : Decides a b forward slot p r s) : Machine.exec (.encoderCount a b) s = .next (settle (handChosen slot
    (schedule slot (outcomeAt s r).outlet (decisionTaken a b forward slot r s)))) := by
  have follows (e : Eye) : mayFollowEdge e (.decisionPosition slot) = false := by cases e <;> rfl
  have previous : (countPass s r).decision.outlet = r.decision.outlet := by rw [countPass_marks]
  have found : findBag (withdraw (.decisionPosition slot) (countTaken a b forward s)) slot = some r := h.found
  have decides : reportPosition (.decisionPosition slot) (withdraw (.decisionPosition slot) (countTaken a b forward s)) =
      handChosen slot (schedule slot (outcomeAt s r).outlet (decisionTaken a b forward slot r s)) := by
    rw [decisionTaken, ← previous]
    show decideBag slot _ = _
    unfold decideBag
    rw [found]
    simp only [h.undecided, Bool.false_eq_true, if_false]
    rfl
  rw [exec_count_only h.comes h.trailing h.only follows, decides]

/-- R82: where the scheduling makes no gate it ends the event. -/
theorem Decides.scheduled (h : Decides a b forward slot p r s) {v : State}
    (hv : schedule slot (outcomeAt s r).outlet (decisionTaken a b forward slot r s) = v) (hg : NoGates v) :
    Machine.exec (.encoderCount a b) s = .next (drivePins v) := by
  obtain ⟨_, _, hands⟩ := decisionTaken_hands a b forward slot r s
  have owed : v.owed = s.owed := by
    have kept := congrArg Remains.owed (remains_schedule slot (outcomeAt s r).outlet (decisionTaken a b forward slot r s))
    rw [hv, hands] at kept
    exact kept
  rw [h.exec, hv, handChosen_no_gates slot hg, settle_of_none (owed.trans h.comes.ready.2.1)]

/-- R89: the stray record of an outcome. -/
theorem strayOfOutcome_strays {oc : Outcome} {previous : Option Outlet} (ha : acting s = true) :
    (∀ reason, oc.assigned = some reason → previous ≠ some (cfg s).exceptionOutlet →
      MadeStray (bagStray r reason (exceptionDisposition s)) s (strayOfOutcome oc previous r s)) ∧
    (oc.assigned = none → (strayOfOutcome oc previous r s).exc.strays = s.exc.strays) := by
  unfold strayOfOutcome
  refine ⟨fun reason hr ho => ?_, fun hn => ?_⟩
  · rw [hr]
    simp only
    rw [if_neg ho]
    exact handStray_strays _ ha
  · rw [hn]

/-! ## With no window (R106, R107) -/

/-- The record of a slot is rebound by the Divert Scheduler, the other records and the gates stand. -/
structure Rebinds (slot : Nat) (s t : State) (f : BagRecord → BagRecord) : Prop where
  rebound : ∀ x, Rebound x (f x) ∧ (f x).tracking = x.tracking
  tracker : t.tracker = (updateBag slot f s).tracker
  flow : t.flow = s.flow

theorem Rebinds.refl (slot : Nat) (s : State) : Rebinds slot s s id :=
  ⟨fun _ => ⟨⟨rfl, rfl, .inl rfl⟩, rfl⟩, by simp [updateBag], rfl⟩

theorem sendThrough_rebinds {c : ThroughCause} {busy : Nat} (hw : NoWindows s) (hg : NoGates s) (hb : findBag s slot = some r) :
    ∃ f, Rebinds slot s (sendThrough c busy slot s) f := by
  obtain ⟨_, _, _, counts⟩ := countThrough_tallies c slot (updateBag slot (setChosen .o0) s)
  have plain : Rebinds slot s (updateBag slot (setChosen .o0) s) (setChosen .o0) :=
    ⟨fun _ => ⟨⟨rfl, rfl, .inr rfl⟩, rfl⟩, rfl, rfl⟩
  rw [sendThrough_clear hw hg hb, counts]
  cases c with
  | gapConflict => exact ⟨_, plain.rebound, plain.tracker, plain.flow⟩
  | diverterBusy => exact ⟨_, plain.rebound, plain.tracker, plain.flow⟩
  | overrideLate =>
    refine ⟨fun x => { setChosen .o0 x with flags := { x.flags with overrideLate := true } },
      fun _ => ⟨⟨rfl, rfl, .inr rfl⟩, rfl⟩, ?_, rfl⟩
    have both : (s.tracker.segment.map (fun x => if x.slot = slot then setChosen .o0 x else x)).map (fun x =>
        if x.slot = slot then { x with flags := { x.flags with overrideLate := true } } else x) =
        s.tracker.segment.map (fun x => if x.slot = slot then
          { setChosen .o0 x with flags := { x.flags with overrideLate := true } } else x) := by
      rw [List.map_map]
      refine List.map_congr_left fun x _ => ?_
      by_cases hx : x.slot = slot
      · simp only [Function.comp_apply, if_pos hx]
        exact if_pos hx
      · simp only [Function.comp_apply, if_neg hx]
    exact congrArg (fun l => { s.tracker with segment := l }) both

theorem openWindow_rebinds {k : Diverter} {x : DiverterConfig} (hw : NoWindows s) (hg : NoGates s) (hx : diverterCfg s k = some x)
    (hr : reached s.belt.d (fireFor s x r.entry) = false) : Rebinds slot s (openWindow k r s) id := by
  have release (n : Nat) (u : State) : (setRelease k n u).tracker = u.tracker ∧ (setRelease k n u).flow = u.flow := by
    unfold setRelease offerPosition releaseWindow dropWindow
    simp only
    repeat' split
    all_goals exact ⟨rfl, rfl⟩
  have fire : (setFire k s.serial.window (withOwnWindow k r s)).tracker = s.tracker ∧
      (setFire k s.serial.window (withOwnWindow k r s)).flow = s.flow := by
    rcases setFire_unreached (withOwnWindow_aims (b := r) hw.booked.law hx (by simp [hw.at]) hr) with same | ⟨q, aims⟩
    · rw [same]
      exact ⟨rfl, rfl⟩
    · have gates : NoGates (holdPosition (.firePoint k s.serial.window) q (aimed k s.serial.window q (withOwnWindow k r s))) := hg
      rw [aims, fireMoved_no_gates k _ gates]
      exact ⟨rfl, rfl⟩
  obtain ⟨tracker, flow⟩ := release s.serial.window (setFire k s.serial.window (withOwnWindow k r s))
  refine ⟨fun _ => ⟨⟨rfl, rfl, .inl rfl⟩, rfl⟩, ?_, flow.trans fire.2⟩
  rw [openWindow_eq, tracker, fire.1]
  simp [updateBag]

/-- R99, R106, R107: with neither window nor gate a record is bound as its outcome says, or through. -/
theorem schedule_rebinds (hw : NoWindows s) (hg : NoGates s) (hb : findBag s slot = some r) (o : Outlet) :
    ∃ f, Rebinds slot s (schedule slot o s) f := by
  have noWindow (k : Diverter) : (windowList (windowsOf s k)).getLast? = none := by rw [hw.at]; rfl
  obtain ⟨rfl, -⟩ := findBag_slot hb
  unfold schedule
  rw [hb]
  simp only [closingChecks_same hw]
  split
  · exact ⟨_, .refl _ s⟩
  · unfold placeBag
    split
    · exact ⟨_, .refl _ s⟩
    · rename_i hx
      simp only [noWindow]
      unfold newWindow
      simp only
      split_ifs with full near late
      · exact sendThrough_rebinds hw hg hb
      · exact sendThrough_rebinds hw hg hb
      · exact sendThrough_rebinds hw hg hb
      · exact ⟨_, openWindow_rebinds hw hg hx (Bool.eq_false_iff.mpr late)⟩

/-- The record of a slot replaced. -/
theorem findBag_replaced {c : BagRecord} (hb : findBag s slot = some r) (hc : c.slot = slot) :
    findBag (updateBag slot (fun _ => c) s) slot = some c := by
  have same : updateBag slot (fun _ => c) s = updateBag slot (fun x => if x.slot = slot then c else x) s := by
    unfold updateBag
    refine congrArg (fun l => { s with tracker := { s.tracker with segment := l } }) (List.map_congr_left fun x _ => ?_)
    split
    · rename_i here
      exact (if_pos here).symm
    · rfl
  rw [same, findBag_updateBag_self hb fun x => ?_, if_pos (findBag_slot hb).1]
  split
  · rename_i h
    exact hc.trans h.symm
  · rfl

/-- R82, R89, R99: with no window the record is decided, bound as its outcome says or through, and no record joins or leaves. -/
theorem Decides.alone (h : Decides a b forward slot p r s) (hw : NoWindows s) : ∃ t d,
    Machine.exec (.encoderCount a b) s = .next t ∧ segmentSlots t = segmentSlots s ∧ findBag t slot = some d ∧
      Rebound (decidedAt s r) d ∧ d.tracking = .decided ∧ t.exc.strays = (decisionTaken a b forward slot r s).exc.strays := by
  obtain ⟨exc, bus, hands⟩ := decisionTaken_hands a b forward slot r s
  obtain ⟨slots, tracking, -⟩ := decidedAt_marks s r
  have decided : (decidedAt s r).slot = slot := slots.trans (findBag_slot h.found).1
  let u := decisionTaken a b forward slot r s
  have found : findBag u slot = some (decidedAt s r) := by
    show findBag (decisionTaken a b forward slot r s) slot = _
    rw [hands]
    exact findBag_replaced (s := withdraw (.decisionPosition slot) (countTaken a b forward s)) h.found decided
  have windows : NoWindows u := by
    show (decisionTaken a b forward slot r s).divert.windows = _
    rw [hands]
    exact hw
  have gates : NoGates u := by
    show (decisionTaken a b forward slot r s).flow.gates = _
    rw [hands]
    exact h.gates
  obtain ⟨f, rebound, tracker, flow⟩ := schedule_rebinds windows gates found (outcomeAt s r).outlet
  have kept (x : BagRecord) : (f x).slot = x.slot := (congrArg BagRecord.slot (rebound x).1.unscheduled :)
  have strays := congrArg (fun x : Remains => x.strays) (remains_schedule slot (outcomeAt s r).outlet u)
  refine ⟨_, f (decidedAt s r), h.scheduled rfl (by rw [NoGates, flow]; exact gates), ?_, ?_, (rebound _).1,
    (rebound _).2.trans tracking, strays⟩
  · have queue : segmentSlots u = segmentSlots s := by
      show (decisionTaken a b forward slot r s).tracker.segment.map BagRecord.slot = _
      rw [hands]
      exact (updateBag_level slot _ s fun x hx => decided.trans hx.symm).slots
    show (schedule slot _ u).tracker.segment.map BagRecord.slot = _
    rw [tracker]
    exact (updateBag_level slot f u fun x _ => kept x).slots.trans queue
  · show (schedule slot _ u).tracker.segment.find? _ = _
    rw [tracker]
    exact findBag_updateBag_self found kept

end

end Sys2Proof.Machine
end

section
/-! PROOFS. A record scheduled with its outcome, one record of a queue in distinct slots with no gate (R99 to R108): bound for a
diverter with at most one window there, or bound through past a window. -/

namespace Sys2Proof.Machine

section
variable {s : State} {pre post : List BagRecord} {c : BagRecord} {k : Diverter} {x : DiverterConfig}

/-! ## One record of a queue -/

/-- A record with others ahead of it and behind it, none of them in its slot. -/
structure Stands (pre post : List BagRecord) (c : BagRecord) (s : State) : Prop where
  queue : s.tracker.segment = pre ++ c :: post
  others : ∀ y ∈ pre ++ post, y.slot ≠ c.slot

theorem Stands.ahead (h : Stands pre post c s) : ∀ y ∈ pre, y.slot ≠ c.slot := fun y hy => h.others y (List.mem_append_left _ hy)

theorem Stands.found (h : Stands pre post c s) : findBag s c.slot = some c := by
  have none : pre.find? (fun b => decide (b.slot = c.slot)) = none :=
    List.find?_eq_none.mpr fun y hy => by simpa using h.ahead y hy
  rw [findBag, h.queue, List.find?_append, none, List.find?_cons_of_pos (by simp)]
  rfl

/-- A change of that record alone. -/
theorem Stands.change (h : Stands pre post c s) (f : BagRecord → BagRecord) :
    (updateBag c.slot f s).tracker.segment = pre ++ f c :: post := by
  have same (l : List BagRecord) (hl : ∀ y ∈ l, y ∈ pre ++ post) : l.map (fun b => if b.slot = c.slot then f b else b) = l :=
    (List.map_congr_left fun y hy => if_neg (h.others y (hl y hy))).trans (List.map_id' l)
  rw [updateBag_tracker, h.queue, List.map_append, List.map_cons, if_pos rfl, same pre (by simp +contextual),
    same post (by simp +contextual)]

/-! ## Bound for a diverter (R103, R105, R106) -/

theorem schedule_diverter (h : Stands pre post c s) (hx : diverterCfg s k = some x) (hw : ∀ j, j ≠ k → windowsOf s j = {}) :
    schedule c.slot (outletOfDiverter k) s = placeBag k c s := by
  have own : diverterOfOutlet (outletOfDiverter k) = some k := by cases k <;> rfl
  have clear : closingChecks c.slot c.entry (outletOfDiverter k) s = s := closingChecks_clear (fun j hj => hw j (by
    rintro rfl
    rw [passes_own hx] at hj
    cases hj)) c.slot
  unfold schedule
  rw [h.found]
  simp only [clear, own]

/-- R106: the record nearest ahead leaves less than the opening requirement. -/
def TooNear (s : State) (k : Diverter) (x : DiverterConfig) (c : BagRecord) : Prop :=
  (nearestAhead s k x c.slot).any (fun a => decide (gapBehind a.entry a.length c.entry < openingNeed s x)) = true

/-- R106: with a slot free for a window. -/
theorem newWindow_free {before : Option Window} (h : windowsOf s k = ⟨before, none⟩) : newWindow k x c s =
    if (nearestAhead s k x c.slot).any (fun a => decide (gapBehind a.entry a.length c.entry < openingNeed s x)) then
      sendThrough .gapConflict c.slot c.slot s
    else if reached s.belt.d (fireFor s x c.entry) then sendThrough .overrideLate c.slot c.slot s
    else openWindow k c s := by
  unfold newWindow
  simp only [h, Option.isSome_none, Bool.false_eq_true, and_false, if_false]

theorem placeBag_first (hx : diverterCfg s k = some x) (h : windowsOf s k = {}) : placeBag k c s = newWindow k x c s := by
  unfold placeBag
  rw [hx]
  simp only [h]
  rfl

/-- R105: behind the last bag of a window. -/
theorem placeBag_behind {w : Window} {init : List WindowBag} {z : WindowBag} (hx : diverterCfg s k = some x)
    (h : windowsOf s k = ⟨some w, none⟩) (hz : w.bags = init ++ [z]) : placeBag k c s =
      if gapBehind z.entry z.length c.entry < closingNeed s x then
        if w.bags.length < 4 then joinWindow k w c s else sendThrough .diverterBusy c.slot c.slot s
      else newWindow k x c s := by
  have last : (windowList (windowsOf s k)).getLast? = some w := by rw [h]; rfl
  have bag : w.bags.getLast? = some z := by rw [hz, List.getLast?_concat]
  unfold placeBag
  rw [hx]
  simp only [last, Option.bind_some, bag]
  rfl

/-! ## Sent through with a window in sight (R107) -/

/-- The record goes through: bound for outlet 0, and perhaps AT_RISK; the windows, the gates and the others stand. -/
structure GoesThrough (pre post : List BagRecord) (c : BagRecord) (s t : State) : Prop where
  record : ∃ c', Stands pre post c' t ∧ c'.slot = c.slot ∧ c'.tracking = c.tracking ∧ c'.entry = c.entry ∧ c'.chosen = some .o0
  windows : t.divert.windows = s.divert.windows
  busy : t.divert.busy = s.divert.busy + 1
  flow : t.flow = s.flow

theorem markRisk_goesThrough {t : State} (h : GoesThrough pre post c s t) : GoesThrough pre post c s (markRisk c.slot t) := by
  unfold markRisk
  split
  · exact h
  · split
    · exact h
    · obtain ⟨⟨c', stands, slot, tracking, entry, chosen⟩, windows, busy, flow⟩ := h
      let marks (b : BagRecord) : BagRecord := { b with flags := { b.flags with atRisk := true } }
      have marked : (updateBag c.slot marks t).tracker.segment = pre ++ marks c' :: post :=
        (congrArg (fun n => (updateBag n marks t).tracker.segment) slot.symm).trans (stands.change marks)
      exact ⟨⟨marks c', ⟨marked, stands.others⟩, slot, tracking, entry, chosen⟩, windows, busy, flow⟩

/-- R105, R107: DIVERTER_BUSY. -/
theorem sendThrough_busy (h : Stands pre post c s) : GoesThrough pre post c s (sendThrough .diverterBusy c.slot c.slot s) := by
  obtain ⟨_, _, _, counts⟩ := countThrough_tallies .diverterBusy c.slot (updateBag c.slot (setChosen .o0) s)
  have through : GoesThrough pre post c s (countThrough .diverterBusy c.slot (updateBag c.slot (setChosen .o0) s)) := by
    rw [counts]
    exact ⟨⟨setChosen .o0 c, ⟨h.change _, h.others⟩, rfl, rfl, rfl, rfl⟩, rfl, rfl, rfl⟩
  have checked (l : List Diverter) (t : State) (ht : GoesThrough pre post c s t) :
      GoesThrough pre post c s (l.foldl (fun acc j => if passes acc c.entry .o0 j && !passesFor acc c.entry c.chosen j then
        riskCheck c.slot c.entry j acc else acc) t) := by
    refine List.foldlRecOn l _ ht fun u hu j _ => ?_
    split
    · unfold riskCheck
      split
      · split
        · exact markRisk_goesThrough hu
        · exact hu
      · exact hu
    · exact hu
  unfold sendThrough
  rw [h.found]
  simp only [if_true]
  exact checked _ _ through

/-! ## Bound through past a window (R103, R104) -/

/-- R103: only the windows of one diverter are in sight, before and after its closing check. -/
theorem schedule_through {j : Diverter} (h : Stands pre post c s) (hp : passes s c.entry .o0 j = true)
    (before : ∀ i, i ≠ j → windowsOf s i = {}) (after : ∀ i, i ≠ j → windowsOf (closingCheck 9 c.slot c.entry j s) i = {}) :
    schedule c.slot .o0 s = closingCheck 9 c.slot c.entry j s := by
  have early {i : Diverter} (hi : i ≠ j) : (if passes s c.entry .o0 i then closingCheck 9 c.slot c.entry i s else s) = s := by
    rw [closingCheck_empty (before i hi), ite_self]
  have late {i : Diverter} (hi : i ≠ j) : (if passes (closingCheck 9 c.slot c.entry j s) c.entry .o0 i then
      closingCheck 9 c.slot c.entry i (closingCheck 9 c.slot c.entry j s) else closingCheck 9 c.slot c.entry j s) =
      closingCheck 9 c.slot c.entry j s := by rw [closingCheck_empty (after i hi), ite_self]
  have all : closingChecks c.slot c.entry .o0 s = closingCheck 9 c.slot c.entry j s := by
    unfold closingChecks allDiverters
    cases j <;> simp [early, late, hp]
  unfold schedule
  rw [h.found]
  exact all

/-- R104: the check against the latest bag ahead. -/
theorem closingCheck_ahead {j : Diverter} {a : WindowBag} {fired : Bool} {slot n : Nat} {e : Pos} (hx : diverterCfg s j = some x)
    (ha : latestAhead (windowsOf s j) e = some (a, fired)) : closingCheck (n + 1) slot e j s =
      if gapBehind a.entry a.length e < closingNeed s x then
        if fired then markRisk slot s
        else closingCheck n slot e j (sendThrough .gapConflict slot a.slot (withdrawBag j a.slot s))
      else s := by
  rw [closingCheck, hx, ha]

theorem latestAhead_only {w : Window} {z : WindowBag} {e : Pos} (hz : w.bags = [z]) (he : 0 < posDiff e z.entry) :
    latestAhead ⟨some w, none⟩ e = some (z, w.fired) := by
  simp [latestAhead, windowBags, windowList, hz, he]

/-- R108: the only bag of the only window is withdrawn, and the window with its registrations. -/
theorem withdrawBag_only {j : Diverter} {w : Window} {z : WindowBag} (h : WindowsAt j ⟨some w, none⟩ s) (hf : w.fired = false)
    (hz : w.bags = [z]) (hd : z.departed = false) : withdrawBag j z.slot s =
      { withdraw (.firePoint j w.number) (withdraw (.releasePoint j w.number) s) with
        divert := { s.divert with windows := ⟨{}, {}, {}⟩ } } := by
  have here : windowOfBag s j z.slot = some w := by
    rw [windowOfBag, show s.divert.windows.get j = _ from h.at]
    simp [windowList, holdsBag, hz, hd]
  have drop : withdrawBag j z.slot s = dropWindow j w.number s := by
    unfold withdrawBag
    rw [here]
    simp [hf, hz]
  rw [drop, ← windowsAt_none j]
  unfold dropWindow
  rw [h.at]
  simp only [Option.any_some, decide_true, if_true]
  exact WindowsAt.putWindows_eq (s := withdraw (.firePoint j w.number) (withdraw (.releasePoint j w.number) s)) h _

/-- R107: GAP_CONFLICT with neither window nor gate. -/
theorem sendThrough_conflict {slot : Nat} {b : BagRecord} (hw : NoWindows s) (hg : NoGates s) (hb : findBag s slot = some b)
    (busy : Nat) :
    (sendThrough .gapConflict busy slot s).tracker = (updateBag slot (setChosen .o0) s).tracker ∧
    (sendThrough .gapConflict busy slot s).divert = { s.divert with gapConflict := s.divert.gapConflict + 1 } ∧
    (sendThrough .gapConflict busy slot s).flow = s.flow ∧ (sendThrough .gapConflict busy slot s).belt = s.belt := by
  obtain ⟨_, _, _, counts⟩ := countThrough_tallies .gapConflict slot (updateBag slot (setChosen .o0) s)
  rw [sendThrough_clear hw hg hb, counts]
  exact ⟨rfl, rfl, rfl, rfl⟩

/-- A window gone with its bag sent through: what is left of the queue, the windows and the register. -/
structure Cleared (j : Diverter) (w : Window) (z : WindowBag) (s t : State) : Prop where
  queue : t.tracker.segment = s.tracker.segment.map (fun y => if y.slot = z.slot then setChosen .o0 y else y)
  divert : t.divert = { s.divert with windows := ⟨{}, {}, {}⟩, gapConflict := s.divert.gapConflict + 1 }
  gates : NoGates t
  fire : isHeld (.firePoint j w.number) t = false
  release : isHeld (.releasePoint j w.number) t = false

theorem Cleared.windows {j : Diverter} {w : Window} {z : WindowBag} {t : State} (h : Cleared j w z s t) : NoWindows t := by
  rw [NoWindows, h.divert]

/-- R104, R107, R108: the only bag of the only window is withdrawn and sent through. -/
theorem withdrawn_cleared {j : Diverter} {w : Window} {z : WindowBag} (h : WindowsAt j ⟨some w, none⟩ s) (hg : NoGates s)
    (hf : w.fired = false) (hz : w.bags = [z]) (hd : z.departed = false) {b : BagRecord} (hb : findBag s z.slot = some b)
    (busy : Nat) :
    Cleared j w z s (sendThrough .gapConflict busy z.slot (withdrawBag j z.slot s)) := by
  let free : State := { withdraw (.firePoint j w.number) (withdraw (.releasePoint j w.number) s) with
    divert := { s.divert with windows := ⟨{}, {}, {}⟩ } }
  have windows : NoWindows free := rfl
  have gates : NoGates free := hg
  have found : findBag free z.slot = some b := hb
  rw [withdrawBag_only h hf hz hd]
  obtain ⟨tracker, divert, flow, belt⟩ := sendThrough_conflict windows gates found busy
  refine ⟨?_, divert, ?_, ?_, ?_⟩
  · rw [show (sendThrough .gapConflict busy z.slot free).tracker = _ from tracker]
    rfl
  · rw [NoGates, show (sendThrough .gapConflict busy z.slot free).flow = _ from flow]
    exact hg
  · rw [isHeld, show (sendThrough .gapConflict busy z.slot free).belt = _ from belt]
    exact isHeld_withdraw (.firePoint j w.number) (withdraw (.releasePoint j w.number) s)
  · rw [isHeld, show (sendThrough .gapConflict busy z.slot free).belt = _ from belt]
    exact isHeld_withdraw_other (isHeld_withdraw (.releasePoint j w.number) s)

end

end Sys2Proof.Machine
end

section
/-! PROOFS. O43: the decision of one record of a queue, by what the Divert Scheduler then does (R99 to R107). -/

namespace Sys2Proof.Machine

section
variable {s u v : State} {pre post pre' : List BagRecord} {r c' : BagRecord} {a b forward : Bool} {p : Pos}
  {k : Diverter} {x : DiverterConfig}

/-- R82: a count decides a record of the queue, those behind it stand, and a check holds of what comes of it. -/
def DecisionResult (a b : Bool) (r : BagRecord) (post : List BagRecord) (s : State)
    (check : State → BagRecord → List BagRecord → Prop) : Prop := ∃ t r' pre', exec (.encoderCount a b) s = .next t ∧
  t.tracker.segment = pre' ++ r' :: post ∧ r'.slot = r.slot ∧ r'.tracking = .decided ∧ r'.entry = r.entry ∧ check t r' pre'

theorem DecisionResult.mono {check check' : State → BagRecord → List BagRecord → Prop} (h : DecisionResult a b r post s check)
    (hc : ∀ t r' pre', check t r' pre' → check' t r' pre') : DecisionResult a b r post s check' := by
  obtain ⟨t, r', pre', taken, queue, slot, tracking, entry, holds⟩ := h
  exact ⟨t, r', pre', taken, queue, slot, tracking, entry, hc t r' pre' holds⟩

/-- What stands once a record r has its outcome: D has moved, the record is written, the others stand. -/
structure Decided (forward : Bool) (pre post : List BagRecord) (r : BagRecord) (s u : State) : Prop where
  stands : Stands pre post (decidedAt s r) u
  d : u.belt.d = movedTo forward s
  v : u.belt.v = s.belt.v
  lead : leadOf u = leadOf s
  config : cfg u = cfg s
  divert : u.divert = s.divert
  serial : u.serial = s.serial
  gates : NoGates u

theorem decisionTaken_decided (h : Stands pre post r s) (hg : NoGates s) :
    Decided forward pre post r s (decisionTaken a b forward r.slot r s) := by
  obtain ⟨_, _, hands⟩ := decisionTaken_hands a b forward r.slot r s
  obtain ⟨slot, -⟩ := decidedAt_marks s r
  have before : Stands pre post r (withdraw (.decisionPosition r.slot) (countTaken a b forward s)) := ⟨h.queue, h.others⟩
  rw [hands]
  exact ⟨⟨before.change _, by rw [slot]; exact h.others⟩, rfl, rfl, rfl, rfl, rfl, rfl, hg⟩

/-- R82: the scheduling that makes no gate gives the result. -/
theorem Decides.result {check : State → BagRecord → List BagRecord → Prop} (h : Decides a b forward r.slot p r s)
    (hv : schedule r.slot (outcomeAt s r).outlet (decisionTaken a b forward r.slot r s) = v) (hg : NoGates v)
    (queue : v.tracker.segment = pre' ++ c' :: post) (slot : c'.slot = r.slot) (tracking : c'.tracking = .decided)
    (entry : c'.entry = r.entry) (hc : check (drivePins v) c' pre') : DecisionResult a b r post s check :=
  ⟨_, c', pre', h.scheduled hv hg, queue, slot, tracking, entry, hc⟩

/-! ## The measures of the state before hold after it -/

/-- The bag of a record in a window (R97). -/
def bagOf (r : BagRecord) : WindowBag := ⟨r.slot, r.entry, r.length, false⟩

/-- R99, R100, R106: the window that the bag of a record opens. -/
def windowOf (s : State) (x : DiverterConfig) (r : BagRecord) : Window :=
  ⟨s.serial.window, [bagOf r], fireFor s x r.entry, releaseFor x (bagOf r), false⟩

section
variable (h : Decided forward pre post r s u)
include h

theorem Decided.diverterCfg (k : Diverter) : diverterCfg u k = diverterCfg s k := by rw [Machine.diverterCfg, h.config]; rfl

theorem Decided.fireFor (e : Pos) : fireFor u x e = fireFor s x e := by rw [Machine.fireFor, h.lead]; rfl

theorem Decided.closingNeed : closingNeed u x = closingNeed s x := by rw [Machine.closingNeed, h.v]; rfl

theorem Decided.openingNeed : openingNeed u x = openingNeed s x := by rw [Machine.openingNeed, h.lead]; rfl

theorem Decided.windowsAt {w : DiverterWindows} (hw : WindowsAt k w s) : WindowsAt k w u := by rw [WindowsAt, h.divert]; exact hw

theorem Decided.boundBefore (n : Nat) : BoundBefore u n = BoundBefore s n := by
  funext y
  simp only [BoundBefore, h.diverterCfg]

omit h in
theorem bagOf_decidedAt : (⟨(decidedAt s r).slot, (decidedAt s r).entry, (decidedAt s r).length, false⟩ : WindowBag) = bagOf r := by
  obtain ⟨slot, -, entry, length, -⟩ := decidedAt_marks s r
  rw [slot, entry, length, bagOf]

/-- R103: bound for a diverter, with windows there alone. -/
theorem Decided.schedule_diverter {w : DiverterWindows} (hx : Machine.diverterCfg s k = some x) (hw : WindowsAt k w s) :
    schedule r.slot (outletOfDiverter k) u = placeBag k (decidedAt s r) u := by
  obtain ⟨slot, -⟩ := decidedAt_marks s r
  rw [← slot]
  exact Machine.schedule_diverter h.stands ((h.diverterCfg k).trans hx) fun j hj => (h.windowsAt hw).other hj

/-- R106, step 2: with no window the record nearest ahead is the first that is not bound for a diverter before. -/
theorem Decided.tooNear_iff (hw : windowsOf u k = {}) : TooNear u k x (decidedAt s r) ↔
    ∃ y, FirstOf (fun y => ¬ BoundBefore s x.position y) pre.reverse y ∧
      gapBehind y.entry y.length r.entry < Machine.openingNeed s x := by
  obtain ⟨-, -, entry, -⟩ := decidedAt_marks s r
  have clear (n : Nat) : windowOfBag u k n = none := by
    rw [windowOfBag, show u.divert.windows.get k = {} from hw]
    rfl
  have nearest := nearestAhead_eq (k := k) (x := x) h.stands.queue rfl h.stands.ahead
  simp only [clear, Option.isNone_none, Bool.true_and] at nearest
  rw [TooNear, nearest, Option.any_eq_true]
  refine exists_congr fun y => ?_
  rw [FirstOf.find_eq (check := fun y => !((y.chosen.bind (outletPosition u)).any (fun l => decide (l < x.position)))) fun z _ => by
      rw [Bool.not_eq_true', ← Bool.not_eq_true, boundBefore_iff, h.boundBefore],
    decide_eq_true_eq, entry, h.openingNeed]

end

/-! ## A window of its own, or none (R106, R107) -/

/-- R107: the record r has been sent through for a cause, with no window about it. -/
theorem Decides.sentThrough {cause : ThroughCause} (h : Decides a b forward r.slot p r s) (hs : Stands pre post r s)
    (hw : NoWindows s) (hv : schedule r.slot (outcomeAt s r).outlet (decisionTaken a b forward r.slot r s) =
      sendThrough cause (decidedAt s r).slot (decidedAt s r).slot (decisionTaken a b forward r.slot r s)) :
    DecisionResult a b r post s fun t r' pre' => pre' = pre ∧ r'.chosen = some .o0 ∧ t.divert.windows = s.divert.windows ∧
      (cause = .gapConflict → t.divert.gapConflict = s.divert.gapConflict + 1 ∧ r'.flags.overrideLate = r.flags.overrideLate) ∧
      (cause = .overrideLate → t.divert.lateDivert = s.divert.lateDivert + 1 ∧ r'.flags.overrideLate = true) := by
  have D : Decided forward pre post r s (decisionTaken a b forward r.slot r s) := decisionTaken_decided hs h.gates
  obtain ⟨slot, tracking, entry, -, -, -, late⟩ := decidedAt_marks s r
  have windows : NoWindows (decisionTaken a b forward r.slot r s) := by rw [NoWindows, D.divert]; exact hw
  have through : Stands pre post (setChosen .o0 (decidedAt s r))
      (updateBag (decidedAt s r).slot (setChosen .o0) (decisionTaken a b forward r.slot r s)) :=
    ⟨D.stands.change _, D.stands.others⟩
  obtain ⟨bus, one, two, counts⟩ := countThrough_tallies cause (decidedAt s r).slot
    (updateBag (decidedAt s r).slot (setChosen .o0) (decisionTaken a b forward r.slot r s))
  rw [sendThrough_clear windows D.gates D.stands.found, counts] at hv
  cases cause with
  | gapConflict =>
    exact h.result hv D.gates through.queue slot tracking entry
      ⟨rfl, rfl, by rw [← D.divert]; rfl, fun _ => ⟨by rw [← D.divert]; rfl, late⟩, fun hc => by cases hc⟩
  | diverterBusy =>
    exact h.result hv D.gates through.queue slot tracking entry
      ⟨rfl, rfl, by rw [← D.divert]; rfl, fun hc => (by cases hc), fun hc => by cases hc⟩
  | overrideLate =>
    have late := through.change (fun b => { b with flags := { b.flags with overrideLate := true } })
    exact h.result hv D.gates late slot tracking entry
      ⟨rfl, rfl, by rw [← D.divert]; rfl, fun hc => (by cases hc), fun _ => ⟨by rw [← D.divert]; rfl, rfl⟩⟩

/-- R106: the record r has a window of its own. -/
theorem Decides.opens {before : Option Window} (h : Decides a b forward r.slot p r s) (hs : Stands pre post r s)
    (hx : Machine.diverterCfg s k = some x) (ho : (outcomeAt s r).outlet = outletOfDiverter k) (hw : WindowsAt k ⟨before, none⟩ s)
    (hn : OtherNumber s.serial.window before) (hf : reached (movedTo forward s) (fireFor s x r.entry) = false)
    (hr : ∀ q, releaseFor x (bagOf r) = some q → reached (movedTo forward s) q = false)
    (hv : schedule r.slot (outcomeAt s r).outlet (decisionTaken a b forward r.slot r s) =
      openWindow k (decidedAt s r) (decisionTaken a b forward r.slot r s)) :
    DecisionResult a b r post s fun t r' pre' => pre' = pre ∧ r'.chosen = some (outletOfDiverter k) ∧
      t.divert = { s.divert with windows := windowsAt k (opened before (windowOf s x r)) } ∧
      (⟨.firePoint k s.serial.window, fireFor s x r.entry⟩ : Registration) ∈ t.belt.register ∧
      ∀ q, releaseFor x (bagOf r) = some q → (⟨.releasePoint k s.serial.window, q⟩ : Registration) ∈ t.belt.register := by
  have D : Decided forward pre post r s (decisionTaken a b forward r.slot r s) := decisionTaken_decided hs h.gates
  obtain ⟨slot, tracking, entry, -, chosen, -⟩ := decidedAt_marks s r
  have points := openWindow_opens (b := decidedAt s r) D.gates ((D.diverterCfg k).trans hx) (D.windowsAt hw)
    (by rw [D.serial]; exact hn) (by rw [D.fireFor, entry, D.d]; exact hf) (by rw [bagOf_decidedAt, D.d]; exact hr)
  rw [madeWindow, ownWindow, bagOf_decidedAt, D.fireFor, entry, D.serial, D.divert] at points
  obtain ⟨register, opens, fire, release⟩ := points
  exact h.result (hv.trans opens) D.gates D.stands.queue slot tracking entry
    ⟨rfl, chosen.trans (congrArg some ho), rfl, fire, release⟩

/-- R106, R107: what becomes of a bag that joins no window, with a slot free for one of its own. -/
structure Placed (near late : Prop) (c : BagRecord) (k : Diverter) (u v : State) : Prop where
  conflict : near → v = sendThrough .gapConflict c.slot c.slot u
  tooLate : ¬ near → late → v = sendThrough .overrideLate c.slot c.slot u
  opens : ¬ near → ¬ late → v = openWindow k c u

theorem newWindow_placed {before : Option Window} {c : BagRecord} (h : windowsOf u k = ⟨before, none⟩) :
    Placed (TooNear u k x c) (reached u.belt.d (fireFor u x c.entry) = true) c k u (newWindow k x c u) := by
  rw [newWindow_free h]
  exact ⟨fun near => if_pos near, fun near late => (if_neg near).trans (if_pos late),
    fun near late => (if_neg near).trans (if_neg late)⟩

/-- R106, R107: with no window at all. -/
theorem Decides.firstWindow (h : Decides a b forward r.slot p r s) (hs : Stands pre post r s) (hw : NoWindows s)
    (hx : Machine.diverterCfg s k = some x) (ho : (outcomeAt s r).outlet = outletOfDiverter k) :
    Placed (∃ y, FirstOf (fun y => ¬ BoundBefore s x.position y) pre.reverse y ∧
        gapBehind y.entry y.length r.entry < openingNeed s x)
      (reached (movedTo forward s) (fireFor s x r.entry) = true) (decidedAt s r) k (decisionTaken a b forward r.slot r s)
      (schedule r.slot (outcomeAt s r).outlet (decisionTaken a b forward r.slot r s)) := by
  have D : Decided forward pre post r s (decisionTaken a b forward r.slot r s) := decisionTaken_decided hs h.gates
  obtain ⟨-, -, entry, -⟩ := decidedAt_marks s r
  have windows : windowsOf (decisionTaken a b forward r.slot r s) k = {} := (D.windowsAt (hw.windowsAt k)).at
  have placed := newWindow_placed (x := x) (c := decidedAt s r) windows
  rw [D.d, D.fireFor, entry, D.tooNear_iff windows] at placed
  rw [ho, D.schedule_diverter hx (hw.windowsAt k), placeBag_first ((D.diverterCfg k).trans hx) windows]
  exact placed

/-! ## Behind the last bag of a window (R105) -/

section
variable {w : Window} {init : List WindowBag} {z : WindowBag}

/-- R105: with one window at the diverter. -/
theorem Decides.behind (h : Decides a b forward r.slot p r s) (hs : Stands pre post r s) (hw : WindowsAt k ⟨some w, none⟩ s)
    (hx : Machine.diverterCfg s k = some x) (ho : (outcomeAt s r).outlet = outletOfDiverter k) (hz : w.bags = init ++ [z]) :
    schedule r.slot (outcomeAt s r).outlet (decisionTaken a b forward r.slot r s) =
      if gapBehind z.entry z.length r.entry < closingNeed s x then
        if w.bags.length < 4 then joinWindow k w (decidedAt s r) (decisionTaken a b forward r.slot r s)
        else sendThrough .diverterBusy (decidedAt s r).slot (decidedAt s r).slot (decisionTaken a b forward r.slot r s)
      else newWindow k x (decidedAt s r) (decisionTaken a b forward r.slot r s) := by
  have D : Decided forward pre post r s (decisionTaken a b forward r.slot r s) := decisionTaken_decided hs h.gates
  obtain ⟨-, -, entry, -⟩ := decidedAt_marks s r
  rw [ho, D.schedule_diverter hx hw, placeBag_behind ((D.diverterCfg k).trans hx) (D.windowsAt hw).at hz, entry, D.closingNeed]

/-- R105: the bag joins the window. -/
theorem Decides.joins (h : Decides a b forward r.slot p r s) (hs : Stands pre post r s) (hw : WindowsAt k ⟨some w, none⟩ s)
    (hf : w.fired = false) (hx : Machine.diverterCfg s k = some x) (ho : (outcomeAt s r).outlet = outletOfDiverter k)
    (hr : ∀ q, releaseFor x (bagOf r) = some q → reached (movedTo forward s) q = false)
    (hv : schedule r.slot (outcomeAt s r).outlet (decisionTaken a b forward r.slot r s) =
      joinWindow k w (decidedAt s r) (decisionTaken a b forward r.slot r s)) :
    DecisionResult a b r post s fun t r' pre' => pre' = pre ∧ r'.chosen = some (outletOfDiverter k) ∧
      t.divert = { s.divert with windows := windowsAt k ⟨some { w with
        bags := w.bags ++ [bagOf r], release := releaseFor x (bagOf r) }, none⟩ } ∧
      ∀ q, releaseFor x (bagOf r) = some q → (⟨.releasePoint k w.number, q⟩ : Registration) ∈ t.belt.register := by
  have D : Decided forward pre post r s (decisionTaken a b forward r.slot r s) := decisionTaken_decided hs h.gates
  obtain ⟨slot, tracking, entry, -, chosen, -⟩ := decidedAt_marks s r
  have joined := joinWindow_joins (b := decidedAt s r) ((D.diverterCfg k).trans hx) (D.windowsAt hw) hf
    (by rw [bagOf_decidedAt, D.d]; exact hr)
  rw [bagOf_decidedAt, D.divert] at joined
  obtain ⟨register, joins, release⟩ := joined
  exact h.result (hv.trans joins) D.gates D.stands.queue slot tracking entry ⟨rfl, chosen.trans (congrArg some ho), rfl, release⟩

/-- R105: the fifth bag goes through. -/
theorem Decides.busy (h : Decides a b forward r.slot p r s) (hs : Stands pre post r s)
    (hv : schedule r.slot (outcomeAt s r).outlet (decisionTaken a b forward r.slot r s) =
      sendThrough .diverterBusy (decidedAt s r).slot (decidedAt s r).slot (decisionTaken a b forward r.slot r s)) :
    DecisionResult a b r post s fun t r' pre' => pre' = pre ∧ r'.chosen = some .o0 ∧ t.divert.windows = s.divert.windows ∧
      t.divert.busy = s.divert.busy + 1 := by
  have D : Decided forward pre post r s (decisionTaken a b forward r.slot r s) := decisionTaken_decided hs h.gates
  obtain ⟨slot, tracking, entry, -⟩ := decidedAt_marks s r
  obtain ⟨⟨c', stands, slot', tracking', entry', chosen⟩, windows, busy, flow⟩ := sendThrough_busy D.stands
  rw [D.divert] at windows busy
  exact h.result hv (by rw [NoGates, flow]; exact D.gates) stands.queue (slot'.trans slot) (tracking'.trans tracking)
    (entry'.trans entry) ⟨rfl, chosen, windows, busy⟩

/-- R106: where every record ahead is in the window or bound for a diverter before, none is too near. -/
theorem Decided.notTooNear (h : Decided forward pre post r s u) (hw : WindowsAt k ⟨some w, none⟩ s)
    (ha : ∀ y ∈ pre, BoundBefore s x.position y ∨ ∃ g ∈ w.bags, g.slot = y.slot ∧ g.departed = false) :
    ¬ TooNear u k x (decidedAt s r) := by
  have none : nearestAhead u k x (decidedAt s r).slot = none := by
    rw [nearestAhead_eq h.stands.queue rfl h.stands.ahead, List.find?_eq_none]
    intro y hy
    rw [Bool.and_eq_true, not_and_or]
    rcases ha y (List.mem_reverse.mp hy) with bound | ⟨g, hg, slot, live⟩
    · right
      rw [Bool.not_eq_true', Bool.not_eq_false, boundBefore_iff, h.boundBefore]
      exact bound
    · left
      have holds : holdsBag y.slot w = true := List.any_eq_true.mpr ⟨g, hg, by simp [slot, live]⟩
      have here : windowOfBag u k y.slot = some w := by
        rw [windowOfBag, show u.divert.windows.get k = _ from (h.windowsAt hw).at]
        simp [windowList, holds]
      simp [here]
  rw [TooNear, none]
  exact Bool.false_ne_true

/-- R106: then the bag has a window behind the one that stands. -/
theorem Decides.nextWindow (h : Decides a b forward r.slot p r s) (hs : Stands pre post r s) (hw : WindowsAt k ⟨some w, none⟩ s)
    (hx : Machine.diverterCfg s k = some x) (ho : (outcomeAt s r).outlet = outletOfDiverter k) (hz : w.bags = init ++ [z])
    (hc : ¬ gapBehind z.entry z.length r.entry < closingNeed s x)
    (ha : ∀ y ∈ pre, BoundBefore s x.position y ∨ ∃ g ∈ w.bags, g.slot = y.slot ∧ g.departed = false)
    (hf : reached (movedTo forward s) (fireFor s x r.entry) = false) :
    schedule r.slot (outcomeAt s r).outlet (decisionTaken a b forward r.slot r s) =
      openWindow k (decidedAt s r) (decisionTaken a b forward r.slot r s) := by
  have D : Decided forward pre post r s (decisionTaken a b forward r.slot r s) := decisionTaken_decided hs h.gates
  obtain ⟨-, -, entry, -⟩ := decidedAt_marks s r
  have placed := newWindow_placed (x := x) (c := decidedAt s r) (D.windowsAt hw).at
  rw [D.d, D.fireFor, entry] at placed
  exact ((h.behind hs hw hx ho hz).trans (if_neg hc)).trans (placed.opens (D.notTooNear hw ha) (Bool.eq_false_iff.mp hf))

/-! ## Bound through past a window (R103, R104) -/

variable {j : Diverter}

/-- R102: the record bound through passes a diverter whose position its entry position has not reached. -/
theorem Decided.passes (h : Decided forward pre post r s u) (hx : Machine.diverterCfg s j = some x)
    (hr : reached (movedTo forward s) (r.entry + mm x.position) = false) : Machine.passes u (decidedAt s r).entry .o0 j = true := by
  obtain ⟨-, -, entry, -⟩ := decidedAt_marks s r
  have position : outletPosition u .o0 = none := rfl
  simp [Machine.passes, h.diverterCfg, hx, h.d, entry, hr, position]

/-- R104: the closing check against the only bag of the only window. -/
theorem Decided.closingCheck (h : Decided forward pre post r s u) (hx : Machine.diverterCfg s j = some x)
    (hw : WindowsAt j ⟨some w, none⟩ s) (hz : w.bags = [z]) (he : 0 < posDiff r.entry z.entry) :
    closingCheck 9 (decidedAt s r).slot (decidedAt s r).entry j u =
      if gapBehind z.entry z.length r.entry < Machine.closingNeed s x then
        if w.fired then markRisk (decidedAt s r).slot u
        else Machine.closingCheck 8 (decidedAt s r).slot (decidedAt s r).entry j
          (sendThrough .gapConflict (decidedAt s r).slot z.slot (withdrawBag j z.slot u))
      else u := by
  obtain ⟨-, -, entry, -⟩ := decidedAt_marks s r
  have ahead : latestAhead (windowsOf u j) (decidedAt s r).entry = some (z, w.fired) := by
    rw [(h.windowsAt hw).at, entry]
    exact latestAhead_only hz he
  rw [closingCheck_ahead ((h.diverterCfg j).trans hx) ahead, entry, h.closingNeed]

/-- R103: the record bound through makes that check alone. -/
theorem Decides.passing (h : Decides a b forward r.slot p r s) (hs : Stands pre post r s) (hw : WindowsAt j ⟨some w, none⟩ s)
    (hx : Machine.diverterCfg s j = some x) (ho : (outcomeAt s r).outlet = .o0)
    (hr : reached (movedTo forward s) (r.entry + mm x.position) = false)
    (hv : closingCheck 9 (decidedAt s r).slot (decidedAt s r).entry j (decisionTaken a b forward r.slot r s) = v)
    (after : ∀ i, i ≠ j → windowsOf v i = {}) :
    schedule r.slot (outcomeAt s r).outlet (decisionTaken a b forward r.slot r s) = v := by
  have D : Decided forward pre post r s (decisionTaken a b forward r.slot r s) := decisionTaken_decided hs h.gates
  obtain ⟨slot, -⟩ := decidedAt_marks s r
  have through := schedule_through D.stands (D.passes hx hr) (fun i hi => (D.windowsAt hw).other hi) (by rw [hv]; exact after)
  rw [ho]
  rw [slot] at through hv
  exact through.trans hv

/-- R104: a gap long enough, and nothing happens. -/
theorem Decides.passesClear (h : Decides a b forward r.slot p r s) (hs : Stands pre post r s) (hw : WindowsAt j ⟨some w, none⟩ s)
    (hx : Machine.diverterCfg s j = some x) (ho : (outcomeAt s r).outlet = .o0) (hz : w.bags = [z])
    (hr : reached (movedTo forward s) (r.entry + mm x.position) = false) (he : 0 < posDiff r.entry z.entry)
    (hc : ¬ gapBehind z.entry z.length r.entry < closingNeed s x) :
    DecisionResult a b r post s fun t r' pre' => pre' = pre ∧ r'.chosen = some .o0 ∧ t.divert = s.divert := by
  have D : Decided forward pre post r s (decisionTaken a b forward r.slot r s) := decisionTaken_decided hs h.gates
  obtain ⟨slot, tracking, entry, -, chosen, -⟩ := decidedAt_marks s r
  have scheduled := h.passing hs hw hx ho hr ((D.closingCheck hx hw hz he).trans (if_neg hc)) fun i hi => (D.windowsAt hw).other hi
  exact h.result scheduled D.gates D.stands.queue slot tracking entry ⟨rfl, chosen.trans (congrArg some ho), D.divert⟩

/-- R104: behind the bag of a fired window the record is AT_RISK. -/
theorem Decides.passesFired (h : Decides a b forward r.slot p r s) (hs : Stands pre post r s) (hw : WindowsAt j ⟨some w, none⟩ s)
    (hx : Machine.diverterCfg s j = some x) (ho : (outcomeAt s r).outlet = .o0) (hz : w.bags = [z])
    (hr : reached (movedTo forward s) (r.entry + mm x.position) = false) (he : 0 < posDiff r.entry z.entry)
    (hc : gapBehind z.entry z.length r.entry < closingNeed s x) (hf : w.fired = true) :
    DecisionResult a b r post s fun t r' pre' => pre' = pre ∧ r'.chosen = some .o0 ∧ r'.flags.atRisk = true ∧
      t.divert = { s.divert with atRisk := if r.flags.atRisk then s.divert.atRisk else s.divert.atRisk + 1 } := by
  have D : Decided forward pre post r s (decisionTaken a b forward r.slot r s) := decisionTaken_decided hs h.gates
  obtain ⟨slot, tracking, entry, -, chosen, risk, -⟩ := decidedAt_marks s r
  have checked := ((D.closingCheck hx hw hz he).trans (if_pos hc)).trans (if_pos hf)
  have bound : (decidedAt s r).chosen = some .o0 := chosen.trans (congrArg some ho)
  unfold markRisk at checked
  rw [D.stands.found] at checked
  simp only [risk] at checked
  by_cases already : r.flags.atRisk = true
  · rw [if_pos already] at checked
    have scheduled := h.passing hs hw hx ho hr checked fun i hi => (D.windowsAt hw).other hi
    refine h.result scheduled D.gates D.stands.queue slot tracking entry ⟨rfl, bound, risk.trans already, ?_⟩
    rw [if_pos already]
    exact D.divert
  · rw [if_neg already] at checked
    have scheduled := h.passing hs hw hx ho hr checked fun i hi => (D.windowsAt hw).other hi
    refine h.result scheduled D.gates (D.stands.change _) slot tracking entry ⟨rfl, bound, rfl, ?_⟩
    rw [if_neg already, ← D.divert]
    rfl

/-- R104, R107, R108: the bag of an unfired window is withdrawn and sent through. -/
theorem Decides.passesUnfired (h : Decides a b forward r.slot p r s) (hs : Stands pre post r s) (hn : (segmentSlots s).Nodup)
    (hw : WindowsAt j ⟨some w, none⟩ s) (hx : Machine.diverterCfg s j = some x) (ho : (outcomeAt s r).outlet = .o0)
    (hz : w.bags = [z]) (hr : reached (movedTo forward s) (r.entry + mm x.position) = false) (he : 0 < posDiff r.entry z.entry)
    (hc : gapBehind z.entry z.length r.entry < closingNeed s x) (hf : w.fired = false) (hd : z.departed = false)
    {y : BagRecord} (hy : y ∈ pre) (hs' : y.slot = z.slot) :
    DecisionResult a b r post s fun t r' pre' => pre' = pre.map (fun y => if y.slot = z.slot then setChosen .o0 y else y) ∧
      r'.chosen = some .o0 ∧ t.divert = { s.divert with windows := ⟨{}, {}, {}⟩, gapConflict := s.divert.gapConflict + 1 } ∧
      isHeld (.firePoint j w.number) t = false ∧ isHeld (.releasePoint j w.number) t = false := by
  have D : Decided forward pre post r s (decisionTaken a b forward r.slot r s) := decisionTaken_decided hs h.gates
  obtain ⟨slot, tracking, entry, -, chosen, -⟩ := decidedAt_marks s r
  obtain ⟨y', found⟩ : ∃ y', findBag (decisionTaken a b forward r.slot r s) z.slot = some y' := Option.isSome_iff_exists.mp
    (List.find?_isSome.mpr ⟨y, by simp [D.stands.queue, hy], by simp [hs']⟩)
  have cleared := withdrawn_cleared (D.windowsAt hw) D.gates hf hz hd found (decidedAt s r).slot
  have checked := ((D.closingCheck hx hw hz he).trans (if_pos hc)).trans (if_neg (by rw [hf]; exact Bool.false_ne_true))
  have scheduled := h.passing hs hw hx ho hr (checked.trans (closingCheck_empty (cleared.windows.at j) _ _ _))
    fun i _ => cleared.windows.at i
  have behind : ∀ q ∈ post, q.slot ≠ z.slot := by
    intro q hq same
    have queue : ((pre ++ r :: post).map BagRecord.slot).Nodup := by rw [← hs.queue]; exact hn
    rw [List.map_append, List.map_cons, List.nodup_append] at queue
    exact queue.2.2 _ (List.mem_map_of_mem hy) _ (List.mem_cons_of_mem _ (List.mem_map_of_mem hq)) (hs'.trans same.symm)
  have own : (decidedAt s r).slot ≠ z.slot := by rw [slot, ← hs']; exact (hs.ahead y hy).symm
  have queue := cleared.queue
  rw [D.stands.queue, List.map_append, List.map_cons, if_neg own,
    (List.map_congr_left fun q hq => if_neg (behind q hq)).trans (List.map_id' post)] at queue
  exact h.result scheduled cleared.gates queue slot tracking entry
    ⟨rfl, chosen.trans (congrArg some ho), by rw [← D.divert]; exact cleared.divert, cleared.fire, cleared.release⟩

end

end

end Sys2Proof.Machine
end

section
/-! PROOFS. O43: the decision lines, the decision and the scheduling of a record, and a late-set change (R84 to R88, R82, R92). -/

namespace Sys2Proof.Machine

/-! ## The decision of a record anywhere in the queue (R82, R83, R89) -/

section
variable {s : State} {r : BagRecord} {slot : Nat} {a b forward : Bool} {p : Pos}

theorem countPass_count (s : State) (r : BagRecord) : (countPass s r).passCount =
    if (cfg s).loopHead = true ∧ (∃ x ∈ (cfg s).sources, x.station = r.source ∧ x.loopReturn = true) then min 7 (r.passCount + 1)
    else r.passCount := by
  have marked : (cfg s).sources.any (fun x => decide (x.station = r.source) && x.loopReturn) = true ↔
      ∃ x ∈ (cfg s).sources, x.station = r.source ∧ x.loopReturn = true := by simp
  unfold countPass
  split
  · rename_i h
    exact (if_pos (h.imp_right marked.mp)).symm
  · rename_i h
    exact (if_neg (mt (And.imp_right marked.mpr) h)).symm

theorem outcomeAt_eq (s : State) (r : BagRecord) :
    outcomeAt s r = decideLines s { r with passCount := (countPass s r).passCount } := by
  rw [outcomeAt, ← countPass_marks]

/-- R89: the stray record of the decision. -/
theorem decisionTaken_strays (ha : acting s = true) (hr : r.slot = slot) :
    ((outcomeAt s r).assigned = none → (decisionTaken a b forward slot r s).exc.strays = s.exc.strays) ∧
    (∀ reason, (outcomeAt s r).assigned = some reason → r.decision.outlet ≠ some (cfg s).exceptionOutlet →
      ∃ y, (decisionTaken a b forward slot r s).exc.strays.head? = some y ∧ y.reason = reason ∧ y.slot = some slot ∧
        y.sequence = s.exc.nextSeq) := by
  let base := updateBag slot (fun _ => decidedAt s r) (withdraw (.decisionPosition slot) (countTaken a b forward s))
  obtain ⟨made, none⟩ := strayOfOutcome_strays (s := base) (r := countPass s r) (oc := outcomeAt s r)
    (previous := r.decision.outlet) ha
  refine ⟨none, fun reason hreason ho => ?_⟩
  obtain ⟨list, -⟩ := made reason hreason ho
  have same : decisionTaken a b forward slot r s = strayOfOutcome (outcomeAt s r) r.decision.outlet (countPass s r) base := rfl
  exact ⟨_, by rw [same, list]; rfl, rfl, congrArg some ((countPass_slot s r).trans hr), rfl⟩

/-- R82, R83, R89: the record decided, with no window and no gate. -/
theorem Decides.record (h : Decides a b forward slot p r s) (hw : NoWindows s) : ∃ t d,
    Machine.exec (.encoderCount a b) s = .next t ∧ Keeps (countMoved a b forward s) t ∧ segmentSlots t = segmentSlots s ∧
      findBag t slot = some d ∧ d.tracking = .decided ∧ d.passCount = (countPass s r).passCount ∧ d.entry = r.entry ∧
      d.plate = r.plate ∧ d.part = r.part ∧
      d.decision = ⟨some (outcomeAt s r).outlet, (outcomeAt s r).assigned, (outcomeAt s r).assigned.isSome⟩ ∧
      (d.chosen = some (outcomeAt s r).outlet ∨ d.chosen = some .o0) ∧
      d.flags.stray = (r.flags.stray || (outcomeAt s r).assigned.isSome) ∧
      ((outcomeAt s r).assigned = none → d.reason = r.reason ∧ t.exc.strays = s.exc.strays) ∧
      (∀ reason, (outcomeAt s r).assigned = some reason → d.reason = some reason ∧
        (r.decision.outlet ≠ some (cfg s).exceptionOutlet →
          ∃ y, t.exc.strays.head? = some y ∧ y.reason = reason ∧ y.slot = some slot ∧ y.sequence = s.exc.nextSeq)) := by
  obtain ⟨t, d, taken, slots, found, rebound, tracking, strays⟩ := h.alone hw
  obtain ⟨t', taken', keeps⟩ := exec_count_keeps h.comes
  obtain rfl : t = t' := by rw [taken] at taken'; injection taken'
  obtain ⟨none, made⟩ := decisionTaken_strays (a := a) (b := b) (forward := forward) h.comes.applies (findBag_slot h.found).1
  obtain ⟨-, -, entry, -, chosen, -⟩ := decidedAt_marks s r
  obtain ⟨passCount, plate, part, decision, stray, reason⟩ := decidedAt_outcome s r
  have seen {α : Type} (view : BagRecord → α) : view d.unscheduled = view (decidedAt s r).unscheduled :=
    congrArg view rebound.unscheduled
  rw [← strays] at none made
  refine ⟨t, d, taken, keeps, slots, found, tracking, (seen BagRecord.passCount).trans passCount, (seen BagRecord.entry).trans entry,
    (seen BagRecord.plate).trans plate, (seen BagRecord.part).trans part, (seen BagRecord.decision).trans decision,
    rebound.chosen.imp_left chosen.subst, (seen fun x => x.flags.stray).trans stray, fun ha => ⟨?_, none ha⟩,
    fun x hx => ⟨?_, made x hx⟩⟩
  · exact (seen BagRecord.reason).trans (reason.trans (by rw [ha]; rfl))
  · exact (seen BagRecord.reason).trans (reason.trans (by rw [hx]; rfl))

end

/-! ## A changed late set (R92, R93, R95) -/

section
variable {h : Header} {d : DestSet} {r : BagRecord} {s : State}

/-- R80: DEST_CLOSE of further destinations, with one record in the queue. -/
theorem exec_destClose_one (ht : Taken h s) (ha : acting s = true) (hs : s.tracker.segment = [r])
    (hl : s.routes.late ||| d ≠ s.routes.late) : exec (.destCloseReceived h d 1) s =
      .next (drivePins (redecide r.slot (lateWritten (s.routes.late ||| d) s))) := by
  have one : redecideAll (lateWritten (s.routes.late ||| d) s) = redecide r.slot (lateWritten (s.routes.late ||| d) s) := by
    rw [redecideAll, segmentSlots, show (lateWritten (s.routes.late ||| d) s).tracker.segment = [r] from hs]
    rfl
  rw [exec_destCloseReceived d 1 ht ha, lateAfter, if_pos rfl, putLate_eq, if_neg hl, one]

/-- The only record of the queue replaced. -/
def onlyRecord (r : BagRecord) (s : State) : State := { s with tracker := { s.tracker with segment := [r] } }

theorem onlyRecord_self (hs : s.tracker.segment = [r]) : onlyRecord r s = s := by rw [onlyRecord, ← hs]

theorem updateBag_only (hs : s.tracker.segment = [r]) (f : BagRecord → BagRecord) : updateBag r.slot f s = onlyRecord (f r) s := by
  simp [updateBag, hs, onlyRecord]

/-- R92: the same outlet stands. -/
theorem redecide_only_same (hs : s.tracker.segment = [r])
    (ho : r.decision.outlet = some (decideLines s r).outlet) : redecide r.slot s = onlyRecord (redecided s r) s := by
  by_cases ht : r.tracking = .decided
  · rw [redecide_keeps (findBag_only hs) ht ho, updateBag_only hs, keepOutcome_redecided ht ho]
  · obtain ⟨same, alike⟩ := redecide_same (findBag_only hs) ht fun _ => ho
    rw [same, alike, onlyRecord_self hs]

/-- R95: a fired bag refuses another outlet. -/
theorem redecide_only_refuses (hs : s.tracker.segment = [r]) (ht : r.tracking = .diverting ∨ r.tracking = .releasedUnconfirmed)
    (ho : r.decision.outlet ≠ some (decideLines s r).outlet) : ∃ bus one two, redecide r.slot s =
      { onlyRecord { r with flags := { r.flags with overrideLate := true } } s with
        bus := bus, exc := { s.exc with counter1 := one, counter2 := two } } := by
  obtain ⟨bus, one, two, marks⟩ := refuseRedecision_marks r s
  rw [updateBag_only hs] at marks
  exact ⟨bus, one, two, (redecide_refuses (findBag_only hs) ht ho).trans marks⟩

theorem redecide_only_undecided (hs : s.tracker.segment = [r]) (hd : isDecided r = false) : redecide r.slot s = s := by
  have all := redecideAll_undecided (s := s) (by simpa [hs] using hd)
  rwa [redecideAll, segmentSlots, hs] at all

end

/-- Settles O43: the lines are those of `decideLines`, a decision is `Decides.record`, its scheduling one of the `Decides` lemmas, and
a late-set change one of the `redecide_only` lemmas. -/
theorem decisionWritesTheOutcome : Obligations.DecisionWritesTheOutcome := by
  refine ⟨fun b s => ?_, fun a b forward pre post r p s hc ht hg hp hs hne hn hd _ => ?_,
    fun a b forward slot p r s hc ht hw hg hp hb hd _ => ?_, fun h d r s ht ha hs hl _ => ?_⟩
  · refine ⟨fun h => decideLines_foreign (by simp [foreignStray, h.1, h.2]), fun h => ?_⟩
    have hf := not_foreignStray h
    obtain ⟨duplicate, mismatch, ambiguous⟩ := refusalReason_marked (s := s) (b := b)
    refine ⟨fun h1 => decideLines_refused hf (duplicate h1), fun h1 h2 => decideLines_refused hf (mismatch h1 h2),
      fun h1 h2 h3 => decideLines_refused hf (ambiguous h1 h2 h3), fun hm p hp => ?_, fun hm hh => ?_⟩
    · obtain ⟨cancelled, inspect, ship, late, -⟩ := refusalReason_unmarked (s := s) hm hp
      exact ⟨fun h1 => decideLines_refused hf (cancelled h1), fun h1 => decideLines_refused hf (inspect h1),
        fun h1 h2 h3 => decideLines_refused hf (ship h1 h2 h3), fun h1 h2 h3 h4 => decideLines_refused hf (late h1 h2 h3 h4)⟩
    · have none : refusalReason s b = none := refusalReason_clear hm hh
      refine ⟨decideLines_limit hf none, fun hlim => ⟨fun hu => ?_, fun p hst hp => ?_⟩⟩
      · have line := decideLines_unresolved hf none hlim hu
        rw [unresolvedReason_eq] at line
        exact throughOpen_cases line
      · obtain ⟨best, noRoute⟩ := decideLines_resolved hf none hlim hst hp
        exact ⟨best, fun hb => (throughOpen_cases (noRoute hb)).1, fun hb => (throughOpen_cases (noRoute hb)).2⟩
  · have stands : Stands pre post r s := ⟨hs, hne⟩
    have decides : Decides a b forward r.slot p r s := ⟨hc, ht, hg, hp, stands.found, hd⟩
    refine ⟨fun k x ho hx => ⟨fun hw => ?_, fun w init z hw hf hz => ⟨fun hclose hlen hr => ?_, fun hclose hlen => ?_,
      fun hfar hnum hahead hfire hr => ?_⟩⟩, fun j x w z ho hx hw hz hr he => ⟨fun hfar => ?_, fun hclose hf => ?_,
      fun hclose hf hdep hy => ?_⟩⟩
    · have placed := decides.firstWindow stands hw hx ho
      refine ⟨fun y hy hnear => ?_, fun hfar => ⟨fun hlate => ?_, fun hahead hr => ?_⟩⟩
      · exact (decides.sentThrough stands hw (placed.conflict ⟨y, hy, hnear⟩)).mono
          fun t r' pre' ⟨ahead, chosen, windows, conflict, _⟩ => ⟨ahead, chosen, windows, conflict rfl⟩
      · exact (decides.sentThrough stands hw (placed.tooLate (fun ⟨y, hy, hnear⟩ => hfar y hy hnear) hlate)).mono
          fun t r' pre' ⟨ahead, chosen, windows, _, late⟩ => ⟨ahead, chosen, windows, late rfl⟩
      · exact decides.opens stands hx ho (NoWindows.windowsAt hw k) (fun _ h => by cases h) hahead hr
          (placed.opens (fun ⟨y, hy, hnear⟩ => hfar y hy hnear) (Bool.eq_false_iff.mp hahead))
    · have joins := (decides.behind stands hw hx ho hz).trans ((if_pos hclose).trans (if_pos hlen))
      exact decides.joins stands hw hf hx ho hr joins
    · have busy := (decides.behind stands hw hx ho hz).trans ((if_pos hclose).trans (if_neg (not_lt.mpr hlen)))
      exact decides.busy stands busy
    · exact decides.opens stands hx ho hw (by rintro v ⟨⟩; exact hnum) hfire hr
        (decides.nextWindow stands hw hx ho hz hfar hahead hfire)
    · exact decides.passesClear stands hw hx ho hz hr he hfar
    · exact decides.passesFired stands hw hx ho hz hr he hclose hf
    · obtain ⟨y, hy, same⟩ := hy
      exact decides.passesUnfired stands hn hw hx ho hz hr he hclose hf hdep hy same
  · have decides : Decides a b forward slot p r s := ⟨hc, ht, hg, hp, hb, hd⟩
    have record := decides.record hw
    rw [outcomeAt_eq, countPass_count] at record
    refine ⟨fun hst hdup => ?_, fun part o hflags hpart hres hcls hship hships hlate hlim hbest => ?_, record⟩
    · refine decideLines_refused (not_foreignStray (.inl ?_)) (refusalReason_marked.1 ?_)
      · exact hst
      · exact hdup
    · refine decideLines_best (p := part) ?_ ?_ ?_ (not_heldBack hcls hship hships hlate) ?_ hbest
      · exact hflags
      · exact hpart
      · exact hres
      · exact hlim
  · have taken := exec_destClose_one ht ha hs hl
    have queue : (lateWritten (s.routes.late ||| d) s).tracker.segment = [r] := hs
    refine ⟨fun hd => ?_, fun _ ho => ?_, fun hd ho => ?_, fun hm => ⟨_, taken, redecide_moved ha queue hm⟩⟩
    · rw [taken, redecide_only_undecided queue hd]
      rfl
    · rw [taken, redecide_only_same queue ho]
      rfl
    · obtain ⟨bus, one, two, refuses⟩ := redecide_only_refuses queue hd ho
      rw [refuses] at taken
      exact ⟨_, taken, rfl, rfl, rfl, rfl, rfl⟩

end Sys2Proof.Machine
end
